-- ==== Sys2Proof/Word.lean ====
section
/-!
DEFINITION. The word types that cross a station port: a character and a value of the millisecond clock.
-/
namespace Sys2Proof

/-- One character of a station port: 8 data bits (R163). -/
abbrev Byte := BitVec 8

/-- A value of the millisecond clock, a 32-bit count that wraps (00 "Time", R49). -/
abbrev Clock := BitVec 32

end Sys2Proof
end

