-- ==== Sys2Proof/Syntax.lean ====
section
/-!
DEFINITION. The commands of the LC-6: one constructor of `Instr` for each row of spec/opcode_table.json, with the
operand types that they carry. Request rows carry the port whose request in service they serve and the fields of the
request's payload as Table 9-5 lists them, not yet checked against any range.
-/
namespace Sys2Proof

/-- A station port, 0 to 5 (00 "Fixed numbering"). -/
abbrev Port := Fin 6

/-- A hold group 1 to 6, held as its number less one. -/
abbrev Group := Fin 6

/-- A crane 1 to 4, held as its number less one. -/
abbrev CraneNo := Fin 4

/-- A sensor channel, 0 to 38 (R49). -/
abbrev ChannelNo := Fin 39

/-- A tank, 0 to 31 (R7). -/
abbrev TankNo := Fin 32

/-- A stow position: x aft end, x fore end, VCG and TCG in mm (Table 2-1). -/
structure Position where
  a : Int
  f : Int
  vcg : Int
  tcg : Int
deriving DecidableEq, Repr, Inhabited

/-- A point of the ship frame, in the order x, z, y of CLEAR-REQUEST (Table 9-5). -/
structure Point where
  x : Int
  z : Int
  y : Int
deriving DecidableEq, Repr, Inhabited

/-- LOADING or DISCHARGING (Table 2-1). -/
inductive Direction where
  | loading
  | discharging
deriving DecidableEq, Repr, Inhabited

/-- The nine kinds of amendment with the fields each carries (R127). -/
inductive Amendment where
  | planLoad (mark : List Byte) (weight : Int) (space : Nat) (pos : Position) (hazard : Option Nat)
  | planShift (handle space : Nat) (pos : Position)
  | planCancel (handle : Nat)
  | markDischarge (handle : Nat)
  | unmark (handle : Nat)
  | directStow (handle : Nat)
  | restow (handle space : Nat) (pos : Position)
  | directRemove (handle : Nat)
  | correctWeight (handle : Nat) (weight : Int)
deriving DecidableEq, Repr

/-- The values of one reading (Table 9-2): a sounding, draft or heel, or a hook load with its boom head. -/
inductive ReadingValue where
  | level (value : Int)
  | hook (load : Nat) (x y z : Int)
deriving DecidableEq, Repr

/-- The control fields of TALLY-CONTROL as the payload carries them, in the order of R177. -/
structure ControlFields where
  cls : Nat
  subevents : Nat
  roles : Nat
  groups : Nat
  inhibit : Nat
  notice : Nat
  readable : Nat
deriving DecidableEq, Repr, Inhabited

/-- One field of a payload with its type of Table 9-4. A set-or-clear field, a named value and a presence byte are `u8`. -/
inductive Val where
  | u8 (n : Nat)
  | u16 (n : Nat)
  | u32 (n : Nat)
  | u64 (n : Nat)
  | i32 (z : Int)
  | text (bytes : List Byte)
deriving DecidableEq, Repr, Inhabited

/-- The type of one field of a payload or of a book record (Table 9-4). -/
inductive FieldTy where
  | u8
  | u16
  | u32
  | u64
  | i32
  | text
deriving DecidableEq, Repr, Inhabited

/-- The commands and events of the block, one for each row of spec/opcode_table.json. -/
inductive Instr where
  /-- POWER_ON: power-on with supply good (R13). -/
  | powerOn
  /-- RESET_ASSERT: the reset input is asserted; `cut` names the port whose BOOK-WRITE in service has written its entry by then,
  where one has (R13, R17; log entry 13). -/
  | resetAssert (cut : Option Port)
  /-- RESET_RELEASE: the reset input is released (R13). -/
  | resetRelease
  /-- START_CHECKS_COMPLETE: the START checks finish with the strap sampled at this level (R14). -/
  | startChecksComplete (strapHigh : Bool)
  /-- FRAME_DELIVER: these characters arrive at the port, in order, without framing error and without a gap above 10 ms (R163). -/
  | frameDeliver (p : Port) (chars : List Byte)
  /-- CHARACTER_TIMEOUT: more than 10 ms pass after the last character at the port (R163). -/
  | characterTimeout (p : Port)
  /-- FRAMING_ERROR: a character without a stop bit arrives at the port (R163). -/
  | framingError (p : Port)
  /-- UNKNOWN_REQUEST: the request in service is of unknown kind or of unfitting length (R167). -/
  | unknownRequest (p : Port)
  /-- BOOK_READ (R1). -/
  | bookRead (p : Port) (sect entry : Nat)
  /-- BOOK_STATUS (R1). -/
  | bookStatus (p : Port)
  /-- BOOK_WRITE (R17), with the record's bytes. -/
  | bookWrite (p : Port) (sect entry : Nat) (record : List Byte)
  /-- BOOK_ACCEPT (R18). -/
  | bookAccept (p : Port)
  /-- LOT_READ (R23). -/
  | lotRead (p : Port) (handle : Nat)
  /-- SPACE_READ (R40). -/
  | spaceRead (p : Port) (space fromPos : Nat)
  /-- ASHORE_READ (R25). -/
  | ashoreRead (p : Port) (fromPos : Nat)
  /-- CHANNEL_READ (R72). -/
  | channelRead (p : Port) (channel : Nat)
  /-- TANK_READ (R72). -/
  | tankRead (p : Port) (tank : Nat)
  /-- VERDICT_READ (R119); the set is 0 LIVE or 1 PLAN. -/
  | verdictRead (p : Port) (set : Nat)
  /-- CAPTURE_READ (R124). -/
  | captureRead (p : Port)
  /-- LINK_READ (R138). -/
  | linkRead (p : Port) (group : Nat)
  /-- READ_JOURNAL (R141). -/
  | readJournal (p : Port) (fromGen : Nat)
  /-- FIXED_READ (R142). -/
  | fixedRead (p : Port) (item : Nat)
  /-- CRANE_READ (R162). -/
  | craneRead (p : Port) (crane : Nat)
  /-- FAULT_READ (R169). -/
  | faultRead (p : Port)
  /-- PORT_STATUS (R176). -/
  | portStatus (p : Port) (port : Nat)
  /-- READ_TALLY (R183). -/
  | readTally (p : Port) (tally : Nat)
  /-- CLAIM (R128). -/
  | claim (p : Port) (space : Nat)
  /-- STAGE (R129), with the amendment as carried (R127). -/
  | stage (p : Port) (group : Nat) (amendment : Amendment)
  /-- COMMIT (R131); `override` is the flag byte. -/
  | commit (p : Port) (group override : Nat)
  /-- RELEASE_LINK (R135). -/
  | releaseLink (p : Port) (group : Nat)
  /-- FIXED_SET (R142); `presence` is the named value's byte. -/
  | fixedSet (p : Port) (item : Nat) (weight x z y : Int) (presence : Nat)
  /-- TANK_MANUAL (R70). -/
  | tankManual (p : Port) (tank : Nat) (sounding : Int)
  /-- TANK_DENSITY (R71). -/
  | tankDensity (p : Port) (tank : Nat) (density : Int)
  /-- TANK_PLAN (R71); `none` is the clearing form. -/
  | tankPlan (p : Port) (tank : Nat) (fill : Option Int)
  /-- CHANNEL_RESTORE (R62). -/
  | channelRestore (p : Port) (channel : Nat)
  /-- CHANNEL_MODE_CHANNEL (R61), form 0. -/
  | channelModeChannel (p : Port) (channel mode : Nat)
  /-- CHANNEL_MODE_QUEUE_LEVEL (R61, R54), form 1. -/
  | channelModeQueueLevel (p : Port) (level : Nat)
  /-- CAPTURE_CLEAR (R123). -/
  | captureClear (p : Port)
  /-- CAPTURE_MODE (R123); 0 FIRST, 1 ALL. -/
  | captureMode (p : Port) (mode : Nat)
  /-- FAULT_CLEAR (R169). -/
  | faultClear (p : Port)
  /-- CONDITION_MODE (R101); 0 HARBOUR, 1 SEA. -/
  | conditionMode (p : Port) (mode : Nat)
  /-- CONDITION_CONFIRM (R20). -/
  | conditionConfirm (p : Port)
  /-- PURGE_ASHORE (R26). -/
  | purgeAshore (p : Port)
  /-- TALLY_CONTROL (R181). -/
  | tallyControl (p : Port) (tally : Nat) (control : ControlFields)
  /-- TALLY_SET (R182). -/
  | tallySet (p : Port) (tally value : Nat)
  /-- STOP_VOTE_SET (R158): a STOP-VOTE whose action byte is not 1; an action other than 0 is MALFORMED. -/
  | stopVoteSet (p : Port) (crane action : Nat)
  /-- STOP_VOTE_RELEASE (R158): a STOP-VOTE whose action byte is 1. -/
  | stopVoteRelease (p : Port) (crane : Nat)
  /-- CLEAR_REQUEST (R147); 0 LOADING, 1 DISCHARGING. -/
  | clearRequest (p : Port) (crane lot direction : Nat) (worst : Point)
  /-- CLEAR_CANCEL (R151). -/
  | clearCancel (p : Port) (crane : Nat)
  /-- SUBSCRIBE (R174). -/
  | subscribe (p : Port) (mask : Nat)
  /-- PORT_RESTART (R172): `some tag` is its delivery at the port with this tag; `none` is the service of a PORT-RESTART
  that joined the request queue in COMMISSION. -/
  | portRestart (p : Port) (delivered : Option Byte)
  /-- READING_REPORT (R52): a whole reading report is delivered at the port. -/
  | readingReport (p : Port) (channel : Nat) (value : ReadingValue)
  /-- HOOK_ON (R152): a whole HOOK-ON report is delivered at the port. -/
  | hookOn (p : Port) (crane lot : Nat)
  /-- LAND (R155): a whole LAND report is delivered at the port. -/
  | land (p : Port) (crane lot : Nat)
  /-- LAND_BACK (R157): a whole LAND-BACK report is delivered at the port. -/
  | landBack (p : Port) (crane lot : Nat)
  /-- APPLY_READING (R55). -/
  | applyReading
  /-- CHANNEL_STALE_EXPIRY (R63). -/
  | channelStaleExpiry (channel : ChannelNo)
  /-- HOOK_STALE_EXPIRY (R160). -/
  | hookStaleExpiry (crane : CraneNo)
  /-- PORT_SILENCE (R171). -/
  | portSilence (p : Port)
  /-- LIVE_PASS_COMPLETE (R117). -/
  | livePassComplete
  /-- PLAN_PASS_COMPLETE (R117). -/
  | planPassComplete
  /-- COMMIT_TRIAL_COMPLETE (R133). -/
  | commitTrialComplete
  /-- CLEARANCE_TRIAL_COMPLETE (R150). -/
  | clearanceTrialComplete
  /-- LIMIT_EVENT (R159). -/
  | limitEvent
  /-- FRAME_SENT (R175): the port finishes sending the frame on its line. -/
  | frameSent (p : Port)
  /-- POWER_LOSS: the supply fails; `cut` as at RESET_ASSERT (R13, R17, R19). -/
  | powerLoss (cut : Option Port)
deriving DecidableEq, Repr

end Sys2Proof
end

