-- ==== Sys2Proof/Machine/State.lean ====
section
/-!
DEFINITION. The state of the LC-6 as plain data: the Vessel Book, the retained condition, the volatile state of every
block, the inputs, and the queue of waiting commands; the reasons a step can stop; and the state after reset.
-/
namespace Sys2Proof.Machine

/-! ### Named values -/

/-- The part states (R13). -/
inductive PartState where
  | start
  | commission
  | service
deriving DecidableEq, Repr, Inhabited

/-- The book status (R1). -/
inductive BookStatus where
  | valid
  | unchecked
deriving DecidableEq, Repr, Inhabited

/-- The five check codes of BOOK-ACCEPT (R2). -/
inductive CheckCode where
  | count
  | order
  | range
  | relation
  | noOfficer
deriving DecidableEq, Repr, Inhabited

/-- The acceptance result of the last BOOK-ACCEPT since START (R1). -/
inductive Acceptance where
  | none
  | passed
  | failed (sect entry : Nat) (code : CheckCode)
deriving DecidableEq, Repr, Inhabited

/-- The role of a port (R12). A byte of an UNCHECKED book that names no role is `unlisted`. -/
inductive Role where
  | officer
  | planner
  | crane
  | gauge
  | shore
  | unused
  | unlisted (code : Nat)
deriving DecidableEq, Repr, Inhabited

/-- The kind of a stow space (R6). A byte of an UNCHECKED book that names no kind is `unlisted`. -/
inductive SpaceKind where
  | hold
  | tweendeck
  | hatchcover
  | deck
  | unlisted (code : Nat)
deriving DecidableEq, Repr, Inhabited

/-- The recovery mode of a channel (R8, R60). A byte of an UNCHECKED book that names no mode is `unlisted`. -/
inductive RecoveryMode where
  | automatic
  | confirm
  | manual
  | unlisted (code : Nat)
deriving DecidableEq, Repr, Inhabited

/-- The presence of a fixed item (R12). A byte of an UNCHECKED book that names no presence is `unlisted`. -/
inductive Presence where
  | present
  | absent
  | unlisted (code : Nat)
deriving DecidableEq, Repr, Inhabited

/-- The intent of a STOWED lot (Table 2-1). -/
inductive Intent where
  | keep
  | discharge
deriving DecidableEq, Repr, Inhabited

/-- The state of a channel (R49). -/
inductive ChannelState where
  | active
  | doubtful
  | distrusted
  | isolated
deriving DecidableEq, Repr, Inhabited

/-- The source of a tank's applied sounding (03 section 3.6). -/
inductive Source where
  | gauged
  | manual
deriving DecidableEq, Repr, Inhabited

/-- The condition mode (R100). -/
inductive ConditionMode where
  | harbour
  | sea
deriving DecidableEq, Repr, Inhabited

/-- A sum set, or the verdict or job of one (R74, R107). -/
inductive SetName where
  | live
  | plan
deriving DecidableEq, Repr, Inhabited

/-- The mode of the Exceedance Capture (R121). -/
inductive CaptureMode where
  | first
  | all
deriving DecidableEq, Repr, Inhabited

/-- The state a crane was halted from (R143). -/
inductive HaltedFrom where
  | cleared
  | lifting
deriving DecidableEq, Repr, Inhabited

/-- The kinds of Journal entry (R140): the nine amendments in the order of R127, then the others. -/
inductive JournalKind where
  | planLoad
  | planShift
  | planCancel
  | markDischarge
  | unmark
  | directStow
  | restow
  | directRemove
  | correctWeight
  | hookOn
  | land
  | landBack
  | purgeAshore
  | fixedSet
deriving DecidableEq, Repr, Inhabited

/-- The notice kinds, in the order of their bits in R174. -/
inductive NoticeKind where
  | verdict
  | planVerdict
  | permit
  | channel
  | readingLost
  | queueHigh
  | linkTaken
  | unpermittedLift
  | overstow
  | unknownLot
  | outOfOrder
  | weightDisagree
  | overload
  | accessFault
  | tallyOverflow
deriving DecidableEq, Repr, Inhabited

/-- The reply status codes (Table 9-3). -/
inductive Status where
  | done
  | accepted
  | acceptedOverridden
  | rejectedLimits
  | linkLost
  | linkAbsent
  | stageIgnored
  | cleared
  | deniedLimits
  | deniedStopped
  | clearanceLost
  | unknownLot
  | wrongState
  | outOfSpace
  | spaceOverweight
  | segregation
  | overstowed
  | tableFull
  | outOfReach
  | overSwl
  | stopped
  | busy
  | denied
  | malformed
  | notInService
  | notInCommission
  | gone
  | bookValid
  | bookFault
deriving DecidableEq, Repr, Inhabited

/-- The causes of an access fault (R168). -/
inductive Cause where
  | role
  | override
  | craneNotOwn
  | channelNotOwn
  | tallyHidden
deriving DecidableEq, Repr, Inhabited

/-- The value of a refusal with its class (Table 9-2), or of an access fault. -/
inductive RefValue where
  | none
  | handle (n : Nat)
  | space (n : Nat)
  | crane (n : Nat)
  | channel (n : Nat)
  | tally (n : Nat)
  | ports (mask : Nat)
deriving DecidableEq, Repr, Inhabited

/-! ### The Vessel Book (01 section 1.2, layout R165) -/

/-- Section 1, HULL (R3). -/
structure Hull where
  lbp : Int
  weight : Int
  lcg : Int
  vcg : Int
  tcg : Int
  wa : Vector Int 21
deriving DecidableEq, Repr, Inhabited

/-- One row of section 2, HYDROSTATICS (R4). -/
structure HydroRow where
  disp : Int
  tlcf : Int
  kmt : Int
  lcb : Int
  lcf : Int
  mctc : Int
  tpc : Int
  bf : Vector Int 21
deriving DecidableEq, Repr, Inhabited

/-- One row of section 4, CROSS-CURVES (R5). -/
structure CrossRow where
  disp : Int
  kn : Vector Int 9
deriving DecidableEq, Repr, Inhabited

/-- One record of section 5, FRAME-STATIONS (R3). -/
structure FrameStation where
  x : Int
  shearHarbour : Int
  shearSea : Int
  hogHarbour : Int
  sagHarbour : Int
  hogSea : Int
  sagSea : Int
deriving DecidableEq, Repr, Inhabited

/-- One record of section 6, STOW-SPACES (R6); `kind` is the named value's byte. -/
structure Space where
  group : Nat
  kind : Nat
  xAft : Int
  xFore : Int
  zFloor : Int
  zCeiling : Int
  yPort : Int
  yStarboard : Int
  maxWeight : Int
deriving DecidableEq, Repr, Inhabited

/-- The constants of one tank of section 7, TANKS (R7). -/
structure TankConstants where
  xAft : Int
  xFore : Int
  depth : Int
  capacity : Int
  refDensity : Int
  defDensity : Int
  rate : Int
  margin : Int
  freshness : Int
  points : Nat
deriving DecidableEq, Repr, Inhabited

/-- One sounding point of a tank (R7). -/
structure SoundingPoint where
  sounding : Int
  volume : Int
  lcg : Int
  vcg : Int
  tcg : Int
  fsm : Int
deriving DecidableEq, Repr, Inhabited

/-- One tank's 25 entries of section 7 (R1, R7). -/
structure TankBook where
  consts : TankConstants
  points : Vector SoundingPoint 24
deriving DecidableEq, Repr, Inhabited

/-- Section 8, CHANNELS (R8); the modes are the named values' bytes. -/
structure ChannelsBook where
  draftFresh : Int
  heelFresh : Int
  draftTolerance : Int
  heelTolerance : Int
  modes : Vector Nat 39
deriving DecidableEq, Repr, Inhabited

/-- One record of section 9, CRANES (R9); `reach` has bit n - 1 for hold group n. -/
structure CraneBook where
  swl : Int
  reach : Nat
  pedestalX : Int
  pedestalY : Int
  outreach : Int
  freshness : Int
  heelLimit : Int
  hysteresis : Int
  gmMin : Int
  tolerance : Int
  threshold : Int
deriving DecidableEq, Repr, Inhabited

/-- Section 10, CRITERIA (R10): the twelve enable bytes and the eight thresholds. -/
structure CriteriaBook where
  enable : Vector Nat 12
  gmMin : Int
  area30 : Int
  area40 : Int
  area3040 : Int
  gz30 : Int
  maxAngle : Int
  listMax : Int
  draftMax : Int
deriving DecidableEq, Repr, Inhabited

/-- One record of section 12, PORT-ROLES (R12); `cranes` has bit n - 1 for crane n. -/
structure PortBook where
  role : Nat
  cranes : Nat
deriving DecidableEq, Repr, Inhabited

/-- One record of section 13, FIXED-ITEMS (R12); `presence` is the named value's byte. -/
structure FixedBook where
  label : List Byte
  weight : Int
  x : Int
  z : Int
  y : Int
  presence : Nat
deriving DecidableEq, Repr, Inhabited

/-- The thirteen sections as stored, with the records beyond each count (R1, Table 1-1). -/
structure Book where
  hull : Hull
  hydroCount : Nat
  hydro : Vector HydroRow 64
  trim : Vector Int 21
  crossCount : Nat
  cross : Vector CrossRow 32
  stations : Vector FrameStation 21
  spaceCount : Nat
  spaces : Vector Space 48
  tankCount : Nat
  tanks : Vector TankBook 32
  channels : ChannelsBook
  craneCount : Nat
  cranes : Vector CraneBook 4
  criteria : CriteriaBook
  segregation : Vector Nat 81
  ports : Vector PortBook 6
  fixedCount : Nat
  fixed : Vector FixedBook 16
deriving DecidableEq, Repr, Inhabited

/-! ### The retained condition (01 section 1.5) -/

/-- The state of a lot with the fields present in it (Table 2-1): direction and crane in HOOKED, intent in STOWED, stow
time in STOWED and in HOOKED (DISCHARGING), ashore time in ASHORE. -/
inductive LotState where
  | planned
  | hookedLoading (crane : CraneNo)
  | hookedDischarging (crane : CraneNo) (stowTime : Clock)
  | stowed (intent : Intent) (stowTime : Clock)
  | ashore (ashoreTime : Clock)
deriving DecidableEq, Repr, Inhabited

/-- A lot record (R21); its handle is its key in the table. -/
structure Lot where
  mark : List Byte
  state : LotState
  declared : Int
  verified : Option Int
  space : Nat
  pos : Position
  hazard : Option Nat
  originPort : Port
  originRole : Role
deriving DecidableEq, Repr, Inhabited

/-- A fixed item in force (R142). -/
structure FixedItem where
  weight : Int
  x : Int
  z : Int
  y : Int
  presence : Presence
deriving DecidableEq, Repr, Inhabited

/-- A tank fill record (03 section 3.6). -/
structure TankFill where
  applied : Int
  source : Source
  density : Int
  planned : Option Int
deriving DecidableEq, Repr, Inhabited

/-- The retained part of a channel record (R49). -/
structure ChannelKept where
  state : ChannelState
  counter : Nat
  run : Nat
  mode : RecoveryMode
deriving DecidableEq, Repr, Inhabited

/-- The retained part of a crane record: the state with the halted-from state, the lot and the direction present in it (R143). -/
inductive CraneState where
  | idle
  | checking (lot : Nat) (dir : Direction)
  | cleared (lot : Nat) (dir : Direction)
  | lifting (lot : Nat) (dir : Direction)
  | halted (haltedFrom : HaltedFrom) (lot : Nat) (dir : Direction)
deriving DecidableEq, Repr, Inhabited

/-- A Journal entry (R140). -/
structure JournalEntry where
  generation : Nat
  kind : JournalKind
  handle : Option Nat
  space : Option Nat
  item : Option Nat
  port : Port
  role : Role
  overridden : Bool
deriving DecidableEq, Repr, Inhabited

/-- The retained condition (01 section 1.5). `lots` is in strictly rising order of handle and holds no free handle;
`ashore` and the stow lists are oldest first; `journal` is in rising order of generation. -/
structure Kept where
  lots : List (Nat × Lot)
  stow : Vector (List Nat) 48
  ashore : List Nat
  fixed : Vector FixedItem 16
  tanks : Vector TankFill 32
  channels : Vector ChannelKept 39
  cranes : Vector CraneState 4
  journal : List JournalEntry
  generation : Nat
  mode : ConditionMode
  notEstablished : Bool
deriving DecidableEq, Repr, Inhabited

/-! ### The Accumulator and the Evaluator (04, 05, 06) -/

/-- One sum set, or one contribution to it (R74, R76). -/
structure SumSet where
  w : Int
  ml : Int
  mv : Int
  mt : Int
  fsm : Int
  wa : Vector Int 21
deriving DecidableEq, Repr, Inhabited

/-- The flags of a pass, in the order of R116. -/
structure PassFlags where
  hydroRange : Bool
  crossRange : Bool
  listClamp : Bool
  gmNonpos : Bool
  heldData : Bool
  draftDisagree : Bool
  heelDisagree : Bool
deriving DecidableEq, Repr, Inhabited

/-- The figures a pass hands over (R95, R106); `fails` has entry n set when criterion Cn fails. -/
structure Figures where
  w : Int
  ta : Int
  tf : Int
  tmean : Int
  trim : Int
  list : Int
  kgc : Int
  fsc : Int
  gm : Int
  gz : Vector Int 9
  area30 : Int
  area3040 : Int
  area40 : Int
  angle : Int
  shearStation : Nat
  shearPercent : Nat
  bendStation : Nat
  bendPercent : Nat
  fails : Vector Bool 12
  flags : PassFlags
  upright : Int
deriving DecidableEq, Repr, Inhabited

/-- A verdict record (R116). -/
structure Verdict where
  set : SetName
  generation : Nat
  clock : Clock
  mode : ConditionMode
  fig : Figures
deriving DecidableEq, Repr, Inhabited

/-- What a snapshot holds of one of channels 32, 33 and 34 (R80). -/
structure ChannelView where
  value : Option Int
  state : ChannelState
  stale : Bool
deriving DecidableEq, Repr, Inhabited

/-- The observation part of a LIVE snapshot (R80). -/
structure Observation where
  forward : ChannelView
  aft : ChannelView
  heel : ChannelView
  held : Bool
deriving DecidableEq, Repr, Inhabited

/-- The snapshot of a pass (R80); `observed` is present in a LIVE pass alone. -/
structure Snapshot where
  sums : SumSet
  notEstablished : Bool
  mode : ConditionMode
  generation : Nat
  clock : Clock
  observed : Option Observation
deriving DecidableEq, Repr, Inhabited

/-- Which job a pass serves (R107, R109). -/
inductive PassKind where
  | live
  | plan
  | trial (port : Port)
deriving DecidableEq, Repr, Inhabited

/-- The pass that runs, with its snapshot (R112). -/
structure Pass where
  kind : PassKind
  snap : Snapshot
deriving DecidableEq, Repr, Inhabited

/-- The maker of a TRIAL with its proposed change (R109). -/
inductive Proposal where
  | link (group : Group) (amendment : Amendment)
  | crane (crane : CraneNo) (lot : Nat) (dir : Direction) (worst : Point)
deriving DecidableEq, Repr

/-- A TRIAL record (R109); its port is its place in the table, and it is RUNNING exactly when its pass runs. -/
structure Trial where
  role : Role
  change : Proposal
deriving DecidableEq, Repr

/-- The contents of a HOLDING Exceedance Capture (R121). -/
structure Captured where
  fails : Vector Bool 12
  generation : Nat
  clock : Clock
deriving DecidableEq, Repr, Inhabited

/-- The Exceedance Capture (R121): EMPTY when it holds nothing. -/
structure Capture where
  mode : CaptureMode
  held : Option Captured
deriving DecidableEq, Repr, Inhabited

/-! ### Links, channels, cranes, tallies (07, 03, 08, 10) -/

/-- The fields of a valid link (R126); an invalid link holds none of them. -/
structure Link where
  owner : Port
  target : Nat
  staged : Option Amendment
  committing : Bool
  override : Bool
deriving DecidableEq, Repr

/-- One entry of the Reading Queue (R52). -/
structure QueueEntry where
  channel : ChannelNo
  value : ReadingValue
  arrival : Clock
  port : Port
  role : Role
deriving DecidableEq, Repr

/-- A channel's reference: the last accepted reading and its doubtful mark (R49, R58). -/
structure Reference where
  value : ReadingValue
  arrival : Clock
  doubtful : Bool
deriving DecidableEq, Repr

/-- The volatile part of a channel record (R49). -/
structure ChannelLive where
  stale : Bool
  reference : Option Reference
  lost : Nat
deriving DecidableEq, Repr

/-- The last hook reading of a crane (R143). -/
structure HookReading where
  load : Nat
  head : Point
  arrival : Clock
deriving DecidableEq, Repr, Inhabited

/-- The halt reasons of a crane (R143). -/
structure Reasons where
  vote : Bool
  limit : Bool
  stale : Bool
deriving DecidableEq, Repr, Inhabited

/-- The volatile part of a crane record (R143). `boom` is the boom head at which a hanging lot stands, absent for the
assumed boom head (R146); `staleFrom` is the beginning of the STALE interval (R160). -/
structure CraneLive where
  worst : Option Point
  hook : Option HookReading
  sinceClearance : Bool
  sinceHookOn : Bool
  freeReading : Bool
  reasons : Reasons
  limitGen : Option Nat
  voteInCheck : Bool
  votes : Vector Bool 6
  boom : Option Point
  staleFrom : Clock
deriving DecidableEq, Repr, Inhabited

/-- The control of a tally (R177); the masks are those that TALLY-CONTROL carries. -/
structure TallyControl where
  cls : Nat
  subevents : BitVec 8
  roles : BitVec 8
  groups : BitVec 8
  inhibit : Bool
  notice : Bool
  readable : BitVec 8
deriving DecidableEq, Repr, Inhabited

/-- A tally (R177). -/
structure Tally where
  value : Nat
  overflow : Bool
  control : TallyControl
deriving DecidableEq, Repr, Inhabited

/-- The Access Fault Record when it is valid (R169). -/
structure AccessFault where
  port : Port
  role : Role
  kind : Byte
  cause : Cause
  value : RefValue
deriving DecidableEq, Repr, Inhabited

/-! ### Station ports (09) -/

/-- The receiver of a port with the characters taken so far (R163). -/
inductive Receiver where
  | hunt
  | length (first : Option Byte)
  | body (len : Nat) (got : List Byte)
  | crc (inner : List Byte) (first : Option Byte)
deriving DecidableEq, Repr, Inhabited

/-- A request in a port's request queue (R164, R166, R171). -/
structure Request where
  kind : Byte
  tag : Byte
  payload : List Byte
  orphaned : Bool
deriving DecidableEq, Repr, Inhabited

/-- A reply (R164): the kind and tag bytes, the status and the body's fields. -/
structure Reply where
  kind : Byte
  tag : Byte
  status : Status
  body : List Val
deriving DecidableEq, Repr, Inhabited

/-- A notice (Table 9-2): its kind, the clock at issue, the subject and the other fields. -/
structure Notice where
  kind : NoticeKind
  clock : Clock
  subject : Nat
  body : List Val
deriving DecidableEq, Repr, Inhabited

/-- The frame on a transmit line (R175). -/
inductive OutFrame where
  | reply (r : Reply)
  | notice (n : Notice)
deriving DecidableEq, Repr

/-- One station port (09): the receiver, the request queue with the request in service at its head, the outbound reply
list, the notice queue and dropped flag, the subscription mask, the port status and the discard count, and the frame
being sent. -/
structure PortState where
  receiver : Receiver
  lastChar : Clock
  requests : List Request
  replies : List Reply
  notices : List Notice
  dropped : Bool
  subscription : BitVec 16
  silent : Bool
  lastHeard : Clock
  discards : Nat
  line : Option OutFrame
deriving DecidableEq, Repr

/-! ### The whole state -/

/-- The volatile state, which each START clears (R15). -/
structure Volatile where
  acceptance : Acceptance
  links : Vector (Option Link) 6
  queue : List QueueEntry
  queueLevel : Nat
  highArmed : Bool
  channels : Vector ChannelLive 39
  live : SumSet
  plan : SumSet
  livePending : Bool
  planPending : Bool
  running : Option Pass
  trials : Vector (Option Trial) 6
  lru : List Port
  liveVerdict : Option Verdict
  planVerdict : Option Verdict
  capture : Capture
  supervisor : Option Verdict
  cranes : Vector CraneLive 4
  tallies : Vector Tally 8
  accessFault : Option AccessFault
  ports : Vector PortState 6
deriving DecidableEq, Repr

/-- The state of the engine. `checking` marks the part of START in which the START checks run (R13); `keptCheck` is the
stored check word of the retained condition, absent when it was never written (R19); `pending` is the model's queue of
waiting commands, first in, first out (log entry 1). -/
structure State where
  supply : Bool
  resetHeld : Bool
  checking : Bool
  part : PartState
  clock : Clock
  strap : Bool
  book : Book
  bookCheck : Option (BitVec 32)
  bookStatus : BookStatus
  kept : Kept
  keptCheck : Option (BitVec 32)
  vol : Volatile
  pending : List Instr
deriving DecidableEq, Repr

/-- The reasons to stop with a fault: none. Every command of the LC-6 has an effect that the spec gives, and no command
stops the engine (log entry 2). Safe. -/
inductive Fault where
deriving DecidableEq, Repr

/-- The reasons to refuse a command. -/
inductive Refusal where
  /-- Raised by `exec` for a row of spec/opcode_table.json that has no meaning yet. Safe. -/
  | notModelled (mnemonic : String)
deriving DecidableEq, Repr

/-! ### The state after reset -/

/-- A sum set with every sum 0 (R79). -/
def SumSet.zero : SumSet :=
  { w := 0, ml := 0, mv := 0, mt := 0, fsm := 0, wa := Vector.replicate 21 0 }

/-- The book store of an engine to which nothing was written: every byte zero.
DESIGN CHOICE (log entry 4), unsafe: the spec gives no contents of a new store. -/
def Book.blank : Book :=
  { hull := { lbp := 0, weight := 0, lcg := 0, vcg := 0, tcg := 0, wa := Vector.replicate 21 0 }
    hydroCount := 0
    hydro := Vector.replicate 64
      { disp := 0, tlcf := 0, kmt := 0, lcb := 0, lcf := 0, mctc := 0, tpc := 0, bf := Vector.replicate 21 0 }
    trim := Vector.replicate 21 0
    crossCount := 0
    cross := Vector.replicate 32 { disp := 0, kn := Vector.replicate 9 0 }
    stations := Vector.replicate 21
      { x := 0, shearHarbour := 0, shearSea := 0, hogHarbour := 0, sagHarbour := 0, hogSea := 0, sagSea := 0 }
    spaceCount := 0
    spaces := Vector.replicate 48
      { group := 0, kind := 0, xAft := 0, xFore := 0, zFloor := 0, zCeiling := 0, yPort := 0, yStarboard := 0,
        maxWeight := 0 }
    tankCount := 0
    tanks := Vector.replicate 32
      { consts := { xAft := 0, xFore := 0, depth := 0, capacity := 0, refDensity := 0, defDensity := 0, rate := 0,
                    margin := 0, freshness := 0, points := 0 }
        points := Vector.replicate 24 { sounding := 0, volume := 0, lcg := 0, vcg := 0, tcg := 0, fsm := 0 } }
    channels := { draftFresh := 0, heelFresh := 0, draftTolerance := 0, heelTolerance := 0,
                  modes := Vector.replicate 39 0 }
    craneCount := 0
    cranes := Vector.replicate 4
      { swl := 0, reach := 0, pedestalX := 0, pedestalY := 0, outreach := 0, freshness := 0, heelLimit := 0,
        hysteresis := 0, gmMin := 0, tolerance := 0, threshold := 0 }
    criteria := { enable := Vector.replicate 12 0, gmMin := 0, area30 := 0, area40 := 0, area3040 := 0, gz30 := 0,
                  maxAngle := 0, listMax := 0, draftMax := 0 }
    segregation := Vector.replicate 81 0
    ports := Vector.replicate 6 { role := 0, cranes := 0 }
    fixedCount := 0
    fixed := Vector.replicate 16 { label := [], weight := 0, x := 0, z := 0, y := 0, presence := 0 } }

/-- The emptied condition of R19 over the blank book. DESIGN CHOICE (log entry 4), unsafe: the spec gives no contents of
a retained store that was never written; its check word is absent, so the first START checks empty it. -/
def Kept.blank : Kept :=
  { lots := []
    stow := Vector.replicate 48 []
    ashore := []
    fixed := Vector.replicate 16 { weight := 0, x := 0, z := 0, y := 0, presence := .present }
    tanks := Vector.replicate 32 { applied := 0, source := .gauged, density := 0, planned := none }
    channels := Vector.replicate 39 { state := .active, counter := 0, run := 0, mode := .automatic }
    cranes := Vector.replicate 4 .idle
    journal := []
    generation := 0
    mode := .harbour
    notEstablished := true }

/-- A port on entry to START (R15, R163, R171). -/
def PortState.blank : PortState :=
  { receiver := .hunt, lastChar := 0, requests := [], replies := [], notices := [], dropped := false, subscription := 0,
    silent := false, lastHeard := 0, discards := 0, line := none }

/-- A crane's volatile part after START, but for the halt reasons of a crane left HALTED (R143, R15). -/
def CraneLive.blank : CraneLive :=
  { worst := none, hook := none, sinceClearance := false, sinceHookOn := false, freeReading := false,
    reasons := { vote := false, limit := false, stale := false }, limitGen := none, voteInCheck := false,
    votes := Vector.replicate 6 false, boom := none, staleFrom := 0 }

/-- A channel's volatile part after START (R73). -/
def ChannelLive.blank : ChannelLive :=
  { stale := true, reference := none, lost := 0 }

/-- A tally after START, with the disabled control (R177). -/
def Tally.blank : Tally :=
  { value := 0, overflow := false,
    control := { cls := 0, subevents := 0, roles := 0, groups := 0, inhibit := true, notice := false, readable := 1 } }

/-- The volatile state with nothing in flight (R13, R15, R125): what START gives, but for the subscriptions, the halt
reasons and the sums, which follow from the book and the retained condition. -/
def Volatile.blank : Volatile :=
  { acceptance := .none
    links := Vector.replicate 6 none
    queue := []
    queueLevel := 6
    highArmed := true
    channels := Vector.replicate 39 ChannelLive.blank
    live := SumSet.zero
    plan := SumSet.zero
    livePending := true
    planPending := true
    running := none
    trials := Vector.replicate 6 none
    lru := [0, 1, 2, 3, 4, 5]
    liveVerdict := none
    planVerdict := none
    capture := { mode := .first, held := none }
    supervisor := none
    cranes := Vector.replicate 4 CraneLive.blank
    tallies := Vector.replicate 8 Tally.blank
    accessFault := none
    ports := Vector.replicate 6 PortState.blank }

/-- The machine right after reset: on entry to START (R13), with supply good, the reset input released and the START
checks running, the clock at 0, nothing in flight, an UNCHECKED book without check word, and no command waiting. -/
def State.reset : State :=
  { supply := true
    resetHeld := false
    checking := true
    part := .start
    clock := 0
    strap := false
    book := Book.blank
    bookCheck := none
    bookStatus := .unchecked
    kept := Kept.blank
    keptCheck := none
    vol := Volatile.blank
    pending := [] }

end Sys2Proof.Machine
end

