-- ==== Sys2Proof/Config.lean ====
section
/-!
DEFINITION. What the spec fixes as numbers of the part, and the values that the spec leaves open, as constants without a
body: nothing can be proved of such a value.
-/
namespace Sys2Proof.Config

open Sys2Proof.Machine

/-! ### Sizes and intervals -/

/-- The lot handles are 0 to 1023 (R21). -/
def handles : Nat := 1024

/-- The Reading Queue holds up to 64 entries (R52). -/
def queueCapacity : Nat := 64

/-- A request queue holds at most four requests (R166). -/
def requestCapacity : Nat := 4

/-- An outbound reply list holds up to eight replies (R166). -/
def replyCapacity : Nat := 8

/-- A notice queue holds up to sixteen notices (R173). -/
def noticeCapacity : Nat := 16

/-- The Journal is a ring of 64 entries (R140). -/
def journalCapacity : Nat := 64

/-- The discard count is held at 65 535 (R163). -/
def discardMax : Nat := 65535

/-- A frame has at most 250 bytes of payload (R164). -/
def payloadMax : Nat := 250

/-- A gap of more than 10 ms inside a frame discards it (R163). -/
def characterGap : Nat := 10

/-- A port goes SILENT when no frame has been delivered for 5 000 ms (R171). -/
def silence : Nat := 5000

/-! ### Free values -/

/-- The layout of the retained store, internal to the engine, which no station sees (R19).
A free value (log entry 5): the spec gives none. -/
opaque retainedLayout : Kept → List Byte

/-- The kind byte of the reply to a request of unknown kind 0x80 or above, whose kind plus 0x80 is no byte (R164, R165).
A free value (log entry 6): the spec gives none. -/
opaque highReplyKind : Byte → Byte

/-- The default subscription for a role byte of an UNCHECKED book that names no role (R15, R174).
A free value (log entry 7): the spec gives none. -/
opaque unlistedSubscription : Nat → BitVec 16

/-- The four bytes in which a figure outside -2 147 483 648 to 2 147 483 647 crosses a port (R82, R85, R95, Table 9-4).
A free value (log entry 47): the spec carries such a figure through and gives its bytes no value. -/
opaque wideFigure : Int → BitVec 32

end Sys2Proof.Config
end

