-- ==== Sys2Proof/Machine/Wire.lean ====
section
/-!
DEFINITION. The bytes of a frame: the field encodings of Table 9-4, most significant byte first (R164), their reading
back, and the two check words (R1, R164).
-/
namespace Sys2Proof.Machine

/-! ### Numbers as bytes -/

/-- `k` bytes of `n`, most significant first (R164). -/
def bytesOf : Nat → Nat → List Byte
  | 0, _ => []
  | k + 1, n => BitVec.ofNat 8 (n / 256 ^ k) :: bytesOf k n

/-- The number that bytes spell, most significant first (R164). -/
def natOf (bs : List Byte) : Nat :=
  bs.foldl (fun acc b => acc * 256 + b.toNat) 0

/-- A number as four bytes in two's complement (R164); one beyond 32 bits signed has four free bytes (log entry 47). -/
def bytesOfInt (z : Int) : List Byte :=
  if -2147483648 ≤ z ∧ z < 2147483648 then bytesOf 4 (z % 4294967296).toNat else bytesOf 4 (Config.wideFigure z).toNat

/-- The signed number that a 32-bit pattern stands for (R164). -/
def signed32 (n : Nat) : Int :=
  if n < 2147483648 then n else (n : Int) - 4294967296

/-! ### Fields as bytes -/

/-- The bytes of one field (Table 9-4). -/
def encodeVal : Val → List Byte
  | .u8 n => bytesOf 1 n
  | .u16 n => bytesOf 2 n
  | .u32 n => bytesOf 4 n
  | .u64 n => bytesOf 8 n
  | .i32 z => bytesOfInt z
  | .text bs => BitVec.ofNat 8 bs.length :: bs

/-- The bytes of a sequence of fields. -/
def encodeVals (vs : List Val) : List Byte :=
  vs.flatMap encodeVal

/-- How many bytes a field takes. -/
def widthVal : Val → Nat
  | .u8 _ => 1
  | .u16 _ => 2
  | .u32 _ => 4
  | .u64 _ => 8
  | .i32 _ => 4
  | .text bs => 1 + bs.length

/-- How many bytes a sequence of fields takes. -/
def widthVals (vs : List Val) : Nat :=
  (vs.map widthVal).sum

/-! ### Reading fields back -/

/-- A reader of payload bytes: a value and the bytes left, or nothing where the bytes do not fit. -/
abbrev Reader := StateT (List Byte) Option

/-- The next `k` bytes. -/
def takeBytes (k : Nat) : Reader (List Byte) := fun bs =>
  if k ≤ bs.length then some (bs.take k, bs.drop k) else none

/-- The next `k` bytes as an unsigned number. -/
def readNat (k : Nat) : Reader Nat := do
  let bs ← takeBytes k
  pure (natOf bs)

/-- The next four bytes as a signed number. -/
def readInt : Reader Int := do
  let n ← readNat 4
  pure (signed32 n)

/-- A text: a count and that many characters (Table 9-4). -/
def readText : Reader (List Byte) := do
  let n ← readNat 1
  takeBytes n

/-- An optional field: a presence byte of 0 or 1, then the field when present (Table 9-4). -/
def readOpt {α : Type} (field : Reader α) : Reader (Option α) := do
  let n ← readNat 1
  if n = 0 then pure none
  else if n = 1 then do
    let v ← field
    pure (some v)
  else failure

/-- All the bytes that are left. -/
def readRest : Reader (List Byte) := fun bs => some (bs, [])

/-- What a reader makes of a payload whose length fits: no byte may be left (R165). -/
def readAll {α : Type} (r : Reader α) (bs : List Byte) : Option α :=
  match r bs with
  | some (a, []) => some a
  | _ => none

/-- One field of the given type. -/
def readVal : FieldTy → Reader Val
  | .u8 => do
    let n ← readNat 1
    pure (.u8 n)
  | .u16 => do
    let n ← readNat 2
    pure (.u16 n)
  | .u32 => do
    let n ← readNat 4
    pure (.u32 n)
  | .u64 => do
    let n ← readNat 8
    pure (.u64 n)
  | .i32 => do
    let z ← readInt
    pure (.i32 z)
  | .text => do
    let bs ← readText
    pure (.text bs)

/-- The fields of the given types, in order. -/
def readVals : List FieldTy → Reader (List Val)
  | [] => pure []
  | t :: ts => do
    let v ← readVal t
    let vs ← readVals ts
    pure (v :: vs)

/-- The unsigned number of a field, 0 where the field holds none. -/
def valNat : Val → Nat
  | .u8 n => n
  | .u16 n => n
  | .u32 n => n
  | .u64 n => n
  | _ => 0

/-- The signed number of a field, 0 where the field holds none. -/
def valInt : Val → Int
  | .i32 z => z
  | _ => 0

/-- The text of a field, empty where the field holds none. -/
def valText : Val → List Byte
  | .text bs => bs
  | _ => []

/-- The unsigned number of field `k` of a record. -/
def natAt (vs : List Val) (k : Nat) : Nat :=
  valNat (vs.getD k (.u8 0))

/-- The signed number of field `k` of a record. -/
def intAt (vs : List Val) (k : Nat) : Int :=
  valInt (vs.getD k (.i32 0))

/-! ### Check words -/

/-- One bit step of the book's CRC-32, least significant bit first: the generator of R1 with its bits reversed. -/
def crc32Bit (c : BitVec 32) : BitVec 32 :=
  if c.getLsbD 0 then (c >>> 1) ^^^ 0xEDB88320#32 else c >>> 1

/-- One byte of the book's CRC-32. -/
def crc32Byte (c : BitVec 32) (b : Byte) : BitVec 32 :=
  Nat.repeat crc32Bit 8 (c ^^^ b.zeroExtend 32)

/-- The check word of R1: start 0xFFFFFFFF, inverted at the end. -/
def crc32 (bs : List Byte) : BitVec 32 :=
  ~~~(bs.foldl crc32Byte 0xFFFFFFFF#32)

/-- One bit step of the frame CRC, most significant bit first, with generator x¹⁶ + x¹² + x⁵ + 1 (R164). -/
def crc16Bit (c : BitVec 16) : BitVec 16 :=
  if c.getLsbD 15 then (c <<< 1) ^^^ 0x1021#16 else c <<< 1

/-- One byte of the frame CRC. -/
def crc16Byte (c : BitVec 16) (b : Byte) : BitVec 16 :=
  Nat.repeat crc16Bit 8 (c ^^^ (b.zeroExtend 16 <<< 8))

/-- The frame CRC of R164: start 0xFFFF, no final inversion. -/
def crc16 (bs : List Byte) : BitVec 16 :=
  bs.foldl crc16Byte 0xFFFF#16

/-- The bytes of a whole frame (Table 9-1), of whatever length its payload is (log entry 50). -/
def frameBytes (kind tag : Byte) (payload : List Byte) : List Byte :=
  let inner := bytesOf 2 (2 + payload.length) ++ (kind :: tag :: payload)
  (0x7E#8 :: inner) ++ bytesOf 2 (crc16 inner).toNat

end Sys2Proof.Machine
end

