-- ==== Sys2Proof/Machine/Operands.lean ====
section
/-!
DEFINITION. The operand forms: the codes of the named values (Table 9-4: numbered from 0 in the order in which the rule
that defines the field lists them), the sets carried as masks, and the fields of each book record (R165).
-/
namespace Sys2Proof.Machine

/-! ### Named values and their codes -/

/-- The role a byte names (R12). -/
def roleOf : Nat → Role
  | 0 => .officer
  | 1 => .planner
  | 2 => .crane
  | 3 => .gauge
  | 4 => .shore
  | 5 => .unused
  | n => .unlisted n

/-- The byte of a role (R12). -/
def roleCode : Role → Nat
  | .officer => 0
  | .planner => 1
  | .crane => 2
  | .gauge => 3
  | .shore => 4
  | .unused => 5
  | .unlisted n => n

/-- The kind of stow space a byte names (R6). -/
def spaceKindOf : Nat → SpaceKind
  | 0 => .hold
  | 1 => .tweendeck
  | 2 => .hatchcover
  | 3 => .deck
  | n => .unlisted n

/-- The recovery mode a byte names (R8). -/
def modeOf : Nat → RecoveryMode
  | 0 => .automatic
  | 1 => .confirm
  | 2 => .manual
  | n => .unlisted n

/-- The byte of a recovery mode (R8). -/
def modeCode : RecoveryMode → Nat
  | .automatic => 0
  | .confirm => 1
  | .manual => 2
  | .unlisted n => n

/-- The presence a byte names (R12). -/
def presenceOf : Nat → Presence
  | 0 => .present
  | 1 => .absent
  | n => .unlisted n

/-- The byte of a presence (R12). -/
def presenceCode : Presence → Nat
  | .present => 0
  | .absent => 1
  | .unlisted n => n

/-- The byte of a part state (01 section 1.3). -/
def partCode : PartState → Nat
  | .start => 0
  | .commission => 1
  | .service => 2

/-- The byte of a book status (R1). -/
def bookStatusCode : BookStatus → Nat
  | .valid => 0
  | .unchecked => 1

/-- The byte of a check code (R2). -/
def checkCodeByte : CheckCode → Nat
  | .count => 0
  | .order => 1
  | .range => 2
  | .relation => 3
  | .noOfficer => 4

/-- The byte of a direction (Table 2-1). -/
def directionCode : Direction → Nat
  | .loading => 0
  | .discharging => 1

/-- The direction a byte names. -/
def directionOf : Nat → Option Direction
  | 0 => some .loading
  | 1 => some .discharging
  | _ => none

/-- The byte of an intent (Table 2-1). -/
def intentCode : Intent → Nat
  | .keep => 0
  | .discharge => 1

/-- The byte of a channel state (R49). -/
def channelStateCode : ChannelState → Nat
  | .active => 0
  | .doubtful => 1
  | .distrusted => 2
  | .isolated => 3

/-- The byte of a tank's source (03 section 3.6). -/
def sourceCode : Source → Nat
  | .gauged => 0
  | .manual => 1

/-- The byte of a condition mode (R100). -/
def conditionModeCode : ConditionMode → Nat
  | .harbour => 0
  | .sea => 1

/-- The condition mode a byte names (R101). -/
def conditionModeOf : Nat → Option ConditionMode
  | 0 => some .harbour
  | 1 => some .sea
  | _ => none

/-- The byte of a set (R116). -/
def setCode : SetName → Nat
  | .live => 0
  | .plan => 1

/-- The byte of a capture mode (R121). -/
def captureModeCode : CaptureMode → Nat
  | .first => 0
  | .all => 1

/-- The capture mode a byte names (R123). -/
def captureModeOf : Nat → Option CaptureMode
  | 0 => some .first
  | 1 => some .all
  | _ => none

/-- The byte of a halted-from state (R143). -/
def haltedFromCode : HaltedFrom → Nat
  | .cleared => 0
  | .lifting => 1

/-- The byte of a crane state (R143). -/
def craneStateCode : CraneState → Nat
  | .idle => 0
  | .checking _ _ => 1
  | .cleared _ _ => 2
  | .lifting _ _ => 3
  | .halted _ _ _ => 4

/-- The byte of a lot state (Table 2-1). -/
def lotStateCode : LotState → Nat
  | .planned => 0
  | .hookedLoading _ => 1
  | .hookedDischarging _ _ => 1
  | .stowed _ _ => 2
  | .ashore _ => 3

/-- The byte of a Journal kind (R140; the amendments numbered as in R127). -/
def journalKindCode : JournalKind → Nat
  | .planLoad => 0
  | .planShift => 1
  | .planCancel => 2
  | .markDischarge => 3
  | .unmark => 4
  | .directStow => 5
  | .restow => 6
  | .directRemove => 7
  | .correctWeight => 8
  | .hookOn => 9
  | .land => 10
  | .landBack => 11
  | .purgeAshore => 12
  | .fixedSet => 13

/-- The byte of an access fault's cause (R168). -/
def causeCode : Cause → Nat
  | .role => 0
  | .override => 1
  | .craneNotOwn => 2
  | .channelNotOwn => 3
  | .tallyHidden => 4

/-- The status codes of Table 9-3. -/
def statusCode : Status → Nat
  | .done => 0x00
  | .accepted => 0x01
  | .acceptedOverridden => 0x02
  | .rejectedLimits => 0x03
  | .linkLost => 0x04
  | .linkAbsent => 0x05
  | .stageIgnored => 0x06
  | .cleared => 0x08
  | .deniedLimits => 0x09
  | .deniedStopped => 0x0A
  | .clearanceLost => 0x0B
  | .unknownLot => 0x10
  | .wrongState => 0x11
  | .outOfSpace => 0x12
  | .spaceOverweight => 0x13
  | .segregation => 0x14
  | .overstowed => 0x15
  | .tableFull => 0x16
  | .outOfReach => 0x17
  | .overSwl => 0x18
  | .stopped => 0x19
  | .busy => 0x20
  | .denied => 0x21
  | .malformed => 0x22
  | .notInService => 0x23
  | .notInCommission => 0x24
  | .gone => 0x25
  | .bookValid => 0x30
  | .bookFault => 0x31

/-- The bit of a notice kind in the subscription mask (R174). -/
def noticeBit : NoticeKind → Nat
  | .verdict => 0
  | .planVerdict => 1
  | .permit => 2
  | .channel => 3
  | .readingLost => 4
  | .queueHigh => 5
  | .linkTaken => 6
  | .unpermittedLift => 7
  | .overstow => 8
  | .unknownLot => 9
  | .outOfOrder => 10
  | .weightDisagree => 11
  | .overload => 12
  | .accessFault => 13
  | .tallyOverflow => 14

/-- The kind byte of a notice: 0xE0 plus its bit (R165). -/
def noticeKindByte (k : NoticeKind) : Byte :=
  BitVec.ofNat 8 (0xE0 + noticeBit k)

/-- The default subscription of a role (R174). -/
def defaultSubscription : Role → BitVec 16
  | .officer => 0x7FFF
  | .planner => 0x59C7
  | .crane => 0x1F85
  | .gauge => 0x0039
  | .shore => 0x0042
  | .unused => 0
  | .unlisted n => Config.unlistedSubscription n &&& 0x7FFF

/-- The bit of a role in a role mask (R177); a byte that names no role has none. -/
def roleBit : Role → Option Nat
  | .officer => some 0
  | .planner => some 1
  | .crane => some 2
  | .gauge => some 3
  | .shore => some 4
  | .unused => some 5
  | .unlisted _ => none

/-- The index of a crane number 1 to 4. -/
def craneIdx (n : Nat) : Option CraneNo :=
  if h : 1 ≤ n ∧ n ≤ 4 then some ⟨n - 1, by omega⟩ else none

/-- The index of a hold group number 1 to 6. -/
def groupIdx (n : Nat) : Option Group :=
  if h : 1 ≤ n ∧ n ≤ 6 then some ⟨n - 1, by omega⟩ else none

/-- The hold group number of an index. -/
def groupNo (g : Group) : Nat := g.val + 1

/-- The crane number of an index. -/
def craneNum (c : CraneNo) : Nat := c.val + 1

/-- A set of ports as a mask, bit n for port n (Table 9-4). -/
def portMask (v : Vector Bool 6) : Nat :=
  (v.toList.zipIdx.map fun (b, k) => if b then 2 ^ k else 0).sum

/-- A set of criteria as a mask, bit n for criterion Cn (Table 9-4). -/
def criteriaMask (v : Vector Bool 12) : Nat :=
  (v.toList.zipIdx.map fun (b, k) => if b then 2 ^ k else 0).sum

/-! ### Fields of replies and notices -/

/-- A set-or-clear field (Table 9-4). -/
def flagVal (b : Bool) : Val := .u8 b.toNat

/-- An optional field: its presence byte, then the fields when present (Table 9-4). -/
def optVals (o : Option (List Val)) : List Val :=
  match o with
  | none => [.u8 0]
  | some vs => .u8 1 :: vs

/-- A point in the order x, z, y. -/
def pointVals (p : Point) : List Val := [.i32 p.x, .i32 p.z, .i32 p.y]

/-- A clock value (Table 9-4). -/
def clockVal (c : Clock) : Val := .u32 c.toNat

/-- The value class and value of a refusal body (Table 9-2). With class 0 the two value bytes are 0, which the spec does not
state (log entry 52). -/
def refVals : RefValue → List Val
  | .none => [.u8 0, .u16 0]
  | .handle n => [.u8 1, .u16 n]
  | .space n => [.u8 2, .u16 n]
  | .crane n => [.u8 3, .u16 n]
  | .channel n => [.u8 4, .u16 n]
  | .tally n => [.u8 5, .u16 n]
  | .ports m => [.u8 6, .u16 m]

/-- The value of an access fault as an optional field of one byte (R169, Table 9-4). -/
def faultVals : RefValue → List Val
  | .none => [.u8 0]
  | .handle n => [.u8 1, .u8 n]
  | .space n => [.u8 1, .u8 n]
  | .crane n => [.u8 1, .u8 n]
  | .channel n => [.u8 1, .u8 n]
  | .tally n => [.u8 1, .u8 n]
  | .ports m => [.u8 1, .u8 m]

/-- As many of the entries, in order, as fit into `room` bytes, behind their number (Table 9-4). -/
def takeFitting (room : Nat) : List (List Val) → List (List Val)
  | [] => []
  | e :: es => if widthVals e ≤ room then e :: takeFitting (room - widthVals e) es else []

/-- A list of entries that fills what one reply frame has left behind `fixed` (R25, R40, R141, R164). -/
def listVals (fixed : List Val) (entries : List (List Val)) : List Val :=
  let fit := takeFitting (Config.payloadMax - (1 + widthVals fixed + 2)) entries
  fixed ++ (.u16 fit.length :: fit.flatten)

/-! ### The records of the Vessel Book as fields (R165) -/

/-- A record of `n` signed numbers. -/
def ints (n : Nat) : List FieldTy := List.replicate n .i32

/-- The field types of one entry, or nothing where the section or the entry does not exist (Table 1-1, R3 to R12, R165). -/
def recordTypes (sect entry : Nat) : Option (List FieldTy) :=
  match sect with
  | 1 => if entry = 0 then some (ints 26) else none
  | 2 => if entry = 0 then some [.u16] else if entry ≤ 64 then some (ints 28) else none
  | 3 => if entry = 0 then some (ints 21) else none
  | 4 => if entry = 0 then some [.u16] else if entry ≤ 32 then some (ints 10) else none
  | 5 => if entry ≤ 20 then some (ints 7) else none
  | 6 => if entry = 0 then some [.u16] else if entry ≤ 48 then some ([.u8, .u8] ++ ints 7) else none
  | 7 =>
    if entry = 0 then some [.u16]
    else if entry ≤ 800 then (if (entry - 1) % 25 = 0 then some (ints 9 ++ [.u16]) else some (ints 6))
    else none
  | 8 => if entry = 0 then some (ints 4 ++ List.replicate 39 .u8) else none
  | 9 => if entry = 0 then some [.u16] else if entry ≤ 4 then some ([.i32, .u8] ++ ints 9) else none
  | 10 =>
    if entry = 0 then
      some [.u8, .u8, .i32, .u8, .i32, .u8, .i32, .u8, .i32, .u8, .i32, .u8, .i32, .u8, .i32, .u8, .u8, .u8, .i32, .u8]
    else none
  | 11 => if entry = 0 then some (List.replicate 81 .u8) else none
  | 12 => if entry ≤ 5 then some [.u8, .u8] else none
  | 13 => if entry = 0 then some [.u16] else if entry ≤ 16 then some ([.text] ++ ints 4 ++ [.u8]) else none
  | _ => none

/-- The fields of a HULL record (R3). -/
def Hull.vals (r : Hull) : List Val :=
  [.i32 r.lbp, .i32 r.weight, .i32 r.lcg, .i32 r.vcg, .i32 r.tcg] ++ r.wa.toList.map .i32

/-- A HULL record from its fields. -/
def Hull.ofVals (vs : List Val) : Hull :=
  { lbp := intAt vs 0, weight := intAt vs 1, lcg := intAt vs 2, vcg := intAt vs 3, tcg := intAt vs 4,
    wa := Vector.ofFn fun k => intAt vs (5 + k) }

/-- The fields of a HYDROSTATICS row (R4). -/
def HydroRow.vals (r : HydroRow) : List Val :=
  [.i32 r.disp, .i32 r.tlcf, .i32 r.kmt, .i32 r.lcb, .i32 r.lcf, .i32 r.mctc, .i32 r.tpc] ++ r.bf.toList.map .i32

/-- A HYDROSTATICS row from its fields. -/
def HydroRow.ofVals (vs : List Val) : HydroRow :=
  { disp := intAt vs 0, tlcf := intAt vs 1, kmt := intAt vs 2, lcb := intAt vs 3, lcf := intAt vs 4,
    mctc := intAt vs 5, tpc := intAt vs 6, bf := Vector.ofFn fun k => intAt vs (7 + k) }

/-- The fields of a CROSS-CURVES row (R5). -/
def CrossRow.vals (r : CrossRow) : List Val :=
  .i32 r.disp :: r.kn.toList.map .i32

/-- A CROSS-CURVES row from its fields. -/
def CrossRow.ofVals (vs : List Val) : CrossRow :=
  { disp := intAt vs 0, kn := Vector.ofFn fun k => intAt vs (1 + k) }

/-- The fields of a FRAME-STATIONS record (R3). -/
def FrameStation.vals (r : FrameStation) : List Val :=
  [.i32 r.x, .i32 r.shearHarbour, .i32 r.shearSea, .i32 r.hogHarbour, .i32 r.sagHarbour, .i32 r.hogSea, .i32 r.sagSea]

/-- A FRAME-STATIONS record from its fields. -/
def FrameStation.ofVals (vs : List Val) : FrameStation :=
  { x := intAt vs 0, shearHarbour := intAt vs 1, shearSea := intAt vs 2, hogHarbour := intAt vs 3,
    sagHarbour := intAt vs 4, hogSea := intAt vs 5, sagSea := intAt vs 6 }

/-- The fields of a STOW-SPACES record (R6). -/
def Space.vals (r : Space) : List Val :=
  [.u8 r.group, .u8 r.kind, .i32 r.xAft, .i32 r.xFore, .i32 r.zFloor, .i32 r.zCeiling, .i32 r.yPort, .i32 r.yStarboard,
   .i32 r.maxWeight]

/-- A STOW-SPACES record from its fields. -/
def Space.ofVals (vs : List Val) : Space :=
  { group := natAt vs 0, kind := natAt vs 1, xAft := intAt vs 2, xFore := intAt vs 3, zFloor := intAt vs 4,
    zCeiling := intAt vs 5, yPort := intAt vs 6, yStarboard := intAt vs 7, maxWeight := intAt vs 8 }

/-- The fields of a TANKS entry of constants (R7). -/
def TankConstants.vals (r : TankConstants) : List Val :=
  [.i32 r.xAft, .i32 r.xFore, .i32 r.depth, .i32 r.capacity, .i32 r.refDensity, .i32 r.defDensity, .i32 r.rate,
   .i32 r.margin, .i32 r.freshness, .u16 r.points]

/-- A TANKS entry of constants from its fields. -/
def TankConstants.ofVals (vs : List Val) : TankConstants :=
  { xAft := intAt vs 0, xFore := intAt vs 1, depth := intAt vs 2, capacity := intAt vs 3, refDensity := intAt vs 4,
    defDensity := intAt vs 5, rate := intAt vs 6, margin := intAt vs 7, freshness := intAt vs 8, points := natAt vs 9 }

/-- The fields of a sounding point (R7). -/
def SoundingPoint.vals (r : SoundingPoint) : List Val :=
  [.i32 r.sounding, .i32 r.volume, .i32 r.lcg, .i32 r.vcg, .i32 r.tcg, .i32 r.fsm]

/-- A sounding point from its fields. -/
def SoundingPoint.ofVals (vs : List Val) : SoundingPoint :=
  { sounding := intAt vs 0, volume := intAt vs 1, lcg := intAt vs 2, vcg := intAt vs 3, tcg := intAt vs 4,
    fsm := intAt vs 5 }

/-- The fields of the CHANNELS record (R8). -/
def ChannelsBook.vals (r : ChannelsBook) : List Val :=
  [.i32 r.draftFresh, .i32 r.heelFresh, .i32 r.draftTolerance, .i32 r.heelTolerance] ++ r.modes.toList.map .u8

/-- The CHANNELS record from its fields. -/
def ChannelsBook.ofVals (vs : List Val) : ChannelsBook :=
  { draftFresh := intAt vs 0, heelFresh := intAt vs 1, draftTolerance := intAt vs 2, heelTolerance := intAt vs 3,
    modes := Vector.ofFn fun k => natAt vs (4 + k) }

/-- The fields of a CRANES record (R9). -/
def CraneBook.vals (r : CraneBook) : List Val :=
  [.i32 r.swl, .u8 r.reach, .i32 r.pedestalX, .i32 r.pedestalY, .i32 r.outreach, .i32 r.freshness, .i32 r.heelLimit,
   .i32 r.hysteresis, .i32 r.gmMin, .i32 r.tolerance, .i32 r.threshold]

/-- A CRANES record from its fields. -/
def CraneBook.ofVals (vs : List Val) : CraneBook :=
  { swl := intAt vs 0, reach := natAt vs 1, pedestalX := intAt vs 2, pedestalY := intAt vs 3, outreach := intAt vs 4,
    freshness := intAt vs 5, heelLimit := intAt vs 6, hysteresis := intAt vs 7, gmMin := intAt vs 8,
    tolerance := intAt vs 9, threshold := intAt vs 10 }

/-- The fields of the CRITERIA record: for C0 to C11 the enable, then the threshold where there is one (R10, R165). -/
def CriteriaBook.vals (r : CriteriaBook) : List Val :=
  [.u8 r.enable[0], .u8 r.enable[1], .i32 r.gmMin, .u8 r.enable[2], .i32 r.area30, .u8 r.enable[3], .i32 r.area40,
   .u8 r.enable[4], .i32 r.area3040, .u8 r.enable[5], .i32 r.gz30, .u8 r.enable[6], .i32 r.maxAngle, .u8 r.enable[7],
   .i32 r.listMax, .u8 r.enable[8], .u8 r.enable[9], .u8 r.enable[10], .i32 r.draftMax, .u8 r.enable[11]]

/-- The CRITERIA record from its fields. -/
def CriteriaBook.ofVals (vs : List Val) : CriteriaBook :=
  { enable := #v[natAt vs 0, natAt vs 1, natAt vs 3, natAt vs 5, natAt vs 7, natAt vs 9, natAt vs 11, natAt vs 13,
                 natAt vs 15, natAt vs 16, natAt vs 17, natAt vs 19]
    gmMin := intAt vs 2, area30 := intAt vs 4, area40 := intAt vs 6, area3040 := intAt vs 8, gz30 := intAt vs 10,
    maxAngle := intAt vs 12, listMax := intAt vs 14, draftMax := intAt vs 18 }

/-- The fields of a PORT-ROLES record (R12). -/
def PortBook.vals (r : PortBook) : List Val := [.u8 r.role, .u8 r.cranes]

/-- A PORT-ROLES record from its fields. -/
def PortBook.ofVals (vs : List Val) : PortBook := { role := natAt vs 0, cranes := natAt vs 1 }

/-- The fields of a FIXED-ITEMS record (R12). -/
def FixedBook.vals (r : FixedBook) : List Val :=
  [.text r.label, .i32 r.weight, .i32 r.x, .i32 r.z, .i32 r.y, .u8 r.presence]

/-- A FIXED-ITEMS record from its fields. -/
def FixedBook.ofVals (vs : List Val) : FixedBook :=
  { label := valText (vs.getD 0 (.text [])), weight := intAt vs 1, x := intAt vs 2, z := intAt vs 3, y := intAt vs 4,
    presence := natAt vs 5 }

/-- One entry of the book as fields, or nothing where the section or the entry does not exist (R1, R165). -/
def Book.read (b : Book) (sect entry : Nat) : Option (List Val) :=
  match sect with
  | 1 => if entry = 0 then some b.hull.vals else none
  | 2 => if entry = 0 then some [.u16 b.hydroCount] else b.hydro[entry - 1]?.map HydroRow.vals
  | 3 => if entry = 0 then some (b.trim.toList.map .i32) else none
  | 4 => if entry = 0 then some [.u16 b.crossCount] else b.cross[entry - 1]?.map CrossRow.vals
  | 5 => b.stations[entry]?.map FrameStation.vals
  | 6 => if entry = 0 then some [.u16 b.spaceCount] else b.spaces[entry - 1]?.map Space.vals
  | 7 =>
    if entry = 0 then some [.u16 b.tankCount]
    else (b.tanks[(entry - 1) / 25]?).bind fun t =>
      if (entry - 1) % 25 = 0 then some t.consts.vals else t.points[(entry - 1) % 25 - 1]?.map SoundingPoint.vals
  | 8 => if entry = 0 then some b.channels.vals else none
  | 9 => if entry = 0 then some [.u16 b.craneCount] else b.cranes[entry - 1]?.map CraneBook.vals
  | 10 => if entry = 0 then some b.criteria.vals else none
  | 11 => if entry = 0 then some (b.segregation.toList.map .u8) else none
  | 12 => b.ports[entry]?.map PortBook.vals
  | 13 => if entry = 0 then some [.u16 b.fixedCount] else b.fixed[entry - 1]?.map FixedBook.vals
  | _ => none

/-- The tank with one of its 25 entries replaced (R1). -/
def TankBook.write (t : TankBook) (part : Nat) (vs : List Val) : TankBook :=
  if part = 0 then { t with consts := TankConstants.ofVals vs }
  else { t with points := t.points.setIfInBounds (part - 1) (SoundingPoint.ofVals vs) }

/-- The book with one entry replaced whole by a record's fields (R17). -/
def Book.write (b : Book) (sect entry : Nat) (vs : List Val) : Book :=
  match sect with
  | 1 => { b with hull := Hull.ofVals vs }
  | 2 =>
    if entry = 0 then { b with hydroCount := natAt vs 0 }
    else { b with hydro := b.hydro.setIfInBounds (entry - 1) (HydroRow.ofVals vs) }
  | 3 => { b with trim := Vector.ofFn fun k => intAt vs k }
  | 4 =>
    if entry = 0 then { b with crossCount := natAt vs 0 }
    else { b with cross := b.cross.setIfInBounds (entry - 1) (CrossRow.ofVals vs) }
  | 5 => { b with stations := b.stations.setIfInBounds entry (FrameStation.ofVals vs) }
  | 6 =>
    if entry = 0 then { b with spaceCount := natAt vs 0 }
    else { b with spaces := b.spaces.setIfInBounds (entry - 1) (Space.ofVals vs) }
  | 7 =>
    if entry = 0 then { b with tankCount := natAt vs 0 }
    else match b.tanks[(entry - 1) / 25]? with
      | none => b
      | some t => { b with tanks := b.tanks.setIfInBounds ((entry - 1) / 25) (t.write ((entry - 1) % 25) vs) }
  | 8 => { b with channels := ChannelsBook.ofVals vs }
  | 9 =>
    if entry = 0 then { b with craneCount := natAt vs 0 }
    else { b with cranes := b.cranes.setIfInBounds (entry - 1) (CraneBook.ofVals vs) }
  | 10 => { b with criteria := CriteriaBook.ofVals vs }
  | 11 => { b with segregation := Vector.ofFn fun k => natAt vs k }
  | 12 => { b with ports := b.ports.setIfInBounds entry (PortBook.ofVals vs) }
  | 13 =>
    if entry = 0 then { b with fixedCount := natAt vs 0 }
    else { b with fixed := b.fixed.setIfInBounds (entry - 1) (FixedBook.ofVals vs) }
  | _ => b

/-- The largest entry of each section, in section order (Table 1-1). -/
def sectionEntries : List (Nat × Nat) :=
  [(1, 0), (2, 64), (3, 0), (4, 32), (5, 20), (6, 48), (7, 800), (8, 0), (9, 4), (10, 0), (11, 0), (12, 5), (13, 16)]

/-- Every record of every section, in section order and entry order, as bytes (R1). -/
def Book.bytes (b : Book) : List Byte :=
  sectionEntries.flatMap fun (sect, last) =>
    (List.range (last + 1)).flatMap fun entry => encodeVals ((b.read sect entry).getD [])

/-- The check word of the book (R1). -/
def Book.word (b : Book) : BitVec 32 := crc32 b.bytes

/-- The check word of the retained condition: the book's function over the internal layout (R19). -/
def Kept.word (k : Kept) : BitVec 32 := crc32 (Config.retainedLayout k)

end Sys2Proof.Machine
end

