-- ==== Sys2Proof/Decode.lean ====
section
/-!
DEFINITION. From the bytes of a frame to the command it asks for: the kind codes and payload layouts of Table 9-5, the
form check of R167 and R170, the request encoder, and `decodeTableWord` over the rows to which the table gives bits (none).
-/
namespace Sys2Proof

open Sys2Proof.Machine

/-! ### Requests -/

/-- A stow position as STAGE carries it (Table 9-5). -/
def readPosition : Reader Position := do
  let a ← readInt
  let f ← readInt
  let vcg ← readInt
  let tcg ← readInt
  pure { a := a, f := f, vcg := vcg, tcg := tcg }

/-- An amendment as STAGE carries it: its kind numbered as in R127, then the fields of that kind (Table 9-5). -/
def readAmendment : Reader Amendment := do
  let kind ← readNat 1
  match kind with
  | 0 => do
    let mark ← readText
    let weight ← readInt
    let space ← readNat 1
    let pos ← readPosition
    let hazard ← readOpt (readNat 1)
    pure (.planLoad mark weight space pos hazard)
  | 1 => do
    let handle ← readNat 2
    let space ← readNat 1
    let pos ← readPosition
    pure (.planShift handle space pos)
  | 2 => do
    let handle ← readNat 2
    pure (.planCancel handle)
  | 3 => do
    let handle ← readNat 2
    pure (.markDischarge handle)
  | 4 => do
    let handle ← readNat 2
    pure (.unmark handle)
  | 5 => do
    let handle ← readNat 2
    pure (.directStow handle)
  | 6 => do
    let handle ← readNat 2
    let space ← readNat 1
    let pos ← readPosition
    pure (.restow handle space pos)
  | 7 => do
    let handle ← readNat 2
    pure (.directRemove handle)
  | 8 => do
    let handle ← readNat 2
    let weight ← readInt
    pure (.correctWeight handle weight)
  | _ => failure

/-- The form of a BOOK-WRITE record: where the section and the entry exist, the record's bytes are the fields of that
entry, no fewer and no more (R165, R167); where they do not exist the block answers (R17; log entry 8). -/
def recordFits (sect entry : Nat) (record : List Byte) : Bool :=
  match recordTypes sect entry with
  | none => true
  | some ts => (readAll (readVals ts) record).isSome

/-- The payload of a BOOK-WRITE (Table 9-5). -/
def readBookWrite (p : Port) : Reader Instr := do
  let sect ← readNat 1
  let entry ← readNat 2
  let record ← readRest
  if recordFits sect entry record then pure (.bookWrite p sect entry record) else failure

/-- The payload of a FIXED-SET (Table 9-5). -/
def readFixedSet (p : Port) : Reader Instr := do
  let item ← readNat 1
  let weight ← readInt
  let x ← readInt
  let z ← readInt
  let y ← readInt
  let presence ← readNat 1
  pure (.fixedSet p item weight x z y presence)

/-- The payload of a CHANNEL-MODE: form 0 with a channel and a mode, form 1 with the level (R61, Table 9-5). -/
def readChannelMode (p : Port) : Reader Instr := do
  let form ← readNat 1
  if form = 0 then do
    let channel ← readNat 1
    let mode ← readNat 1
    pure (.channelModeChannel p channel mode)
  else if form = 1 then do
    let level ← readNat 1
    pure (.channelModeQueueLevel p level)
  else failure

/-- The payload of a TALLY-CONTROL: the tally and the control fields in the order of R177. -/
def readTallyControl (p : Port) : Reader Instr := do
  let tally ← readNat 1
  let cls ← readNat 1
  let subevents ← readNat 1
  let roles ← readNat 1
  let groups ← readNat 1
  let inhibit ← readNat 1
  let notice ← readNat 1
  let readable ← readNat 1
  pure (.tallyControl p tally
    { cls := cls, subevents := subevents, roles := roles, groups := groups, inhibit := inhibit, notice := notice,
      readable := readable })

/-- The payload of a STOP-VOTE: the crane and the action, 0 set and 1 release (Table 9-5). -/
def readStopVote (p : Port) : Reader Instr := do
  let crane ← readNat 1
  let action ← readNat 1
  if action = 1 then pure (.stopVoteRelease p crane) else pure (.stopVoteSet p crane action)

/-- The payload of a CLEAR-REQUEST (Table 9-5). -/
def readClearRequest (p : Port) : Reader Instr := do
  let crane ← readNat 1
  let lot ← readNat 2
  let direction ← readNat 1
  let x ← readInt
  let z ← readInt
  let y ← readInt
  pure (.clearRequest p crane lot direction { x := x, z := z, y := y })

/-- A payload with no field. -/
def readNone (c : Instr) : Reader Instr := pure c

/-- A payload with one unsigned field of `k` bytes. -/
def readOne (k : Nat) (c : Nat → Instr) : Reader Instr := do
  let n ← readNat k
  pure (c n)

/-- A payload with two unsigned fields. -/
def readTwo (k l : Nat) (c : Nat → Nat → Instr) : Reader Instr := do
  let n ← readNat k
  let m ← readNat l
  pure (c n m)

/-- A payload with an unsigned byte and a signed number. -/
def readByteInt (c : Nat → Int → Instr) : Reader Instr := do
  let n ← readNat 1
  let z ← readInt
  pure (c n z)

/-- The reader of the payload of each request kind (Table 9-5). -/
def readRequest (p : Port) (kind : Byte) : Reader Instr :=
  match kind.toNat with
  | 0x01 => readTwo 1 2 (.bookRead p)
  | 0x02 => readNone (.bookStatus p)
  | 0x03 => readBookWrite p
  | 0x04 => readNone (.bookAccept p)
  | 0x05 => readOne 2 (.lotRead p)
  | 0x06 => readTwo 1 2 (.spaceRead p)
  | 0x07 => readOne 2 (.ashoreRead p)
  | 0x08 => readOne 1 (.channelRead p)
  | 0x09 => readOne 1 (.tankRead p)
  | 0x0A => readOne 1 (.verdictRead p)
  | 0x0B => readNone (.captureRead p)
  | 0x0C => readOne 1 (.linkRead p)
  | 0x0D => readOne 8 (.readJournal p)
  | 0x0E => readOne 1 (.fixedRead p)
  | 0x0F => readOne 1 (.craneRead p)
  | 0x10 => readNone (.faultRead p)
  | 0x11 => readOne 1 (.portStatus p)
  | 0x12 => readOne 1 (.readTally p)
  | 0x13 => readOne 1 (.claim p)
  | 0x14 => do
    let group ← readNat 1
    let am ← readAmendment
    pure (.stage p group am)
  | 0x15 => readTwo 1 1 (.commit p)
  | 0x16 => readOne 1 (.releaseLink p)
  | 0x17 => readFixedSet p
  | 0x18 => readByteInt (.tankManual p)
  | 0x19 => readByteInt (.tankDensity p)
  | 0x1A => do
    let tank ← readNat 1
    let fill ← readOpt readInt
    pure (.tankPlan p tank fill)
  | 0x1B => readOne 1 (.channelRestore p)
  | 0x1C => readChannelMode p
  | 0x1D => readNone (.captureClear p)
  | 0x1E => readOne 1 (.captureMode p)
  | 0x1F => readNone (.faultClear p)
  | 0x20 => readOne 1 (.conditionMode p)
  | 0x21 => readNone (.conditionConfirm p)
  | 0x22 => readNone (.purgeAshore p)
  | 0x23 => readTallyControl p
  | 0x24 => readTwo 1 4 (.tallySet p)
  | 0x25 => readStopVote p
  | 0x26 => readClearRequest p
  | 0x27 => readOne 1 (.clearCancel p)
  | 0x28 => readOne 2 (.subscribe p)
  | 0x29 => readNone (.portRestart p none)
  | _ => failure

/-- The command that serves a request of this kind and payload at a port: the row of its kind when its payload length
fits, and UNKNOWN_REQUEST otherwise (R165, R167 step 1). -/
def commandOf (p : Port) (kind : Byte) (payload : List Byte) : Instr :=
  (readAll (readRequest p kind) payload).getD (.unknownRequest p)

/-! ### Reports -/

/-- A reading's values: a level on channels 0 to 34, a hook load and boom head on the others (Table 9-2). -/
def readReading (p : Port) : Reader Instr := do
  let channel ← readNat 1
  if channel ≤ 34 then do
    let v ← readInt
    pure (.readingReport p channel (.level v))
  else do
    let load ← readNat 4
    let x ← readInt
    let y ← readInt
    let z ← readInt
    pure (.readingReport p channel (.hook load x y z))

/-- The reader of the payload of each report kind (Table 9-5). -/
def readReport (p : Port) (kind : Byte) : Reader Instr :=
  match kind.toNat with
  | 0x60 => readReading p
  | 0x61 => readTwo 1 2 (.hookOn p)
  | 0x62 => readTwo 1 2 (.land p)
  | 0x63 => readTwo 1 2 (.landBack p)
  | _ => failure

/-- The report a frame of the report class carries, or nothing where its kind names no report or its payload length does
not fit (R170 step 1). -/
def reportOf (p : Port) (kind : Byte) (payload : List Byte) : Option Instr :=
  readAll (readReport p kind) payload

/-! ### Encoding -/

/-- The fields of a stow position. -/
def positionVals (q : Position) : List Val := [.i32 q.a, .i32 q.f, .i32 q.vcg, .i32 q.tcg]

/-- The fields of an amendment as STAGE carries it (Table 9-5). -/
def amendmentVals : Amendment → List Val
  | .planLoad mark weight space pos hazard =>
    [.u8 0, .text mark, .i32 weight, .u8 space] ++ positionVals pos ++ optVals (hazard.map fun n => [.u8 n])
  | .planShift handle space pos => [.u8 1, .u16 handle, .u8 space] ++ positionVals pos
  | .planCancel handle => [.u8 2, .u16 handle]
  | .markDischarge handle => [.u8 3, .u16 handle]
  | .unmark handle => [.u8 4, .u16 handle]
  | .directStow handle => [.u8 5, .u16 handle]
  | .restow handle space pos => [.u8 6, .u16 handle, .u8 space] ++ positionVals pos
  | .directRemove handle => [.u8 7, .u16 handle]
  | .correctWeight handle weight => [.u8 8, .u16 handle, .i32 weight]

/-- The kind byte and payload of a request command, and nothing for the rows that no request frame asks for (Table 9-5). -/
def encodeRequest : Instr → Option (Byte × List Byte)
  | .bookRead _ sect entry => some (0x01, encodeVals [.u8 sect, .u16 entry])
  | .bookStatus _ => some (0x02, [])
  | .bookWrite _ sect entry record => some (0x03, encodeVals [.u8 sect, .u16 entry] ++ record)
  | .bookAccept _ => some (0x04, [])
  | .lotRead _ handle => some (0x05, encodeVals [.u16 handle])
  | .spaceRead _ space pos => some (0x06, encodeVals [.u8 space, .u16 pos])
  | .ashoreRead _ pos => some (0x07, encodeVals [.u16 pos])
  | .channelRead _ channel => some (0x08, encodeVals [.u8 channel])
  | .tankRead _ tank => some (0x09, encodeVals [.u8 tank])
  | .verdictRead _ set => some (0x0A, encodeVals [.u8 set])
  | .captureRead _ => some (0x0B, [])
  | .linkRead _ group => some (0x0C, encodeVals [.u8 group])
  | .readJournal _ gen => some (0x0D, encodeVals [.u64 gen])
  | .fixedRead _ item => some (0x0E, encodeVals [.u8 item])
  | .craneRead _ crane => some (0x0F, encodeVals [.u8 crane])
  | .faultRead _ => some (0x10, [])
  | .portStatus _ port => some (0x11, encodeVals [.u8 port])
  | .readTally _ tally => some (0x12, encodeVals [.u8 tally])
  | .claim _ space => some (0x13, encodeVals [.u8 space])
  | .stage _ group am => some (0x14, encodeVals (.u8 group :: amendmentVals am))
  | .commit _ group override => some (0x15, encodeVals [.u8 group, .u8 override])
  | .releaseLink _ group => some (0x16, encodeVals [.u8 group])
  | .fixedSet _ item weight x z y presence =>
    some (0x17, encodeVals [.u8 item, .i32 weight, .i32 x, .i32 z, .i32 y, .u8 presence])
  | .tankManual _ tank sounding => some (0x18, encodeVals [.u8 tank, .i32 sounding])
  | .tankDensity _ tank density => some (0x19, encodeVals [.u8 tank, .i32 density])
  | .tankPlan _ tank fill => some (0x1A, encodeVals (.u8 tank :: optVals (fill.map fun z => [.i32 z])))
  | .channelRestore _ channel => some (0x1B, encodeVals [.u8 channel])
  | .channelModeChannel _ channel mode => some (0x1C, encodeVals [.u8 0, .u8 channel, .u8 mode])
  | .channelModeQueueLevel _ level => some (0x1C, encodeVals [.u8 1, .u8 level])
  | .captureClear _ => some (0x1D, [])
  | .captureMode _ mode => some (0x1E, encodeVals [.u8 mode])
  | .faultClear _ => some (0x1F, [])
  | .conditionMode _ mode => some (0x20, encodeVals [.u8 mode])
  | .conditionConfirm _ => some (0x21, [])
  | .purgeAshore _ => some (0x22, [])
  | .tallyControl _ tally c =>
    some (0x23, encodeVals [.u8 tally, .u8 c.cls, .u8 c.subevents, .u8 c.roles, .u8 c.groups, .u8 c.inhibit,
      .u8 c.notice, .u8 c.readable])
  | .tallySet _ tally value => some (0x24, encodeVals [.u8 tally, .u32 value])
  | .stopVoteSet _ crane action => some (0x25, encodeVals [.u8 crane, .u8 action])
  | .stopVoteRelease _ crane => some (0x25, encodeVals [.u8 crane, .u8 1])
  | .clearRequest _ crane lot direction worst =>
    some (0x26, encodeVals ([.u8 crane, .u16 lot, .u8 direction] ++ pointVals worst))
  | .clearCancel _ crane => some (0x27, encodeVals [.u8 crane])
  | .subscribe _ mask => some (0x28, encodeVals [.u16 mask])
  | .portRestart _ none => some (0x29, [])
  | .portRestart _ (some _) | .powerOn | .resetAssert _ | .resetRelease | .startChecksComplete _ | .frameDeliver _ _
  | .characterTimeout _ | .framingError _ | .unknownRequest _ | .readingReport _ _ _ | .hookOn _ _ _ | .land _ _ _
  | .landBack _ _ _ | .applyReading | .channelStaleExpiry _ | .hookStaleExpiry _ | .portSilence _
  | .livePassComplete | .planPassComplete | .commitTrialComplete | .clearanceTrialComplete | .limitEvent
  | .frameSent _ | .powerLoss _ => none

/-- The kind byte and payload of a report command (Table 9-5). -/
def encodeReport : Instr → Option (Byte × List Byte)
  | .readingReport _ channel (.level v) => some (0x60, encodeVals [.u8 channel, .i32 v])
  | .readingReport _ channel (.hook load x y z) =>
    some (0x60, encodeVals [.u8 channel, .u32 load, .i32 x, .i32 y, .i32 z])
  | .hookOn _ crane lot => some (0x61, encodeVals [.u8 crane, .u16 lot])
  | .land _ crane lot => some (0x62, encodeVals [.u8 crane, .u16 lot])
  | .landBack _ crane lot => some (0x63, encodeVals [.u8 crane, .u16 lot])
  | _ => none

/-- The command that a word spells by the table's bits. spec/opcode_table.json gives bits to no row, so a word spells
none: commands reach a port as frames, which `commandOf` and `reportOf` read. -/
def decodeTableWord (_nbits _w : Nat) : Option Instr := none

end Sys2Proof
end

