-- ==== Sys2Proof/Machine/Ops.lean ====
section
/-!
DEFINITION. The shared operations: numbered tables, the lot table, the write of the retained condition, the ports' reply
and notice queues, the tallies, and access faults. The commands' meanings are written over these.
-/
namespace Sys2Proof.Machine

/-! ### Arithmetic -/

/-- Division with rounding to the nearest integer, halves away from zero, for a positive divisor (00 "Arithmetic"). -/
def roundDiv (n d : Int) : Int :=
  if 0 ≤ n then (2 * n + d) / (2 * d) else -((2 * (-n) + d) / (2 * d))

/-- The value nearest to `z` inside `lo` to `hi`. -/
def clamp (lo hi z : Int) : Int :=
  if z < lo then lo else if hi < z then hi else z

/-- `z` lies within `lo` to `hi`, ends included (R2). -/
def within (lo hi z : Int) : Bool := decide (lo ≤ z) && decide (z ≤ hi)

/-- The milliseconds from one clock value to a later one, modulo 2³² (R49). -/
def elapsed (earlier later : Clock) : Nat := (later - earlier).toNat

/-! ### Numbered tables -/

/-- The table with entry `i` changed by `f`. -/
def updAt {α : Type} {n : Nat} (v : Vector α n) (i : Fin n) (f : α → α) : Vector α n :=
  v.set i.val (f v[i.val]) i.isLt

/-- The record of key `k` in a list of keyed records. -/
def tableGet {α : Type} : List (Nat × α) → Nat → Option α
  | [], _ => none
  | (j, a) :: rest, k => if j = k then some a else tableGet rest k

/-- The list with the record of key `k` set, in rising order of key. -/
def tablePut {α : Type} : List (Nat × α) → Nat → α → List (Nat × α)
  | [], k, a => [(k, a)]
  | (j, b) :: rest, k, a =>
    if k < j then (k, a) :: (j, b) :: rest
    else if k = j then (k, a) :: rest
    else (j, b) :: tablePut rest k a

/-- The list without the record of key `k`. -/
def tableErase {α : Type} (l : List (Nat × α)) (k : Nat) : List (Nat × α) :=
  l.filter fun e => e.1 ≠ k

/-- The lowest key from `n` up that a list in rising order does not hold. -/
def lowestFree {α : Type} : List (Nat × α) → Nat → Nat
  | [], n => n
  | (j, _) :: rest, n => if n < j then n else lowestFree rest (j + 1)

/-- The canonical form of a keyed table: keys strictly rising, each below the bound. -/
def tableWf {α : Type} (bound : Nat) : List (Nat × α) → Bool
  | [] => true
  | [(j, _)] => decide (j < bound)
  | (j, _) :: (k, b) :: rest => decide (j < k) && tableWf bound ((k, b) :: rest)

/-! ### The retained condition -/

/-- The record of a lot, absent where the handle is free (R21). -/
def Kept.lot (k : Kept) (h : Nat) : Option Lot := tableGet k.lots h

/-- The condition with a lot record set. -/
def Kept.putLot (k : Kept) (h : Nat) (l : Lot) : Kept := { k with lots := tablePut k.lots h l }

/-- The condition with a handle freed (R24). -/
def Kept.freeLot (k : Kept) (h : Nat) : Kept := { k with lots := tableErase k.lots h }

/-- The stow sequence list of a space (R39). -/
def Kept.stowList (k : Kept) (space : Nat) : List Nat := (k.stow[space]?).getD []

/-- The condition with a lot appended to the tail of a space's list (R39). -/
def Kept.stowAppend (k : Kept) (space h : Nat) : Kept :=
  { k with stow := k.stow.setIfInBounds space (k.stowList space ++ [h]) }

/-- The condition with a lot removed from a space's list (R39). -/
def Kept.stowRemove (k : Kept) (space h : Nat) : Kept :=
  { k with stow := k.stow.setIfInBounds space ((k.stowList space).filter fun j => j ≠ h) }

/-- A change of the retained condition, written to its store together with the new check word (R19). Every change of the
condition goes through this operation. -/
def State.setKept (s : State) (k : Kept) : State := { s with kept := k, keptCheck := some k.word }

/-- The state with the retained record of a channel changed. -/
def State.onChannelKept (s : State) (ch : ChannelNo) (f : ChannelKept → ChannelKept) : State :=
  s.setKept { s.kept with channels := updAt s.kept.channels ch f }

/-- The state with the volatile record of a channel changed. -/
def State.onChannelLive (s : State) (ch : ChannelNo) (f : ChannelLive → ChannelLive) : State :=
  { s with vol.channels := updAt s.vol.channels ch f }

/-- The state with a tank fill record changed. -/
def State.onTank (s : State) (t : TankNo) (f : TankFill → TankFill) : State :=
  s.setKept { s.kept with tanks := updAt s.kept.tanks t f }

/-- The state with the retained part of a crane record set. -/
def State.setCrane (s : State) (c : CraneNo) (k : CraneState) : State :=
  s.setKept { s.kept with cranes := s.kept.cranes.set c.val k c.isLt }

/-- The state with the volatile part of a crane record changed. -/
def State.onCrane (s : State) (c : CraneNo) (f : CraneLive → CraneLive) : State :=
  { s with vol.cranes := updAt s.vol.cranes c f }

/-- The retained part of a crane record. -/
def State.craneState (s : State) (c : CraneNo) : CraneState := s.kept.cranes[c.val]

/-- The volatile part of a crane record. -/
def State.craneLive (s : State) (c : CraneNo) : CraneLive := s.vol.cranes[c.val]

/-! ### Roles -/

/-- The role that the book gives a port (R12). -/
def State.role (s : State) (p : Port) : Role := roleOf s.book.ports[p.val].role

/-- A crane number lies in the port's crane set (R12, R168). -/
def State.ownsCrane (s : State) (p : Port) (crane : Nat) : Bool :=
  decide (1 ≤ crane) && s.book.ports[p.val].cranes.testBit (crane - 1)

/-- A crane exists under the book's crane count (R9). -/
def State.craneExists (s : State) (c : CraneNo) : Bool := decide (craneNum c ≤ s.book.craneCount)

/-- The book record of a space that exists under the space count (R6). -/
def State.spaceBook (s : State) (space : Nat) : Option Space :=
  if space < s.book.spaceCount then s.book.spaces[space]? else none

/-- The hold group of a space, 0 where the space does not exist (R6). -/
def State.groupOf (s : State) (space : Nat) : Nat :=
  match s.spaceBook space with
  | some b => b.group
  | none => 0

/-! ### The ports' outbound side -/

/-- One more discard, held at 65 535 (R163). -/
def PortState.discard (q : PortState) : PortState := { q with discards := min (q.discards + 1) Config.discardMax }

/-- A free line begins the oldest reply, or else the head notice (R175). -/
def PortState.pump (q : PortState) : PortState :=
  match q.line with
  | some _ => q
  | none =>
    match q.replies, q.notices with
    | r :: rest, _ => { q with line := some (.reply r), replies := rest }
    | [], n :: rest => { q with line := some (.notice n), notices := rest }
    | [], [] => q

/-- A produced reply joins the tail of the outbound reply list, or is discarded and counted when eight wait (R166, R167). -/
def PortState.pushReply (q : PortState) (r : Reply) : PortState :=
  if q.replies.length < Config.replyCapacity then { q with replies := q.replies ++ [r] } else q.discard

/-- A notice of this kind replaces an undelivered one of the same kind and subject (R173). -/
def NoticeKind.replaces : NoticeKind → Bool
  | .verdict => true
  | .planVerdict => true
  | .permit => true
  | .channel => true
  | .readingLost => false
  | .queueHigh => false
  | .linkTaken => false
  | .unpermittedLift => false
  | .overstow => false
  | .unknownLot => false
  | .outOfOrder => false
  | .weightDisagree => false
  | .overload => false
  | .accessFault => false
  | .tallyOverflow => false

/-- Two notices have the same kind and subject. -/
def Notice.sameSubject (m n : Notice) : Bool := decide (m.kind = n.kind) && decide (m.subject = n.subject)

/-- A notice comes to a port: it is discarded at a SILENT port or one that has not subscribed; otherwise it replaces, is
appended, or is dropped (R171, R173). -/
def PortState.pushNotice (q : PortState) (n : Notice) : PortState :=
  if q.silent || !q.subscription.getLsbD (noticeBit n.kind) then q
  else if n.kind.replaces && q.notices.any n.sameSubject then
    { q with notices := q.notices.map fun m => if n.sameSubject m then n else m }
  else if q.notices.length < Config.noticeCapacity then { q with notices := q.notices ++ [n] }
  else { q with dropped := true }

/-- The record of a port. -/
def State.port (s : State) (p : Port) : PortState := s.vol.ports[p.val]

/-- The state with a port's record changed. -/
def State.onPort (s : State) (p : Port) (f : PortState → PortState) : State :=
  { s with vol.ports := updAt s.vol.ports p f }

/-- Every free line begins what waits for it (R175). -/
def State.pumpAll (s : State) : State := { s with vol.ports := s.vol.ports.map PortState.pump }

/-- The kind byte of the reply to a request: its kind plus 0x80 (R165). -/
def replyKind (kind : Byte) : Byte :=
  if kind.toNat < 0x80 then kind + 0x80 else Config.highReplyKind kind

/-- The reply to a request. -/
def Request.replyWith (r : Request) (st : Status) (body : List Val) : Reply :=
  { kind := replyKind r.kind, tag := r.tag, status := st, body := body }

/-- The request in service at a port: the head of its queue, unless it awaits its TRIAL (R109, R167). -/
def State.inService (s : State) (p : Port) : Option Request :=
  match s.vol.trials[p.val] with
  | some _ => none
  | none => (s.port p).requests.head?

/-- The reply to the request in service is produced: it joins the reply list, or is discarded when the request is
orphaned, and the request leaves the queue (R167). -/
def PortState.answer (q : PortState) (st : Status) (body : List Val) : PortState :=
  match q.requests with
  | [] => q
  | r :: rest =>
    let q' := { q with requests := rest }
    if r.orphaned then q' else (q'.pushReply (r.replyWith st body)).pump

/-- The port answers its request in service (R167). -/
def State.answer (s : State) (p : Port) (st : Status) (body : List Val) : State :=
  s.onPort p fun q => q.answer st body

/-- The body of a refusal: value class, value and generation (Table 9-2). -/
def State.refusalBody (s : State) (v : RefValue) : List Val := refVals v ++ [.u64 s.kept.generation]

/-- The port answers its request in service with a refusal (R164). -/
def State.refuse (s : State) (p : Port) (st : Status) (v : RefValue) : State := s.answer p st (s.refusalBody v)

/-! ### Notices -/

/-- A notice stamped with the clock at issue (Table 9-2). -/
def State.notice (s : State) (kind : NoticeKind) (subject : Nat) (body : List Val) : Notice :=
  { kind := kind, clock := s.clock, subject := subject, body := body }

/-- A notice comes to each of some ports (R173). -/
def notifyAll (ports : Vector PortState 6) (n : Notice) : Vector PortState 6 := ports.map fun q => q.pushNotice n

/-- A notice is issued: it goes to every port (R173). None is queued outside SERVICE (R16). -/
def State.issue (s : State) (kind : NoticeKind) (subject : Nat) (body : List Val) : State :=
  { s with vol.ports :=
      if s.part = .service then notifyAll s.vol.ports (s.notice kind subject body) else s.vol.ports }

/-- A notice is issued to one port alone (R173, LINK-TAKEN). -/
def State.issueTo (s : State) (p : Port) (kind : NoticeKind) (subject : Nat) (body : List Val) : State :=
  { s with vol.ports :=
      if s.part = .service then updAt s.vol.ports p fun q => q.pushNotice (s.notice kind subject body) else s.vol.ports }

/-! ### Tallies -/

/-- The tally classes (R177). -/
inductive EventClass where
  | lotMoves
  | tonnage
  | amendments
  | clearances
  | readings
  | evaluations
  | access
deriving DecidableEq, Repr

/-- The number of a tally class (R177). -/
def classCode : EventClass → Nat
  | .lotMoves => 1
  | .tonnage => 2
  | .amendments => 3
  | .clearances => 4
  | .readings => 5
  | .evaluations => 6
  | .access => 7

/-- A tally event (R178, Table 10-1): the class, the subevent's bit, the origin role and the hold group where it has
them, and the amount it adds. -/
structure TallyEvent where
  cls : EventClass
  sub : Nat
  role : Option Role
  group : Option Nat
  amount : Nat
deriving DecidableEq, Repr

/-- The event's role passes the role filter (R179). -/
def roleIn (mask : BitVec 8) (r : Role) : Bool :=
  match roleBit r with
  | some k => mask.getLsbD k
  | none => false

/-- A tally counts an event (R179). -/
def Tally.matchesEvent (t : Tally) (e : TallyEvent) : Bool :=
  !t.control.inhibit && decide (t.control.cls = classCode e.cls) && t.control.subevents.getLsbD e.sub &&
  (match e.role with
   | none => true
   | some r => roleIn t.control.roles r) &&
  (match e.group with
   | none => true
   | some g => decide (1 ≤ g) && t.control.groups.getLsbD (g - 1))

/-- The value past which a tally wraps (R180). -/
def tallyModulus : Nat := 4294967296

/-- The tally with an event added: past 2³² - 1 it wraps and sets its overflow flag (R179, R180). -/
def Tally.add (t : Tally) (amount : Nat) : Tally :=
  if t.value + amount < tallyModulus then { t with value := t.value + amount }
  else { t with value := t.value + amount - tallyModulus, overflow := true }

/-- The tallies and the ports, which the counting of an event changes. -/
structure Counting where
  tallies : Vector Tally 8
  ports : Vector PortState 6

/-- The TALLY-OVERFLOW notice of a tally, by its value after the wrap (R180). -/
def State.overflowNotice (s : State) (i : Fin 8) (t : Tally) : Notice :=
  s.notice .tallyOverflow 0 [.u8 i.val, .u8 t.control.cls, .u32 t.value]

/-- An event makes a tally wrap, with notice-on-overflow set (R180). -/
def Tally.wrapsWithNotice (t : Tally) (amount : Nat) : Bool := decide (tallyModulus ≤ t.value + amount) && t.control.notice

/-- One tally is offered an event; a wrap with notice-on-overflow set issues TALLY-OVERFLOW (R179, R180). -/
def State.offer (s : State) (e : TallyEvent) (c : Counting) (i : Fin 8) : Counting :=
  let t := c.tallies[i.val]
  if t.matchesEvent e then
    { tallies := c.tallies.set i.val (t.add e.amount) i.isLt
      ports :=
        if t.wrapsWithNotice e.amount && decide (s.part = .service) then
          notifyAll c.ports (s.overflowNotice i (t.add e.amount))
        else c.ports }
  else c

/-- An event is offered to all eight tallies (R179). -/
def State.offerAll (s : State) (c : Counting) (e : TallyEvent) : Counting := (List.finRange 8).foldl (s.offer e) c

/-- The tallies and the ports with several events offered, one after the other (R179). -/
def State.counted (s : State) (es : List TallyEvent) : Counting :=
  es.foldl s.offerAll { tallies := s.vol.tallies, ports := s.vol.ports }

/-- Several events are handed to the Tally Unit, one after the other (R179). -/
def State.countAll (s : State) (es : List TallyEvent) : State :=
  { s with vol.tallies := (s.counted es).tallies, vol.ports := (s.counted es).ports }

/-- An event is handed to the Tally Unit (R179). -/
def State.count (s : State) (e : TallyEvent) : State := s.countAll [e]

/-! ### Access faults -/

/-- A breach of the access table: the record is overwritten, ACCESS-FAULT is issued and ACCESS denied is counted (R169). -/
def State.breach (s : State) (p : Port) (kind : Byte) (cause : Cause) (v : RefValue) : State :=
  let f : AccessFault := { port := p, role := s.role p, kind := kind, cause := cause, value := v }
  let s1 := { s with vol.accessFault := some f }
  let s2 := s1.issue .accessFault 0
    ([.u8 p.val, .u8 (roleCode f.role), .u8 kind.toNat, .u8 (causeCode cause)] ++ faultVals v)
  s2.count { cls := .access, sub := 0, role := some f.role, group := none, amount := 1 }

/-! ### Links -/

/-- The link of a hold group (R126). -/
def State.link (s : State) (g : Group) : Option Link := s.vol.links[g.val]

/-- The state with a link record set; `none` is an invalid link (R126). -/
def State.setLink (s : State) (g : Group) (l : Option Link) : State :=
  { s with vol.links := s.vol.links.set g.val l g.isLt }

/-- Every valid link that the test names is invalidated (R126). -/
def State.breakLinks (s : State) (test : Link → Bool) : State :=
  { s with vol.links := s.vol.links.map fun o => o.bind fun l => if test l then none else some l }

/-! ### Pending marks -/

/-- The LIVE job becomes pending (R107). -/
def State.pendLive (s : State) : State := { s with vol.livePending := true }

/-- The PLAN job becomes pending (R107). -/
def State.pendPlan (s : State) : State := { s with vol.planPending := true }

end Sys2Proof.Machine
end

