-- ==== Sys2Proof/Machine/Tanks.lean ====
section
/-!
DEFINITION. Tank contents: the conversion of a sounding to volume, centres, weight and free surface moment (R67, R68).
-/
namespace Sys2Proof.Machine

/-- Interpolation between two values over the part `num` of `den`, rounded on its own (R67, R83). -/
def interpolate (va vb num den : Int) : Int := va + roundDiv ((vb - va) * num) den

/-- The first two adjacent points A and B with sounding_A ≤ s < sounding_B (R67). -/
def soundingPair (s : Int) : List SoundingPoint → Option (SoundingPoint × SoundingPoint)
  | a :: b :: rest =>
    if a.sounding ≤ s ∧ s < b.sounding then some (a, b) else soundingPair s (b :: rest)
  | _ => none

/-- The five values at a sounding between two points (R67). -/
def betweenPoints (a b : SoundingPoint) (s : Int) : SoundingPoint :=
  let num := s - a.sounding
  let den := b.sounding - a.sounding
  { sounding := s
    volume := interpolate a.volume b.volume num den
    lcg := interpolate a.lcg b.lcg num den
    vcg := interpolate a.vcg b.vcg num den
    tcg := interpolate a.tcg b.tcg num den
    fsm := interpolate a.fsm b.fsm num den }

/-- The sounding points of a tank that take part in conversion (R7). -/
def TankBook.table (t : TankBook) : List SoundingPoint := t.points.toList.take t.consts.points

/-- The values of a tank at a sounding: clamped to 0 to depth, then the end points or the interpolation (R67). -/
def TankBook.convert (t : TankBook) (sounding : Int) : SoundingPoint :=
  let s := clamp 0 t.consts.depth sounding
  match t.table with
  | [] => { sounding := 0, volume := 0, lcg := 0, vcg := 0, tcg := 0, fsm := 0 }
  | first :: rest =>
    let last := (first :: rest).getLast (by simp)
    if s ≤ first.sounding then first
    else if last.sounding ≤ s then last
    else match soundingPair s (first :: rest) with
      | some (a, b) => betweenPoints a b s
      | none => last

/-- The contents of a tank: volume, weight, centres and free surface moment (R67, R68). -/
structure Contents where
  volume : Int
  weight : Int
  lcg : Int
  vcg : Int
  tcg : Int
  fsm : Int
deriving DecidableEq, Repr

/-- The tank is slack: 1 000 × volume lies within 20 × capacity to 980 × capacity (R68). -/
def slack (volume capacity : Int) : Bool := within (20 * capacity) (980 * capacity) (1000 * volume)

/-- The contents of a tank at a sounding and a density in force (R67, R68). -/
def TankBook.contents (t : TankBook) (sounding density : Int) : Contents :=
  let v := t.convert sounding
  { volume := v.volume
    weight := roundDiv (v.volume * density) 10000
    lcg := v.lcg
    vcg := v.vcg
    tcg := v.tcg
    fsm := if slack v.volume t.consts.capacity then roundDiv (v.fsm * density) t.consts.refDensity else 0 }

/-- A tank exists under the book's tank count (R7). -/
def State.tankExists (s : State) (t : TankNo) : Bool := decide (t.val < s.book.tankCount)

/-- The index of a tank number that exists (R7). -/
def State.tankIdx (s : State) (n : Nat) : Option TankNo :=
  if h : n < 32 then (if n < s.book.tankCount then some ⟨n, h⟩ else none) else none

/-- The fill record of a tank. -/
def State.tank (s : State) (t : TankNo) : TankFill := s.kept.tanks[t.val]

/-- The book's tank. -/
def State.tankBook (s : State) (t : TankNo) : TankBook := s.book.tanks[t.val]

/-- The current contents of a tank, at the applied sounding (03 section 3.6). -/
def State.currentContents (s : State) (t : TankNo) : Contents :=
  (s.tankBook t).contents (s.tank t).applied (s.tank t).density

/-- The planned contents of a tank: at the planned fill when one is present, otherwise the current contents (R69). -/
def State.plannedContents (s : State) (t : TankNo) : Contents :=
  (s.tankBook t).contents ((s.tank t).planned.getD (s.tank t).applied) (s.tank t).density

end Sys2Proof.Machine
end

