-- ==== Sys2Proof/Machine/Accumulator.lean ====
section
/-!
DEFINITION. The Condition Accumulator: each contributor's contribution to the LIVE and the PLAN sum set, the difference
by which a change of a contributor reaches the sums, and the building of both sets afresh (R47, R69, R74 to R79).
-/
namespace Sys2Proof.Machine

/-- The sum of two contributions, entry by entry. -/
def SumSet.add (a b : SumSet) : SumSet :=
  { w := a.w + b.w, ml := a.ml + b.ml, mv := a.mv + b.mv, mt := a.mt + b.mt, fsm := a.fsm + b.fsm,
    wa := Vector.ofFn fun k => a.wa[k] + b.wa[k] }

/-- The difference of two contributions, entry by entry. -/
def SumSet.sub (a b : SumSet) : SumSet :=
  { w := a.w - b.w, ml := a.ml - b.ml, mv := a.mv - b.mv, mt := a.mt - b.mt, fsm := a.fsm - b.fsm,
    wa := Vector.ofFn fun k => a.wa[k] - b.wa[k] }

/-- The sum of several contributions. -/
def SumSet.total (cs : List SumSet) : SumSet := cs.foldl SumSet.add SumSet.zero

/-- The weight-aft contribution of weight `w` over the span `a` to `f` at a frame station at `xs` (R77). -/
def weightAft (w a f xs : Int) : Int :=
  if a = f then (if a < xs then w else 0)
  else if xs ≤ a then 0
  else if f ≤ xs then w
  else roundDiv (w * (xs - a)) (f - a)

/-- The contribution of an item of weight `w` at x, z, y with its weight aft taken over the span `a` to `f` (R76). -/
def contribution (b : Book) (w x z y a f fsm : Int) : SumSet :=
  { w := w, ml := w * x, mv := w * z, mt := w * y, fsm := fsm,
    wa := b.stations.map fun st => weightAft w a f st.x }

/-- The contribution of a point item (R76). -/
def pointContribution (b : Book) (w : Int) (q : Point) : SumSet := contribution b w q.x q.z q.y q.x q.x 0

/-- The lot's LCG: (a + f)/2, rounded (R21). -/
def lcgOf (q : Position) : Int := roundDiv (q.a + q.f) 2

/-- The contributing weight of a lot (R22). -/
def Lot.weight (l : Lot) : Int := l.verified.getD l.declared

/-- The contribution of a lot at its stow position (R47). -/
def stowContribution (b : Book) (l : Lot) : SumSet :=
  contribution b l.weight (lcgOf l.pos) l.pos.vcg l.pos.tcg l.pos.a l.pos.f 0

/-- The assumed boom head of a crane for a lot: the pedestal at the height of the lot's stow VCG (R146). -/
def State.assumedHead (s : State) (c : CraneNo) (l : Lot) : Point :=
  { x := s.book.cranes[c.val].pedestalX, z := l.pos.vcg, y := s.book.cranes[c.val].pedestalY }

/-- The boom head at which a lot HOOKED on the crane stands (R146). -/
def State.boomHead (s : State) (c : CraneNo) (l : Lot) : Point := (s.craneLive c).boom.getD (s.assumedHead c l)

/-- The contribution of a lot to LIVE by its state (R47). -/
def State.lotLive (s : State) (l : Lot) : SumSet :=
  match l.state with
  | .planned => SumSet.zero
  | .hookedLoading c => pointContribution s.book l.weight (s.boomHead c l)
  | .hookedDischarging c _ => pointContribution s.book l.weight (s.boomHead c l)
  | .stowed _ _ => stowContribution s.book l
  | .ashore _ => SumSet.zero

/-- The contribution of a lot to PLAN by its state (R47). -/
def State.lotPlan (s : State) (l : Lot) : SumSet :=
  match l.state with
  | .planned => stowContribution s.book l
  | .hookedLoading _ => stowContribution s.book l
  | .hookedDischarging _ _ => SumSet.zero
  | .stowed .keep _ => stowContribution s.book l
  | .stowed .discharge _ => SumSet.zero
  | .ashore _ => SumSet.zero

/-- The lot that hangs on a crane, LIFTING or HALTED from LIFTING (R145). -/
def CraneState.hanging : CraneState → Option Nat
  | .lifting h _ => some h
  | .halted .lifting h _ => some h
  | .halted .cleared _ _ => none
  | .idle => none
  | .checking _ _ => none
  | .cleared _ _ => none

/-- The unidentified load a crane carries, with its boom head (R154). -/
def State.unidentified (s : State) (c : CraneNo) : Option (Int × Point) :=
  match (s.craneState c).hanging, (s.craneLive c).hook with
  | none, some r =>
    if (s.craneLive c).freeReading = true ∧ s.craneExists c = true ∧ s.book.cranes[c.val].threshold ≤ (r.load : Int) then
      some (r.load, r.head)
    else none
  | _, _ => none

/-- The contribution of contents over the tank's bulkhead span (R69, R76). -/
def tankContribution (b : Book) (t : TankConstants) (c : Contents) : SumSet :=
  contribution b c.weight c.lcg c.vcg c.tcg t.xAft t.xFore c.fsm

/-- The contribution of a fixed item in force: a point when PRESENT (R75). -/
def fixedContribution (b : Book) (i : FixedItem) : SumSet :=
  if i.presence = .present then pointContribution b i.weight { x := i.x, z := i.z, y := i.y } else SumSet.zero

/-- A contributor that can change (R75). -/
inductive Item where
  | lot (handle : Nat)
  | tank (t : TankNo)
  | fixed (i : Fin 16)
  | hook (c : CraneNo)
deriving DecidableEq, Repr

/-- What an item contributes to LIVE (R75). -/
def State.itemLive (s : State) : Item → SumSet
  | .lot h =>
    match s.kept.lot h with
    | some l => s.lotLive l
    | none => SumSet.zero
  | .tank t =>
    if s.tankExists t then tankContribution s.book (s.tankBook t).consts (s.currentContents t) else SumSet.zero
  | .fixed i => if i.val < s.book.fixedCount then fixedContribution s.book s.kept.fixed[i.val] else SumSet.zero
  | .hook c =>
    match s.unidentified c with
    | some (w, q) => pointContribution s.book w q
    | none => SumSet.zero

/-- What an item contributes to PLAN (R75). -/
def State.itemPlan (s : State) : Item → SumSet
  | .lot h =>
    match s.kept.lot h with
    | some l => s.lotPlan l
    | none => SumSet.zero
  | .tank t =>
    if s.tankExists t then tankContribution s.book (s.tankBook t).consts (s.plannedContents t) else SumSet.zero
  | .fixed i => if i.val < s.book.fixedCount then fixedContribution s.book s.kept.fixed[i.val] else SumSet.zero
  | .hook _ => SumSet.zero

/-- The lightship's contribution: book weight and centres, with the book's weight-aft values (R76). -/
def lightship (h : Hull) : SumSet :=
  { w := h.weight, ml := h.weight * h.lcg, mv := h.weight * h.vcg, mt := h.weight * h.tcg, fsm := 0, wa := h.wa }

/-- Every contributor of the condition besides the lightship (R75). -/
def State.items (s : State) : List Item :=
  s.kept.lots.map (fun e => .lot e.1) ++ (List.finRange 32).map .tank ++ (List.finRange 16).map .fixed ++
  (List.finRange 4).map .hook

/-- The LIVE sums built afresh (R79). -/
def State.builtLive (s : State) : SumSet := (SumSet.total (s.items.map s.itemLive)).add (lightship s.book.hull)

/-- The PLAN sums built afresh (R79). -/
def State.builtPlan (s : State) : SumSet := (SumSet.total (s.items.map s.itemPlan)).add (lightship s.book.hull)

/-- Both sets are built afresh from the condition (R79). -/
def State.buildSums (s : State) : State := { s with vol.live := s.builtLive, vol.plan := s.builtPlan }

/-- A sum set with the old contributions of some items subtracted and their new ones added (R78). -/
def shiftSums (sums : SumSet) (olds news : List SumSet) : SumSet :=
  (sums.sub (SumSet.total olds)).add (SumSet.total news)

/-- The change from `old` to `s` reaches the Accumulator through the items it touches: for each set the old contributions
are subtracted and the new ones added, and a set whose sums change becomes pending (R78, R107). -/
def State.accumulate (s : State) (old : State) (items : List Item) : State :=
  let live := shiftSums s.vol.live (items.map old.itemLive) (items.map s.itemLive)
  let plan := shiftSums s.vol.plan (items.map old.itemPlan) (items.map s.itemPlan)
  { s with
    vol.live := live
    vol.plan := plan
    vol.livePending := s.vol.livePending || decide (live ≠ s.vol.live)
    vol.planPending := s.vol.planPending || decide (plan ≠ s.vol.plan) }

end Sys2Proof.Machine
end

