-- ==== Sys2Proof/Machine/Strength.lean ====
section
/-!
DEFINITION. The strength stage of a pass: buoyancy aft, shear, bending, the percentages of limit and the worst stations
(05, R96 to R106).
-/
namespace Sys2Proof.Machine

/-- The buoyancy aft of a frame station (R97). -/
def buoyancyAft (w bf tf trim : Int) : Int := roundDiv (w * (bf * 1000 + tf * trim)) 1000000000

/-- The shear force at the 21 frame stations (R98). -/
def shearForces (sums : SumSet) (bf tf : Vector Int 21) (trim : Int) : Vector Int 21 :=
  Vector.ofFn fun k => sums.wa[k] - buoyancyAft sums.w bf[k] tf[k] trim

/-- The bending moments forward of a station whose moment is `bm`, by the trapezoid rule (R99). -/
def bendingFrom (bm : Int) : List (Int × Int) → List Int
  | (x0, sf0) :: (x1, sf1) :: rest =>
    let bm' := bm + roundDiv ((sf0 + sf1) * (x1 - x0)) 2
    bm' :: bendingFrom bm' ((x1, sf1) :: rest)
  | _ => []

/-- The bending moment at the frame stations, in 0.1 t·mm, from aft (R99). -/
def bendingMoments (xs sfs : List Int) : List Int := 0 :: bendingFrom 0 (xs.zip sfs)

/-- A bending moment as reported, in t·m (R99). -/
def reportedMoment (bm : Int) : Int := roundDiv bm 10000

/-- A percentage of a limit, held at 999 (R102, R103). -/
def percentOf (z limit : Int) : Nat := min (roundDiv ((z.natAbs : Int) * 100) limit).toNat 999

/-- The shear percentage at a frame station (R102). -/
def shearPercent (m : ConditionMode) (st : FrameStation) (sf : Int) : Nat :=
  match m with
  | .harbour => percentOf sf st.shearHarbour
  | .sea => percentOf sf st.shearSea

/-- The bending percentage at a frame station, from the reported moment (R100, R103). -/
def bendPercent (m : ConditionMode) (st : FrameStation) (bm : Int) : Nat :=
  match m with
  | .harbour => if 0 ≤ bm then percentOf bm st.hogHarbour else percentOf bm st.sagHarbour
  | .sea => if 0 ≤ bm then percentOf bm st.hogSea else percentOf bm st.sagSea

/-- The worst of the stations numbered from `k` on, given the worst so far: the highest percentage, the lowest number
where several share it (R104). -/
def worstFrom : Nat → Nat × Nat → List Nat → Nat × Nat
  | _, best, [] => best
  | k, best, p :: ps => worstFrom (k + 1) (if best.2 < p then (k, p) else best) ps

/-- The worst station and its percentage (R104). -/
def worst : List Nat → Nat × Nat
  | [] => (0, 0)
  | p :: ps => worstFrom 1 (0, p) ps

/-- The strength figures of a pass (R106). -/
structure Strength where
  shear : Nat × Nat
  bend : Nat × Nat
deriving DecidableEq, Repr

/-- The strength stage (R96). -/
def strengthStage (b : Book) (m : ConditionMode) (sums : SumSet) (bf : Vector Int 21) (trim : Int) : Strength :=
  let sfs := (shearForces sums bf b.trim trim).toList
  let stations := b.stations.toList
  let bms := (bendingMoments (stations.map FrameStation.x) sfs).map reportedMoment
  { shear := worst ((stations.zip sfs).map fun (st, sf) => shearPercent m st sf)
    bend := worst ((stations.zip bms).map fun (st, bm) => bendPercent m st bm) }

end Sys2Proof.Machine
end

