-- ==== Sys2Proof/Machine/Flags.lean ====
section
/-!
DEFINITION. The flags of a pass: the stability flags of R83, R87 and R88, the held mark of a tank (R69), the observation
flags of R93, and the flags byte (Table 9-4).
-/
namespace Sys2Proof.Machine

/-- The flags of a pass as one byte, bits 0 to 6 in the order of R116 (Table 9-4). -/
def flagsByte (f : PassFlags) : Nat :=
  f.hydroRange.toNat + 2 * f.crossRange.toNat + 4 * f.listClamp.toNat + 8 * f.gmNonpos.toNat + 16 * f.heldData.toNat +
  32 * f.draftDisagree.toNat + 64 * f.heelDisagree.toNat

/-- The list with its two flags LIST-CLAMP and GM-NONPOS (R87). -/
def listOf (tcg gm : Int) : Int × Bool × Bool :=
  if 0 < gm then
    let raw := roundDiv (tcg * 5730) gm
    if 1500 < raw then (1500, true, false)
    else if raw < -1500 then (-1500, true, false)
    else (raw, false, false)
  else if 0 ≤ tcg then (1500, false, true)
  else (-1500, false, true)

/-- The channel is trusted and fresh: ACTIVE or DOUBTFUL and not STALE (R93). -/
def ChannelView.trusted (c : ChannelView) : Bool :=
  (decide (c.state = .active) || decide (c.state = .doubtful)) && !c.stale

/-- DRAFT-DISAGREE: both draft channels are trusted and the observed mean is further from Tmean than the tolerance (R93). -/
def draftDisagree (b : ChannelsBook) (o : Observation) (tmean : Int) : Bool :=
  o.forward.trusted && o.aft.trusted &&
  (match o.forward.value, o.aft.value with
   | some f, some a => decide (b.draftTolerance < ((roundDiv (f + a) 2 - tmean).natAbs : Int))
   | _, _ => false)

/-- HEEL-DISAGREE: the heel channel is trusted and the observed heel is further from the list than the tolerance (R93). -/
def heelDisagree (b : ChannelsBook) (o : Observation) (list : Int) : Bool :=
  o.heel.trusted &&
  (match o.heel.value with
   | some h => decide (b.heelTolerance < ((h - list).natAbs : Int))
   | none => false)

/-- The condition of a channel holds its tank's value: DISTRUSTED, ISOLATED or STALE (R64, R69). -/
def holds (state : ChannelState) (stale : Bool) : Bool :=
  decide (state = .distrusted) || decide (state = .isolated) || stale

/-- The channel of a tank. -/
def tankChannel (t : TankNo) : ChannelNo := ⟨t.val, by omega⟩

/-- A tank contributes a held value: it exists, its source is GAUGED and its channel's condition holds it (R69). -/
def State.tankHeld (s : State) (t : TankNo) : Bool :=
  s.tankExists t && decide ((s.tank t).source = .gauged) &&
  holds s.kept.channels[(tankChannel t).val].state s.vol.channels[(tankChannel t).val].stale

/-- Some tank contributes a held value (R69). -/
def State.anyHeld (s : State) : Bool := (List.finRange 32).any s.tankHeld

end Sys2Proof.Machine
end

