-- ==== Sys2Proof/Machine/Stability.lean ====
section
/-!
DEFINITION. The stages of a pass: centres, hydrostatics, trim, drafts, list, levers, areas, criteria, observation and
upright moment (04, R80 to R95).
-/
namespace Sys2Proof.Machine

/-- The two rows a table lookup interpolates between, and whether the displacement lies outside the table (R83). -/
structure Lookup (α : Type) where
  lo : α
  hi : α
  out : Bool

/-- The first two adjacent rows A and B with D_A ≤ w ≤ D_B (R83). -/
def rowPair {α : Type} (disp : α → Int) (w : Int) : List α → Option (α × α)
  | a :: b :: rest => if disp a ≤ w ∧ w ≤ disp b then some (a, b) else rowPair disp w (b :: rest)
  | _ => none

/-- The lookup of a displacement in a table: the rows around it, or the end row unchanged with the range flag (R83, R88). -/
def lookupRow {α : Type} [Inhabited α] (disp : α → Int) (rows : List α) (w : Int) : Lookup α :=
  match rows with
  | [] => { lo := default, hi := default, out := true }
  | first :: rest =>
    let last := (first :: rest).getLast (by simp)
    if w < disp first then { lo := first, hi := first, out := true }
    else if disp last < w then { lo := last, hi := last, out := true }
    else match rowPair disp w (first :: rest) with
      | some (a, b) => { lo := a, hi := b, out := false }
      | none => { lo := last, hi := last, out := false }

/-- One quantity at the displacement, interpolated and rounded on its own (R83). -/
def Lookup.value {α : Type} (l : Lookup α) (disp : α → Int) (w : Int) (q : α → Int) : Int :=
  interpolate (q l.lo) (q l.hi) (w - disp l.lo) (disp l.hi - disp l.lo)

/-- The rows of HYDROSTATICS under its count (R4). -/
def Book.hydroRows (b : Book) : List HydroRow := b.hydro.toList.take b.hydroCount

/-- The rows of CROSS-CURVES under its count (R5). -/
def Book.crossRows (b : Book) : List CrossRow := b.cross.toList.take b.crossCount

/-- The last row of HYDROSTATICS under its count (R4). -/
def Book.lastHydro (b : Book) : HydroRow := b.hydroRows.getLastD default

/-- The nine table angles in degrees (R5). -/
def angles : List Int := [0, 5, 10, 15, 20, 30, 40, 50, 60]

/-- sin φ × 10 000 at the table angles (R89). -/
def sines : Vector Int 9 := #v[0, 872, 1736, 2588, 3420, 5000, 6428, 7660, 8660]

/-- cos φ × 10 000 at the table angles (R89). -/
def cosines : Vector Int 9 := #v[10000, 9962, 9848, 9659, 9397, 8660, 7660, 6428, 5000]

/-- The righting levers at the table angles (R89). -/
def levers (kn : Vector Int 9) (kgc tcg : Int) : Vector Int 9 :=
  Vector.ofFn fun k =>
    kn[k] - roundDiv (kgc * sines[k]) 10000 - roundDiv ((tcg.natAbs : Int) * cosines[k]) 10000

/-- The exact trapezoid sum over adjacent table angles (R90). -/
def trapezoid : List (Int × Int) → Int
  | (a0, g0) :: (a1, g1) :: rest => (g0 + g1) * (a1 - a0) + trapezoid ((a1, g1) :: rest)
  | _ => 0

/-- The area, in mm·rad, of an exact trapezoid sum (R90). -/
def areaOf (sum : Int) : Int := roundDiv (sum * 8727) 1000000

/-- The area under the levers from table angle number `i` to table angle number `j` (R90). -/
def areaBetween (gz : Vector Int 9) (i j : Nat) : Int :=
  areaOf (trapezoid (((angles.zip gz.toList).take (j + 1)).drop i))

/-- The angle of the largest lever, the smallest angle where several share it, given the best so far (R91). -/
def maxAngleFrom : Int × Int → List (Int × Int) → Int × Int
  | best, [] => best
  | best, (a, g) :: rest => maxAngleFrom (if best.2 < g then (a, g) else best) rest

/-- The angle of maximum GZ, in centidegrees (R91). -/
def maxAngle (gz : Vector Int 9) : Int :=
  match angles.zip gz.toList with
  | [] => 0
  | first :: rest => 100 * (maxAngleFrom first rest).1

/-- The upright moment, in t·m (R94). -/
def uprightMoment (mt : Int) : Int := roundDiv (-mt) 10000

/-- Which criteria fail, when each that the book enables is tested: entry n is Cn (R92, R105). -/
def criteriaFails (b : Book) (notEstablished : Bool) (w tmean gm list : Int) (gz : Vector Int 9)
    (area30 area40 area3040 angle : Int) (st : Strength) : Vector Bool 12 :=
  let c := b.criteria
  let tests : Vector Bool 12 :=
    #v[notEstablished,
       !decide (c.gmMin ≤ gm),
       !decide (c.area30 ≤ area30),
       !decide (c.area40 ≤ area40),
       !decide (c.area3040 ≤ area3040),
       !decide (c.gz30 ≤ gz[5]),
       !decide (c.maxAngle ≤ angle),
       !decide ((list.natAbs : Int) ≤ c.listMax),
       !decide (st.shear.2 ≤ 100),
       !decide (st.bend.2 ≤ 100),
       !decide (tmean ≤ c.draftMax),
       !decide (w ≤ b.lastHydro.disp)]
  Vector.ofFn fun k => decide (c.enable[k] ≠ 0) && tests[k]

/-- The figures of a pass over a snapshot, stage by stage (R81). -/
def evaluate (b : Book) (snap : Snapshot) : Figures :=
  let sums := snap.sums
  let w := sums.w
  let lcg := roundDiv sums.ml w
  let vcg := roundDiv sums.mv w
  let tcg := roundDiv sums.mt w
  let fsc := roundDiv (sums.fsm * 1000) w
  let kgc := vcg + fsc
  let hydro := lookupRow HydroRow.disp b.hydroRows w
  let at' := hydro.value HydroRow.disp w
  let lcb := at' HydroRow.lcb
  let lcf := at' HydroRow.lcf
  let mctc := at' HydroRow.mctc
  let bf : Vector Int 21 := Vector.ofFn fun k => at' fun r => r.bf[k]
  let gm := at' HydroRow.kmt - kgc
  let trim := roundDiv (w * (lcb - lcg)) (100 * mctc)
  let ta := at' HydroRow.tlcf + roundDiv (trim * lcf) b.hull.lbp
  let tf := ta - trim
  let tmean := roundDiv (ta + tf) 2
  let list := listOf tcg gm
  let cross := lookupRow CrossRow.disp b.crossRows w
  let kn : Vector Int 9 := Vector.ofFn fun k => cross.value CrossRow.disp w fun r => r.kn[k]
  let gz := levers kn kgc tcg
  let area30 := areaBetween gz 0 5
  let area3040 := areaBetween gz 5 6
  let area40 := areaBetween gz 0 6
  let angle := maxAngle gz
  let st := strengthStage b snap.mode sums bf trim
  { w := w, ta := ta, tf := tf, tmean := tmean, trim := trim, list := list.1, kgc := kgc, fsc := fsc, gm := gm, gz := gz
    area30 := area30, area3040 := area3040, area40 := area40, angle := angle
    shearStation := st.shear.1, shearPercent := st.shear.2, bendStation := st.bend.1, bendPercent := st.bend.2
    fails := criteriaFails b snap.notEstablished w tmean gm list.1 gz area30 area40 area3040 angle st
    flags :=
      { hydroRange := hydro.out, crossRange := cross.out, listClamp := list.2.1, gmNonpos := list.2.2
        heldData := match snap.observed with
          | some o => o.held
          | none => false
        draftDisagree := match snap.observed with
          | some o => draftDisagree b.channels o tmean
          | none => false
        heelDisagree := match snap.observed with
          | some o => heelDisagree b.channels o list.1
          | none => false }
    upright := uprightMoment sums.mt }

/-- The overall result is NON-COMPLIANT: some criterion fails (R92). -/
def Figures.failing (f : Figures) : Bool := f.fails.any id

end Sys2Proof.Machine
end

