-- ==== Sys2Proof/Machine/Stowage.lean ====
section
/-!
DEFINITION. The Stowage Table: space weights, the constraint check, what each amendment and crane event does to the lot
records and lists, and the applied change as one operation (02).
-/
namespace Sys2Proof.Machine

/-! ### Field ranges (R21) -/

/-- A handle number is 0 to 1023 (R21). -/
def handleOk (h : Nat) : Bool := decide (h < Config.handles)

/-- A longitudinal position lies within -20 000 to LBP + 20 000 (R21). -/
def xOk (b : Book) (x : Int) : Bool := within (-20000) (b.hull.lbp + 20000) x

/-- A stow position holds a ≤ f with every field in its range (R21). -/
def positionOk (b : Book) (q : Position) : Bool :=
  decide (q.a ≤ q.f) && xOk b q.a && xOk b q.f && within 0 80000 q.vcg && within (-40000) 40000 q.tcg

/-- A lot weight is 1 to 60 000 (R21). -/
def weightOk (w : Int) : Bool := within 1 60000 w

/-- A stow space number is not above 47 (R21). -/
def spaceOk (space : Nat) : Bool := decide (space < 48)

/-- An amendment's fields lie in the ranges of R21 (R127). -/
def amendmentOk (b : Book) : Amendment → Bool
  | .planLoad mark weight space pos hazard =>
    decide (1 ≤ mark.length) && decide (mark.length ≤ 16) && weightOk weight && spaceOk space && positionOk b pos &&
    (match hazard with
     | none => true
     | some n => decide (1 ≤ n) && decide (n ≤ 9))
  | .planShift handle space pos => handleOk handle && spaceOk space && positionOk b pos
  | .planCancel handle => handleOk handle
  | .markDischarge handle => handleOk handle
  | .unmark handle => handleOk handle
  | .directStow handle => handleOk handle
  | .restow handle space pos => handleOk handle && spaceOk space && positionOk b pos
  | .directRemove handle => handleOk handle
  | .correctWeight handle weight => handleOk handle && weightOk weight

end Sys2Proof.Machine

namespace Sys2Proof

open Sys2Proof.Machine

/-! ### Amendments (R127) -/

/-- The handle an amendment names; PLAN-LOAD names none. -/
def Amendment.handle : Amendment → Option Nat
  | .planLoad _ _ _ _ _ => none
  | .planShift h _ _ => some h
  | .planCancel h => some h
  | .markDischarge h => some h
  | .unmark h => some h
  | .directStow h => some h
  | .restow h _ _ => some h
  | .directRemove h => some h
  | .correctWeight h _ => some h

/-- The stow space an amendment carries. -/
def Amendment.carried : Amendment → Option Nat
  | .planLoad _ _ space _ _ => some space
  | .planShift _ space _ => some space
  | .restow _ space _ => some space
  | .planCancel _ => none
  | .markDischarge _ => none
  | .unmark _ => none
  | .directStow _ => none
  | .directRemove _ => none
  | .correctWeight _ _ => none

/-- The class of an amendment: live, or plan-only (R127). -/
def Amendment.isLive : Amendment → Bool
  | .directStow _ => true
  | .restow _ _ _ => true
  | .directRemove _ => true
  | .correctWeight _ _ => true
  | .planLoad _ _ _ _ _ => false
  | .planShift _ _ _ => false
  | .planCancel _ => false
  | .markDischarge _ => false
  | .unmark _ => false

/-- The Journal kind of an amendment (R140). -/
def Amendment.journalKind : Amendment → JournalKind
  | .planLoad _ _ _ _ _ => .planLoad
  | .planShift _ _ _ => .planShift
  | .planCancel _ => .planCancel
  | .markDischarge _ => .markDischarge
  | .unmark _ => .unmark
  | .directStow _ => .directStow
  | .restow _ _ _ => .restow
  | .directRemove _ => .directRemove
  | .correctWeight _ _ => .correctWeight

/-- The states that step 2 of the constraint check allows an amendment's lot (Table 2-3). -/
def Amendment.allows (am : Amendment) (st : LotState) : Bool :=
  match am, st with
  | .planShift _ _ _, .planned => true
  | .planCancel _, .planned => true
  | .markDischarge _, .stowed .keep _ => true
  | .unmark _, .stowed .discharge _ => true
  | .directStow _, .planned => true
  | .restow _ _ _, .stowed _ _ => true
  | .directRemove _, .stowed _ _ => true
  | .correctWeight _ _, .planned => true
  | .correctWeight _ _, .stowed _ _ => true
  | _, _ => false

/-- A lot record after an amendment of an allowed kind (R28 to R33), but for its last origin. -/
def Amendment.after (am : Amendment) (now : Clock) (l : Lot) : Lot :=
  match am, l.state with
  | .planShift _ space pos, _ => { l with space := space, pos := pos }
  | .markDischarge _, .stowed _ t => { l with state := .stowed .discharge t }
  | .unmark _, .stowed _ t => { l with state := .stowed .keep t }
  | .directStow _, _ => { l with state := .stowed .keep now }
  | .restow _ space pos, .stowed i _ => { l with space := space, pos := pos, state := .stowed i now }
  | .directRemove _, _ => { l with state := .ashore now }
  | .correctWeight _ w, _ => { l with verified := some w }
  | _, _ => l

end Sys2Proof

namespace Sys2Proof.Machine

/-- The lot an amendment names, where its handle is not free. -/
def State.amendLot (s : State) (am : Amendment) : Option Lot := am.handle.bind s.kept.lot

/-- The space of an amendment: the one carried, otherwise the lot's stow space (R127). -/
def State.amendSpace (s : State) (am : Amendment) : Option Nat :=
  match am.carried with
  | some space => some space
  | none => (s.amendLot am).map Lot.space

/-! ### Space weights (R41) -/

/-- The sum of the contributing weights of the lots that pass a test. -/
def weightOf (lots : List (Nat × Lot)) (test : Lot → Bool) : Int :=
  ((lots.filter fun e => test e.2).map fun e => e.2.weight).sum

/-- A lot counts in its space's LIVE weight: STOWED or HOOKED (DISCHARGING) (R41). -/
def LotState.inLive : LotState → Bool
  | .stowed _ _ => true
  | .hookedDischarging _ _ => true
  | .planned => false
  | .hookedLoading _ => false
  | .ashore _ => false

/-- A lot counts in its space's PLAN weight: STOWED with intent KEEP, HOOKED (LOADING) or PLANNED (R41). -/
def LotState.inPlan : LotState → Bool
  | .stowed .keep _ => true
  | .stowed .discharge _ => false
  | .hookedDischarging _ _ => false
  | .planned => true
  | .hookedLoading _ => true
  | .ashore _ => false

/-- A lot is in PLANNED, HOOKED or STOWED (R41, R45). -/
def LotState.aboard : LotState → Bool
  | .ashore _ => false
  | .planned => true
  | .hookedLoading _ => true
  | .hookedDischarging _ _ => true
  | .stowed _ _ => true

/-- The LIVE weight of a space (R41). -/
def State.liveWeight (s : State) (space : Nat) : Int :=
  weightOf s.kept.lots fun l => decide (l.space = space) && l.state.inLive

/-- The PLAN weight of a space (R41). -/
def State.planWeight (s : State) (space : Nat) : Int :=
  weightOf s.kept.lots fun l => decide (l.space = space) && l.state.inPlan

/-- The lot count of a space (R41). -/
def State.lotCount (s : State) (space : Nat) : Nat :=
  (s.kept.lots.filter fun e => decide (e.2.space = space) && e.2.state.aboard).length

/-! ### The constraint check (R42 to R46) -/

/-- A refusal of the constraint check: its code and its value (R42). -/
abbrev Refused := Status × RefValue

/-- The lot a crane in CHECKING, CLEARED or HALTED from CLEARED reserves (R42, R145). -/
def CraneState.reserves : CraneState → Option Nat
  | .checking h _ => some h
  | .cleared h _ => some h
  | .halted .cleared h _ => some h
  | .halted .lifting _ _ => none
  | .idle => none
  | .lifting _ _ => none

/-- A crane other than the excepted one reserves the lot (R42). -/
def State.reserved (s : State) (h : Nat) (except : Option CraneNo) : Bool :=
  (List.finRange 4).any fun c => decide (some c ≠ except) && decide ((s.craneState c).reserves = some h)

/-- Step 1: the handle named is not free. -/
def State.step1 (s : State) (h : Nat) : Option Refused :=
  if (s.kept.lot h).isNone then some (.unknownLot, .handle h) else none

/-- Step 2: the lot is in an allowed state and not reserved. -/
def State.step2 (s : State) (h : Nat) (allowed : Bool) (except : Option CraneNo) : Option Refused :=
  if allowed = true ∧ s.reserved h except = false then none else some (.wrongState, .handle h)

/-- A position lies within a space's bounds, each end included (R44). -/
def inBounds (b : Space) (q : Position) : Bool :=
  decide (b.xAft ≤ q.a) && decide (q.f ≤ b.xFore) && within b.zFloor b.zCeiling q.vcg && within b.yPort b.yStarboard q.tcg

/-- Step 3: the destination exists and the position lies within its bounds (R44). -/
def State.step3 (s : State) (space : Nat) (q : Position) : Option Refused :=
  match s.spaceBook space with
  | none => some (.outOfSpace, .space space)
  | some b => if inBounds b q then none else some (.outOfSpace, .space space)

/-- Step 4: the tested weight after the change does not exceed the maximum, or the change adds no weight (R44). -/
def State.step4 (s : State) (space : Nat) (before after : Int) : Option Refused :=
  match s.spaceBook space with
  | none => none
  | some b => if b.maxWeight < after ∧ before < after then some (.spaceOverweight, .space space) else none

/-- Hold groups G and H are adjacent (R11). -/
def adjacent (g h : Nat) : Bool := decide (g + 1 = h) || decide (h + 1 = g)

/-- The segregation value of two hazard classes 1 to 9 (R11). -/
def Book.segregationOf (b : Book) (i j : Nat) : Nat := (b.segregation[(i - 1) * 9 + (j - 1)]?).getD 0

/-- The relation of two lots is forbidden: value, the two spaces and the two hold groups (R45). -/
def forbidden (value space space' g g' : Nat) : Bool :=
  match value with
  | 0 => false
  | 1 => decide (space = space')
  | 2 => decide (g = g')
  | _ => decide (g = g') || adjacent g g'

/-- Step 5: no other lot with a hazard class stands in a forbidden relation; the lowest handle that does is the value (R45). -/
def State.step5 (s : State) (self : Option Nat) (hazard : Option Nat) (space : Nat) : Option Refused :=
  match hazard with
  | none => none
  | some i =>
    let clash := s.kept.lots.find? fun e =>
      decide (some e.1 ≠ self) && e.2.state.aboard &&
      (match e.2.hazard with
       | none => false
       | some j => forbidden (s.book.segregationOf i j) space e.2.space (s.groupOf space) (s.groupOf e.2.space))
    clash.map fun e => (.segregation, .handle e.1)

/-- The lot is STOWED. -/
def LotState.isStowed : LotState → Bool
  | .stowed _ _ => true
  | .planned => false
  | .hookedLoading _ => false
  | .hookedDischarging _ _ => false
  | .ashore _ => false

/-- Two spans overlap; spans that meet end to end do not (R46). -/
def overlaps (p q : Position) : Bool := decide (p.a < q.f) && decide (q.a < p.f)

/-- A handle's lot is STOWED and, where a span is given, overlaps it. -/
def State.stowedOver (s : State) (span : Option Position) (h : Nat) : Bool :=
  match s.kept.lot h with
  | none => false
  | some l =>
    l.state.isStowed &&
    (match span with
     | none => true
     | some q => overlaps q l.pos)

/-- The kind of a space that exists (R6). -/
def State.kindOf (s : State) (space : Nat) : Option SpaceKind := (s.spaceBook space).map fun b => spaceKindOf b.kind

/-- What overstows a lot: the first overlapping later STOWED lot of its list, or the lowest-numbered hatch cover of its
hold group whose list holds a STOWED lot (R46). -/
def State.overstowing (s : State) (h : Nat) : Option RefValue :=
  match s.kept.lot h with
  | none => none
  | some l =>
    if s.kindOf l.space = some .hold ∨ s.kindOf l.space = some .tweendeck then
      let later := ((s.kept.stowList l.space).dropWhile fun j => decide (j ≠ h)).drop 1
      match later.find? (s.stowedOver (some l.pos)) with
      | some j => some (.handle j)
      | none =>
        let cover := (List.range 48).find? fun n =>
          decide (s.kindOf n = some .hatchcover) && decide (s.groupOf n = s.groupOf l.space) &&
          (s.kept.stowList n).any (s.stowedOver none)
        cover.map .space
    else none

/-- Step 6: the lot is not overstowed (R46). -/
def State.step6 (s : State) (h : Nat) : Option Refused := (s.overstowing h).map fun v => (.overstowed, v)

/-- Step 7: a handle is free or can be freed (R24). -/
def State.step7 (s : State) : Option Refused :=
  if Config.handles ≤ lowestFree s.kept.lots 0 ∧ s.kept.ashore = [] then some (.tableFull, .handle 0) else none

/-- The first step that fails (R42). -/
def firstRefusal (steps : List (Option Refused)) : Option Refused := steps.findSome? id

/-- The constraint check of an amendment against the table as it stands (R42, Table 2-3). -/
def State.checkAmendment (s : State) (am : Amendment) : Option Refused :=
  match am with
  | .planLoad _ weight space pos hazard =>
    firstRefusal [s.step3 space pos, s.step4 space (s.planWeight space) (s.planWeight space + weight),
      s.step5 none hazard space, s.step7]
  | .planShift h space pos =>
    match s.kept.lot h with
    | none => some (.unknownLot, .handle h)
    | some l =>
      let added := if l.space = space then 0 else l.weight
      firstRefusal [s.step2 h (am.allows l.state) none, s.step3 space pos,
        s.step4 space (s.planWeight space) (s.planWeight space + added), s.step5 (some h) l.hazard space]
  | .planCancel h =>
    match s.kept.lot h with
    | none => some (.unknownLot, .handle h)
    | some l => s.step2 h (am.allows l.state) none
  | .markDischarge h =>
    match s.kept.lot h with
    | none => some (.unknownLot, .handle h)
    | some l => s.step2 h (am.allows l.state) none
  | .unmark h =>
    match s.kept.lot h with
    | none => some (.unknownLot, .handle h)
    | some l =>
      firstRefusal [s.step2 h (am.allows l.state) none,
        s.step4 l.space (s.planWeight l.space) (s.planWeight l.space + l.weight)]
  | .directStow h =>
    match s.kept.lot h with
    | none => some (.unknownLot, .handle h)
    | some l =>
      firstRefusal [s.step2 h (am.allows l.state) none, s.step3 l.space l.pos,
        s.step4 l.space (s.liveWeight l.space) (s.liveWeight l.space + l.weight), s.step5 (some h) l.hazard l.space]
  | .restow h space pos =>
    match s.kept.lot h with
    | none => some (.unknownLot, .handle h)
    | some l =>
      let added := if l.space = space then 0 else l.weight
      firstRefusal [s.step2 h (am.allows l.state) none, s.step3 space pos,
        s.step4 space (s.liveWeight space) (s.liveWeight space + added), s.step5 (some h) l.hazard space]
  | .directRemove h =>
    match s.kept.lot h with
    | none => some (.unknownLot, .handle h)
    | some l => firstRefusal [s.step2 h (am.allows l.state) none, s.step6 h]
  | .correctWeight h weight =>
    match s.kept.lot h with
    | none => some (.unknownLot, .handle h)
    | some l =>
      let tested := if l.state = .planned then s.planWeight l.space else s.liveWeight l.space
      firstRefusal [s.step2 h (am.allows l.state) none, s.step4 l.space tested (tested - l.weight + weight)]

/-- The state of a lot that a clearance requires by its direction (R147). -/
def clearanceAllows (dir : Direction) (st : LotState) : Bool :=
  match dir with
  | .loading => decide (st = .planned)
  | .discharging => st.isStowed

/-- The constraint check of a clearance; the crane's own reservation does not count (R42, R147). -/
def State.checkClearance (s : State) (c : CraneNo) (h : Nat) (dir : Direction) : Option Refused :=
  match s.kept.lot h with
  | none => some (.unknownLot, .handle h)
  | some l =>
    match dir with
    | .loading =>
      firstRefusal [s.step2 h (clearanceAllows dir l.state) (some c), s.step3 l.space l.pos,
        s.step4 l.space (s.liveWeight l.space) (s.liveWeight l.space + l.weight), s.step5 (some h) l.hazard l.space]
    | .discharging => firstRefusal [s.step2 h (clearanceAllows dir l.state) (some c), s.step6 h]

/-! ### The applied change (R37) -/

/-- What a Journal entry records of a change, but for its generation (R140). -/
structure ChangeRecord where
  kind : JournalKind
  handle : Option Nat
  space : Option Nat
  item : Option Nat
  port : Port
  role : Role
  overridden : Bool
deriving DecidableEq, Repr

/-- The condition with the generation advanced by one and the entry appended; the ring keeps the newest 64 (R139, R140). -/
def Kept.record (k : Kept) (r : ChangeRecord) : Kept :=
  let e : JournalEntry :=
    { generation := k.generation + 1, kind := r.kind, handle := r.handle, space := r.space, item := r.item, port := r.port,
      role := r.role, overridden := r.overridden }
  let j := k.journal ++ [e]
  { k with generation := k.generation + 1, journal := j.drop (j.length - Config.journalCapacity) }

/-- A change of the table, already made from `old` to `s`, is applied as one operation: the sums and pending marks, the
generation and the Journal entry, and the links on the affected spaces (R37, R136). -/
def State.applied (s old : State) (r : ChangeRecord) (affected : List Nat) (items : List Item) : State :=
  let s1 := s.accumulate old items
  (s1.setKept (s1.kept.record r)).breakLinks fun l => affected.contains l.target

/-- The lot with the origin of its last change (R37). -/
def Lot.from (l : Lot) (p : Port) (role : Role) : Lot := { l with originPort := p, originRole := role }

/-- The handle a PLAN-LOAD takes, and the condition in which it is free: the lowest free handle, or else that of the
oldest ASHORE lot, which is freed (R24). -/
def Kept.takeHandle (k : Kept) : Nat × Kept :=
  let n := lowestFree k.lots 0
  if n < Config.handles then (n, k)
  else match k.ashore with
    | [] => (0, k)
    | h :: rest => (h, { k.freeLot h with ashore := rest })

/-- The handle an amendment acts on (R37). -/
def State.amendTarget (s : State) (am : Amendment) : Nat := am.handle.getD s.kept.takeHandle.1

/-- The condition after an amendment that the constraint check has passed (R27 to R33). -/
def State.amendKept (s : State) (am : Amendment) (p : Port) (role : Role) : Kept :=
  let k := s.kept
  match am with
  | .planLoad mark weight space pos hazard =>
    let (h, k1) := k.takeHandle
    k1.putLot h
      { mark := mark, state := .planned, declared := weight, verified := none, space := space, pos := pos,
        hazard := hazard, originPort := p, originRole := role }
  | .planCancel h => k.freeLot h
  | .directStow h =>
    match k.lot h with
    | none => k
    | some l => (k.putLot h ((am.after s.clock l).from p role)).stowAppend l.space h
  | .restow h space _ =>
    match k.lot h with
    | none => k
    | some l => ((k.putLot h ((am.after s.clock l).from p role)).stowRemove l.space h).stowAppend space h
  | .directRemove h =>
    match k.lot h with
    | none => k
    | some l =>
      let k1 := (k.putLot h ((am.after s.clock l).from p role)).stowRemove l.space h
      { k1 with ashore := k1.ashore ++ [h] }
  | .planShift h _ _ | .markDischarge h | .unmark h | .correctWeight h _ =>
    match k.lot h with
    | none => k
    | some l => k.putLot h ((am.after s.clock l).from p role)

/-- The spaces that the lot of a handle occupies before and after a change (R37). -/
def spacesOf (old new : Kept) (h : Nat) : List Nat :=
  ((old.lot h).map Lot.space).toList ++ ((new.lot h).map Lot.space).toList

/-- An amendment is applied as one operation (R37). -/
def State.applyAmendment (s : State) (am : Amendment) (p : Port) (role : Role) (overridden : Bool) : State :=
  let h := s.amendTarget am
  let s1 := s.setKept (s.amendKept am p role)
  s1.applied s
    { kind := am.journalKind, handle := some h, space := s.amendSpace am, item := none, port := p, role := role,
      overridden := overridden }
    (spacesOf s.kept s1.kept h) [.lot h]

/-- A LOT-MOVES event (Table 10-1). -/
def lotMoves (sub : Nat) (role : Role) (group : Nat) : TallyEvent :=
  { cls := .lotMoves, sub := sub, role := some role, group := some group, amount := 1 }

/-- A TONNAGE event with its amount (R178). -/
def tonnage (sub : Nat) (role : Role) (group : Nat) (weight : Int) : TallyEvent :=
  { cls := .tonnage, sub := sub, role := some role, group := some group, amount := weight.toNat }

/-- The tally events of an applied amendment (R37, R178). -/
def State.amendEvents (s : State) (am : Amendment) (role : Role) : List TallyEvent :=
  match am, s.amendLot am with
  | .directStow _, some l =>
    [lotMoves 4 role (s.groupOf l.space), tonnage 0 role (s.groupOf l.space) l.weight]
  | .directRemove _, some l =>
    [lotMoves 5 role (s.groupOf l.space), tonnage 1 role (s.groupOf l.space) l.weight]
  | _, _ => []

end Sys2Proof.Machine
end

