-- ==== Sys2Proof/Machine/BookChecks.lean ====
section
/-!
DEFINITION. The checks of BOOK-ACCEPT, section by section in the order in which R3 to R12 give them (R2, R18), and the
emptied condition (R19).
-/
namespace Sys2Proof.Machine

/-- A failed check: section, entry and check code (R18). -/
abbrev BookFault := Nat × Nat × CheckCode

/-- The first check of an entry that fails. -/
def entryFault (sect entry : Nat) (checks : List (Bool × CheckCode)) : Option BookFault :=
  (checks.find? fun c => !c.1).map fun c => (sect, entry, c.2)

/-- The first fault of several entries. -/
def firstFault (faults : List (Option BookFault)) : Option BookFault := faults.findSome? id

/-- A range check (R2). -/
def ranged (lo hi z : Int) : Bool × CheckCode := (within lo hi z, .range)

/-- A count check, as the only check of entry 0 (R2). -/
def countFault (sect lo hi n : Nat) : Option BookFault :=
  entryFault sect 0 [(decide (lo ≤ n) && decide (n ≤ hi), .count)]

/-- A sequence that never falls. -/
def nondecreasing : List Int → Bool
  | a :: b :: rest => decide (a ≤ b) && nondecreasing (b :: rest)
  | _ => true

/-- A longitudinal position within -20 000 to LBP + 20 000 (R3, R6, R7, R9, R12). -/
def rangedX (lbp x : Int) : Bool × CheckCode := ranged (-20000) (lbp + 20000) x

/-- A set-or-clear byte holds 0 or 1 (R2, Table 9-4). -/
def rangedFlag (n : Nat) : Bool × CheckCode := (decide (n ≤ 1), .range)

/-- Each record of a list with the number of its place, from `k` on, and the record before it. -/
def withPrevious {α : Type} : Nat → Option α → List α → List (Nat × Option α × α)
  | _, _, [] => []
  | k, prev, a :: rest => (k, prev, a) :: withPrevious (k + 1) (some a) rest

/-- The value of a record is above, or not below, that of the record before it. -/
def risesFrom {α : Type} (rel : Int → Int → Bool) (value : α → Int) (prev : Option α) (a : α) : Bool :=
  match prev with
  | none => true
  | some b => rel (value b) (value a)

/-- Strictly ascending. -/
def below (a b : Int) : Bool := decide (a < b)

/-- Non-decreasing. -/
def atMost (a b : Int) : Bool := decide (a ≤ b)

/-- Section 1, HULL (R3). -/
def Hull.fault (h : Hull) : Option BookFault :=
  entryFault 1 0
    [ranged 20000 400000 h.lbp, ranged 1 2000000 h.weight, ranged 0 h.lbp h.lcg, ranged 1 50000 h.vcg,
     ranged (-2000) 2000 h.tcg, (nondecreasing h.wa.toList, .order), (decide (h.wa[0] = 0), .relation),
     (decide (h.wa[20] = h.weight), .relation)]

/-- One row of section 2, HYDROSTATICS (R4). -/
def HydroRow.fault (lbp : Int) (e : Nat × Option HydroRow × HydroRow) : Option BookFault :=
  let (k, prev, r) := e
  entryFault 2 (k + 1)
    [ranged 1 2000000 r.disp, (risesFrom below HydroRow.disp prev r, .order),
     ranged 1 30000 r.tlcf, (risesFrom atMost HydroRow.tlcf prev r, .order),
     ranged 1 60000 r.kmt, ranged 0 lbp r.lcb, ranged 0 lbp r.lcf, ranged 1 1000000 r.mctc, ranged 1 100000 r.tpc,
     (r.bf.toList.all (within 0 1000000), .range), (nondecreasing r.bf.toList, .order),
     (decide (r.bf[0] = 0), .relation), (decide (r.bf[20] = 1000000), .relation)]

/-- Section 2, HYDROSTATICS: the count, then the rows (R4, R18). -/
def Book.hydroFault (b : Book) : Option BookFault :=
  firstFault (countFault 2 2 64 b.hydroCount ::
    (withPrevious 0 none (b.hydro.toList.take b.hydroCount)).map (HydroRow.fault b.hull.lbp))

/-- Section 3, TRIM-BUOYANCY (R3): the range of all 21 coefficients, then the two relations (log entry 25). -/
def Book.trimFault (b : Book) : Option BookFault :=
  entryFault 3 0
    [(b.trim.toList.all (within (-200000) 200000), .range), (decide (b.trim[0] = 0), .relation),
     (decide (b.trim[20] = 0), .relation)]

/-- One row of section 4, CROSS-CURVES (R5). -/
def CrossRow.fault (e : Nat × Option CrossRow × CrossRow) : Option BookFault :=
  let (k, prev, r) := e
  entryFault 4 (k + 1)
    [ranged 1 2000000 r.disp, (risesFrom below CrossRow.disp prev r, .order), (decide (r.kn[0] = 0), .relation),
     ((r.kn.toList.drop 1).all (within 0 30000), .range)]

/-- Section 4, CROSS-CURVES: the count, then the rows (R5, R18). -/
def Book.crossFault (b : Book) : Option BookFault :=
  firstFault (countFault 4 2 32 b.crossCount ::
    (withPrevious 0 none (b.cross.toList.take b.crossCount)).map CrossRow.fault)

/-- One record of section 5, FRAME-STATIONS (R3). -/
def FrameStation.fault (lbp : Int) (e : Nat × Option FrameStation × FrameStation) : Option BookFault :=
  let (k, prev, r) := e
  entryFault 5 k
    [rangedX lbp r.x, (risesFrom below FrameStation.x prev r, .order), ranged 1 2000000 r.shearHarbour,
     ranged 1 2000000 r.shearSea, ranged 1 10000000 r.hogHarbour, ranged 1 10000000 r.sagHarbour,
     ranged 1 10000000 r.hogSea, ranged 1 10000000 r.sagSea]

/-- Section 5, FRAME-STATIONS (R3). -/
def Book.stationFault (b : Book) : Option BookFault :=
  firstFault ((withPrevious 0 none b.stations.toList).map (FrameStation.fault b.hull.lbp))

/-- One record of section 6, STOW-SPACES (R6). -/
def Space.fault (lbp : Int) (e : Nat × Option Space × Space) : Option BookFault :=
  let (k, _, r) := e
  entryFault 6 (k + 1)
    [(decide (1 ≤ r.group) && decide (r.group ≤ 6), .range), (decide (r.kind ≤ 3), .range),
     rangedX lbp r.xAft, rangedX lbp r.xFore, (below r.xAft r.xFore, .order),
     ranged 0 80000 r.zFloor, ranged 0 80000 r.zCeiling, (below r.zFloor r.zCeiling, .order),
     ranged (-40000) 40000 r.yPort, ranged (-40000) 40000 r.yStarboard, (below r.yPort r.yStarboard, .order),
     ranged 1 2000000 r.maxWeight]

/-- Section 6, STOW-SPACES: the count, then the spaces (R6, R18). -/
def Book.spaceFault (b : Book) : Option BookFault :=
  firstFault (countFault 6 1 48 b.spaceCount ::
    (withPrevious 0 none (b.spaces.toList.take b.spaceCount)).map (Space.fault b.hull.lbp))

/-- A tank's entry of constants (R7). -/
def TankConstants.fault (lbp : Int) (entry : Nat) (c : TankConstants) : Option BookFault :=
  entryFault 7 entry
    [rangedX lbp c.xAft, rangedX lbp c.xFore, (below c.xAft c.xFore, .order), ranged 1 30000 c.depth,
     ranged 1 500000 c.capacity, ranged 6000 20000 c.refDensity, ranged 6000 20000 c.defDensity, ranged 1 1000 c.rate,
     ranged 0 2000 c.margin, ranged 1 600 c.freshness, (decide (2 ≤ c.points) && decide (c.points ≤ 24), .count)]

/-- A tank's sounding point (R7). -/
def SoundingPoint.fault (c : TankConstants) (base : Nat) (e : Nat × Option SoundingPoint × SoundingPoint) :
    Option BookFault :=
  let (k, prev, r) := e
  entryFault 7 (base + 1 + k)
    [ranged 0 c.depth r.sounding, (risesFrom below SoundingPoint.sounding prev r, .order),
     ranged 0 c.capacity r.volume, (risesFrom atMost SoundingPoint.volume prev r, .order),
     (within c.xAft c.xFore r.lcg, .relation), ranged 0 80000 r.vcg, ranged (-40000) 40000 r.tcg,
     ranged 0 10000000 r.fsm]

/-- A tank's constants and the points under its point count (R7). -/
def TankBook.fault (lbp : Int) (e : Nat × Option TankBook × TankBook) : Option BookFault :=
  let (k, _, t) := e
  let base := 25 * k + 1
  firstFault (t.consts.fault lbp base ::
    (withPrevious 0 none (t.points.toList.take t.consts.points)).map (SoundingPoint.fault t.consts base))

/-- Section 7, TANKS: the count, then the tanks (R7, R18). -/
def Book.tankFault (b : Book) : Option BookFault :=
  firstFault (countFault 7 0 32 b.tankCount ::
    (withPrevious 0 none (b.tanks.toList.take b.tankCount)).map (TankBook.fault b.hull.lbp))

/-- Section 8, CHANNELS (R8). -/
def ChannelsBook.fault (c : ChannelsBook) : Option BookFault :=
  entryFault 8 0
    [ranged 1 600 c.draftFresh, ranged 1 600 c.heelFresh, ranged 1 2000 c.draftTolerance,
     ranged 1 1500 c.heelTolerance, (c.modes.toList.all fun m => decide (m ≤ 2), .range)]

/-- One record of section 9, CRANES (R9). A bit above hold group 6 in the reach mask is RANGE (log entry 10). -/
def CraneBook.fault (lbp : Int) (e : Nat × Option CraneBook × CraneBook) : Option BookFault :=
  let (k, _, r) := e
  entryFault 9 (k + 1)
    [ranged 1 60000 r.swl, (decide (r.reach < 64), .range), (decide (r.reach ≠ 0), .relation), rangedX lbp r.pedestalX,
     ranged (-40000) 40000 r.pedestalY, ranged 1 60000 r.outreach, ranged 200 5000 r.freshness,
     ranged 1 1500 r.heelLimit, (decide (0 ≤ r.hysteresis), .range), (below r.hysteresis r.heelLimit, .relation),
     ranged 0 10000 r.gmMin, ranged 0 1000 r.tolerance, (decide (1 ≤ r.threshold), .range),
     (atMost r.threshold r.swl, .relation)]

/-- Section 9, CRANES: the count, then the cranes (R9, R18). -/
def Book.craneFault (b : Book) : Option BookFault :=
  firstFault (countFault 9 0 4 b.craneCount ::
    (withPrevious 0 none (b.cranes.toList.take b.craneCount)).map (CraneBook.fault b.hull.lbp))

/-- Section 10, CRITERIA: for C0 to C11 the enable, then the threshold (R10). -/
def CriteriaBook.fault (c : CriteriaBook) : Option BookFault :=
  entryFault 10 0
    [rangedFlag c.enable[0], rangedFlag c.enable[1], ranged 0 10000 c.gmMin, rangedFlag c.enable[2],
     ranged 0 1000 c.area30, rangedFlag c.enable[3], ranged 0 1000 c.area40, rangedFlag c.enable[4],
     ranged 0 1000 c.area3040, rangedFlag c.enable[5], ranged 0 5000 c.gz30, rangedFlag c.enable[6],
     ranged 0 6000 c.maxAngle, rangedFlag c.enable[7], ranged 0 1500 c.listMax, rangedFlag c.enable[8],
     rangedFlag c.enable[9], rangedFlag c.enable[10], ranged 1 30000 c.draftMax, rangedFlag c.enable[11]]

/-- The segregation matrix is symmetric (R11). -/
def Book.segregationSymmetric (b : Book) : Bool :=
  (List.range 9).all fun i => (List.range 9).all fun j =>
    decide (b.segregationOf (i + 1) (j + 1) = b.segregationOf (j + 1) (i + 1))

/-- Section 11, SEGREGATION (R11). -/
def Book.segregationFault (b : Book) : Option BookFault :=
  entryFault 11 0 [(b.segregation.toList.all fun v => decide (v ≤ 3), .range), (b.segregationSymmetric, .relation)]

/-- A port's crane set agrees with its role: non-empty and of cranes that exist for CRANE, empty for any other (R12). -/
def PortBook.setAgrees (craneCount : Nat) (r : PortBook) : Bool :=
  if roleOf r.role = .crane then decide (r.cranes ≠ 0) && decide (r.cranes < 2 ^ craneCount)
  else decide (r.cranes = 0)

/-- One record of section 12, PORT-ROLES (R12). -/
def PortBook.fault (craneCount : Nat) (e : Nat × Option PortBook × PortBook) : Option BookFault :=
  let (k, _, r) := e
  entryFault 12 k [(decide (r.role ≤ 5), .range), (r.setAgrees craneCount, .relation)]

/-- Section 12, PORT-ROLES: the six records, then the OFFICER check (R12). -/
def Book.portFault (b : Book) : Option BookFault :=
  firstFault ((withPrevious 0 none b.ports.toList).map (PortBook.fault b.craneCount) ++
    [entryFault 12 0 [(b.ports.toList.any fun r => decide (roleOf r.role = .officer), .noOfficer)]])

/-- One record of section 13, FIXED-ITEMS (R12). -/
def FixedBook.fault (lbp : Int) (e : Nat × Option FixedBook × FixedBook) : Option BookFault :=
  let (k, _, r) := e
  entryFault 13 (k + 1)
    [(decide (1 ≤ r.label.length) && decide (r.label.length ≤ 16), .range), ranged 1 200000 r.weight, rangedX lbp r.x,
     ranged 0 80000 r.z, ranged (-40000) 40000 r.y, (decide (r.presence ≤ 1), .range)]

/-- Section 13, FIXED-ITEMS: the count, then the items (R12, R18). -/
def Book.fixedFault (b : Book) : Option BookFault :=
  firstFault (countFault 13 0 16 b.fixedCount ::
    (withPrevious 0 none (b.fixed.toList.take b.fixedCount)).map (FixedBook.fault b.hull.lbp))

/-- The first check that the book fails, sections 1 to 13 in order (R18). -/
def Book.check (b : Book) : Option BookFault :=
  firstFault
    [b.hull.fault, b.hydroFault, b.trimFault, b.crossFault, b.stationFault, b.spaceFault, b.tankFault, b.channels.fault,
     b.craneFault, b.criteria.fault, b.segregationFault, b.portFault, b.fixedFault]

/-! ### The emptied condition (R19) -/

/-- The emptied condition under a book as stored (R19). -/
def Kept.emptied (b : Book) : Kept :=
  { lots := []
    stow := Vector.replicate 48 []
    ashore := []
    fixed := b.fixed.map fun r => { weight := r.weight, x := r.x, z := r.z, y := r.y, presence := presenceOf r.presence }
    tanks := b.tanks.map fun t => { applied := 0, source := .gauged, density := t.consts.defDensity, planned := none }
    channels := b.channels.modes.map fun m => { state := .active, counter := 0, run := 0, mode := modeOf m }
    cranes := Vector.replicate 4 .idle
    journal := []
    generation := 0
    mode := .harbour
    notEstablished := true }

end Sys2Proof.Machine
end

