-- ==== Sys2Proof/Machine/Evaluator.lean ====
section
/-!
DEFINITION. The Evaluator: the snapshot, the arbiter and its grants, the verdict records and their notices, and the
Exceedance Capture (06).
-/
namespace Sys2Proof.Machine

/-! ### The snapshot (R80) -/

/-- What a snapshot takes of a draft or heel channel (R66, R80). -/
def State.channelView (s : State) (ch : ChannelNo) : ChannelView :=
  { value := match s.vol.channels[ch.val].reference with
      | some { value := .level v, .. } => some v
      | _ => none
    state := s.kept.channels[ch.val].state
    stale := s.vol.channels[ch.val].stale }

/-- The observation part of a LIVE snapshot (R80). -/
def State.observe (s : State) : Observation :=
  { forward := s.channelView 32, aft := s.channelView 33, heel := s.channelView 34, held := s.anyHeld }

/-- A snapshot of the given sums (R80). -/
def State.snapshot (s : State) (sums : SumSet) (observed : Option Observation) : Snapshot :=
  { sums := sums, notEstablished := s.kept.notEstablished, mode := s.kept.mode, generation := s.kept.generation,
    clock := s.clock, observed := observed }

/-- The direction of the lot a clearance TRIAL proposes still holds: the crane is CHECKING and the lot is in the state that
its direction requires (R148). -/
def State.clearanceStands (s : State) (c : CraneNo) (l : Lot) (dir : Direction) : Bool :=
  (match s.craneState c with
   | .checking _ _ => true
   | .idle => false
   | .cleared _ _ => false
   | .lifting _ _ => false
   | .halted _ _ _ => false) && clearanceAllows dir l.state

/-- The LIVE sums with a proposed change's old and new contributions applied, formed from the table and the crane records
as they stand; the unaltered LIVE sums when the change can no longer be formed (R110, R148). -/
def State.proposedSums (s : State) (change : Proposal) : SumSet :=
  match change with
  | .link _ am =>
    match s.amendLot am with
    | some l =>
      if am.allows l.state then shiftSums s.vol.live [s.lotLive l] [s.lotLive (am.after s.clock l)] else s.vol.live
    | none => s.vol.live
  | .crane c h dir worst =>
    match s.kept.lot h with
    | some l =>
      if s.clearanceStands c l dir then
        shiftSums s.vol.live [s.lotLive l] [pointContribution s.book l.weight worst]
      else s.vol.live
    | none => s.vol.live

/-! ### The arbiter (R112 to R115) -/

/-- The port's TRIAL (R109). -/
def State.trial (s : State) (p : Port) : Option Trial := s.vol.trials[p.val]

/-- The waiting TRIAL's port that stands earliest in the LRU order (R113). -/
def State.nextTrial (s : State) : Option (Port × Trial) := s.vol.lru.findSome? fun p => (s.trial p).map fun t => (p, t)

/-- The order with a port moved to the most-recent end (R114). -/
def lruMove (lru : List Port) (p : Port) : List Port := lru.filter (fun q => decide (q ≠ p)) ++ [p]

/-- The pass that the arbiter grants now, with its snapshot: none unless it is free in SERVICE; the LIVE job first, then the
earliest waiting TRIAL in the LRU order, then the PLAN job (R112, R113). -/
def State.choice (s : State) : Option Pass :=
  if s.part = .service ∧ s.vol.running = none then
    if s.vol.livePending then some { kind := .live, snap := s.snapshot s.vol.live (some s.observe) }
    else match s.nextTrial with
      | some (p, t) => some { kind := .trial p, snap := s.snapshot (s.proposedSums t.change) none }
      | none =>
        if s.vol.planPending then some { kind := .plan, snap := s.snapshot s.vol.plan none } else none
  else none

/-- The LRU order after a grant: the port of a TRIAL moves to the most-recent end (R114). -/
def PassKind.lruAfter (k : PassKind) (lru : List Port) : List Port :=
  match k with
  | .trial p => lruMove lru p
  | .live => lru
  | .plan => lru

/-- A free arbiter in SERVICE grants at once; the mark of a granted job is cleared (R107, R112, R113). -/
def State.grant (s : State) : State :=
  match s.choice with
  | none => s
  | some pass =>
    { s with
      vol.running := some pass
      vol.livePending := s.vol.livePending && decide (pass.kind ≠ .live)
      vol.planPending := s.vol.planPending && decide (pass.kind ≠ .plan)
      vol.lru := pass.kind.lruAfter s.vol.lru }

/-- The end of an operation: a free arbiter grants (R112) and each free line begins a frame (R175). -/
def State.settle (s : State) : State := s.grant.pumpAll

/-! ### Verdicts (R116 to R119) -/

/-- The verdict that a completed pass of a set leaves (R116). -/
def verdictOf (set : SetName) (b : Book) (snap : Snapshot) : Verdict :=
  { set := set, generation := snap.generation, clock := snap.clock, mode := snap.mode, fig := evaluate b snap }

/-- The overall result as a named value: COMPLIANT 0, NON-COMPLIANT 1 (R92). -/
def overallVal (f : Figures) : Val := .u8 f.failing.toNat

/-- The fields of a verdict record, in the order of R116. -/
def verdictVals (v : Verdict) : List Val :=
  let f := v.fig
  [.u8 (setCode v.set), .u64 v.generation, clockVal v.clock, .u8 (conditionModeCode v.mode),
   .i32 f.w, .i32 f.ta, .i32 f.tf, .i32 f.tmean, .i32 f.trim, .i32 f.list, .i32 f.kgc, .i32 f.fsc, .i32 f.gm] ++
  f.gz.toList.map .i32 ++
  [.i32 f.area30, .i32 f.area3040, .i32 f.area40, .i32 f.angle,
   .u8 f.shearStation, .u16 f.shearPercent, .u8 f.bendStation, .u16 f.bendPercent,
   .u16 (criteriaMask f.fails), overallVal f, .u8 (flagsByte f.flags), .i32 f.upright]

/-- The fields of a VERDICT or PLAN-VERDICT notice (R118). -/
def verdictNotice (v : Verdict) : List Val :=
  let f := v.fig
  [.u8 (setCode v.set), .u64 v.generation, clockVal v.clock, overallVal f, .u16 (criteriaMask f.fails),
   .u8 (flagsByte f.flags), .i32 f.w, .i32 f.tmean, .i32 f.trim, .i32 f.list, .i32 f.gm,
   .u16 f.shearPercent, .u16 f.bendPercent, .i32 f.upright]

/-- The trial summary of a reply to a COMMIT (R134). -/
def trialSummary (f : Figures) : List Val :=
  [.i32 f.w, .i32 f.tmean, .i32 f.trim, .i32 f.list, .i32 f.gm, .u16 f.shearPercent, .u16 f.bendPercent,
   .u8 (flagsByte f.flags), .u16 (criteriaMask f.fails)]

/-- A verdict notice is due: the replaced verdict is absent, or differs in a criterion's result or in a flag, and so in the
overall result (R118). -/
def noticeDue (old : Option Verdict) (new : Verdict) : Bool :=
  match old with
  | none => true
  | some v => decide (v.fig.fails ≠ new.fig.fails) || decide (v.fig.flags ≠ new.fig.flags)

/-- The job state of a set: IDLE 0, PENDING 1, RUNNING 2, RUNNING-PENDING 3 (R107). -/
def jobState (pending running : Bool) : Nat :=
  match pending, running with
  | false, false => 0
  | true, false => 1
  | false, true => 2
  | true, true => 3

/-- A pass of the kind runs (R107). -/
def State.isRunning (s : State) (k : PassKind) : Bool :=
  match s.vol.running with
  | some pass => decide (pass.kind = k)
  | none => false

/-! ### The Exceedance Capture (R121, R122) -/

/-- The union of two failing sets. -/
def unionSets (a b : Vector Bool 12) : Vector Bool 12 := Vector.ofFn fun k => a[k] || b[k]

/-- The capture after a LIVE verdict (R121, R122). -/
def Capture.update (c : Capture) (v : Verdict) : Capture :=
  if v.fig.failing then
    match c.held, c.mode with
    | none, _ => { c with held := some { fails := v.fig.fails, generation := v.generation, clock := v.clock } }
    | some _, .first => c
    | some h, .all =>
      { c with held := some { fails := unionSets h.fails v.fig.fails, generation := v.generation, clock := v.clock } }
  else c

/-- The capture's state and, when HOLDING, its captured set, generation and snapshot clock (R123, R124). -/
def captureVals (held : Option Captured) : List Val :=
  match held with
  | none => [.u8 0] ++ optVals none ++ optVals none ++ optVals none
  | some h =>
    [.u8 1] ++ optVals (some [.u16 (criteriaMask h.fails)]) ++ optVals (some [.u64 h.generation]) ++
    optVals (some [clockVal h.clock])

/-- An EVALUATIONS event without role or group (R117). -/
def evaluationEvent (sub : Nat) : TallyEvent :=
  { cls := .evaluations, sub := sub, role := none, group := none, amount := 1 }

/-- The completion of a LIVE pass, but for the grant that follows it: verdict, capture, notice, tally events, the pending
verdict of the Crane Supervisor, and the arbiter freed (R117). -/
def State.completeLive (s : State) (snap : Snapshot) : State :=
  let v := verdictOf .live s.book snap
  let s1 := { s with vol.liveVerdict := some v, vol.capture := s.vol.capture.update v, vol.supervisor := some v,
                     vol.running := none }
  let s2 := if noticeDue s.vol.liveVerdict v then s1.issue .verdict 0 (verdictNotice v) else s1
  s2.countAll (evaluationEvent 0 :: (if v.fig.failing then [evaluationEvent 1] else []))

/-- The completion of a PLAN pass, but for the grant that follows it (R117). -/
def State.completePlan (s : State) (snap : Snapshot) : State :=
  let v := verdictOf .plan s.book snap
  let s1 := { s with vol.planVerdict := some v, vol.running := none }
  let s2 := if noticeDue s.vol.planVerdict v then s1.issue .planVerdict 0 (verdictNotice v) else s1
  s2.count (evaluationEvent 3)

/-- The TRIAL leaves the Evaluator and the arbiter is free (R120). -/
def State.endTrial (s : State) (p : Port) : State :=
  { s with vol.trials := s.vol.trials.set p.val none p.isLt, vol.running := none }

/-- The handle of the lot a proposed change names (R120). -/
def Proposal.handle : Proposal → Option Nat
  | .link _ am => am.handle
  | .crane _ h _ _ => some h

/-- The EVALUATIONS TRIAL event: the port's role, and the hold group of the lot's stow space when the lot exists (R120). -/
def State.trialEvent (s : State) (t : Trial) : TallyEvent :=
  { cls := .evaluations, sub := 2, role := some t.role,
    group := (t.change.handle.bind s.kept.lot).map fun l => s.groupOf l.space, amount := 1 }

end Sys2Proof.Machine
end

