-- ==== Sys2Proof/Machine/Cranes.lean ====
section
/-!
DEFINITION. The Crane Supervisor: the permit lines, the halt reasons, hook-on, landing and land-back, hook readings, stop
votes, the LIMIT test, the STALE interval and the clearance checks (08).
-/
namespace Sys2Proof.Machine

/-! ### The crane record and its permit line (R143, R144) -/

/-- The lot a crane names with its direction (R143). -/
def CraneState.named : CraneState → Option (Nat × Direction)
  | .idle => none
  | .checking h d => some (h, d)
  | .cleared h d => some (h, d)
  | .lifting h d => some (h, d)
  | .halted _ h d => some (h, d)

/-- The halted-from state, present in HALTED (R143). -/
def CraneState.haltedFrom : CraneState → Option HaltedFrom
  | .halted k _ _ => some k
  | .idle => none
  | .checking _ _ => none
  | .cleared _ _ => none
  | .lifting _ _ => none

/-- The crane is in CLEARED or LIFTING (R144). -/
def CraneState.permits : CraneState → Bool
  | .cleared _ _ => true
  | .lifting _ _ => true
  | .idle => false
  | .checking _ _ => false
  | .halted _ _ _ => false

/-- The level of a crane's permit line: asserted exactly while the crane is CLEARED or LIFTING, deasserted outside SERVICE
and for a crane above the crane count (R144). -/
def State.permit (s : State) (c : CraneNo) : Bool :=
  s.supply && decide (s.part = .service) && s.craneExists c && (s.craneState c).permits

/-- No halt reason is held. -/
def Reasons.isEmpty (r : Reasons) : Bool := !r.vote && !r.limit && !r.stale

/-- The empty set of halt reasons. -/
def Reasons.empty : Reasons := { vote := false, limit := false, stale := false }

/-- The halt reasons as a set in one byte, in the order of R143: bit 0 VOTE, 1 LIMIT, 2 STALE (log entry 9). -/
def reasonsMask (r : Reasons) : Nat := r.vote.toNat + 2 * r.limit.toNat + 4 * r.stale.toNat

/-- Some stop vote is held at the crane (R143). -/
def CraneLive.anyVote (k : CraneLive) : Bool := k.votes.any id

/-- The fields of a PERMIT notice behind its subject, the crane (R144). -/
def State.permitVals (s : State) (c : CraneNo) : List Val :=
  let k := s.craneState c
  .u8 (craneStateCode k) :: optVals (k.haltedFrom.map fun f => [.u8 (haltedFromCode f)]) ++
  [.u8 (reasonsMask (s.craneLive c).reasons)] ++ optVals (k.named.map fun n => [.u16 n.1]) ++
  optVals (k.named.map fun n => [.u8 (directionCode n.2)]) ++ [flagVal (s.permit c)]

/-- A PERMIT notice shows the crane as it stands (R144). -/
def State.permitNotice (s : State) (c : CraneNo) : State := s.issue .permit (craneNum c) (s.permitVals c)

/-- A crane returns to IDLE: lot, direction, worst boom head, halt reasons, limit generation and vote-in-check mark are
removed; no notice yet (R145, R150, R151, R155). -/
def State.toIdle (s : State) (c : CraneNo) : State :=
  (s.setCrane c .idle).onCrane c fun k =>
    { k with worst := none, reasons := Reasons.empty, limitGen := none, voteInCheck := false, boom := none }

/-! ### Halts (R161) -/

/-- The state a HALTED crane returns to (R161). -/
def resumed (k : HaltedFrom) (h : Nat) (d : Direction) : CraneState :=
  match k with
  | .cleared => .cleared h d
  | .lifting => .lifting h d

/-- The state of a crane whose halt reasons become `r`: it enters HALTED when they become non-empty, and returns when they
become empty (R161). -/
def CraneState.under (k : CraneState) (r : Reasons) : CraneState :=
  match k with
  | .cleared h d => if r.isEmpty then k else .halted .cleared h d
  | .lifting h d => if r.isEmpty then k else .halted .lifting h d
  | .halted f h d => if r.isEmpty then resumed f h d else k
  | .idle => .idle
  | .checking _ _ => k

/-- The halt reasons of a crane in CLEARED, LIFTING or HALTED become `r`, with the change of state and the PERMIT notice
that follow from a change (R144, R161). -/
def State.withReasons (s : State) (c : CraneNo) (r : Reasons) : State :=
  if r = (s.craneLive c).reasons then s
  else
    let s1 := s.onCrane c fun k => { k with reasons := r }
    (s1.setCrane c ((s.craneState c).under r)).permitNotice c

/-- The crane is in HALTED. -/
def CraneState.isHalted (k : CraneState) : Bool := k.haltedFrom.isSome

/-- The hold group of a lot's stow space, where the lot exists. -/
def State.lotGroup (s : State) (h : Nat) : Option Nat := (s.kept.lot h).map fun l => s.groupOf l.space

/-- A CLEARANCES *halted* event (Table 10-1). -/
def State.haltEvent (s : State) (c : CraneNo) : TallyEvent :=
  { cls := .clearances, sub := 2, role := none, group := (s.craneState c).named.bind fun n => s.lotGroup n.1, amount := 1 }

/-- The cranes that entered HALTED between two states, each with its *halted* event (R144). -/
def haltEvents (old new : State) : List TallyEvent :=
  ((List.finRange 4).filter fun c => (new.craneState c).isHalted && !(old.craneState c).isHalted).map new.haltEvent

/-! ### Notices of crane events -/

/-- An UNKNOWN-LOT notice with crane and handle (R152, R170). -/
def State.unknownLotNotice (s : State) (c : CraneNo) (h : Nat) : State :=
  s.issue .unknownLot 0 [.u8 (craneNum c), .u16 h]

/-- An OUT-OF-ORDER notice with crane, report kind and lot (R152, R155). -/
def State.outOfOrder (s : State) (c : CraneNo) (kind : Byte) (h : Nat) : State :=
  s.issue .outOfOrder 0 [.u8 (craneNum c), .u8 kind.toNat, .u16 h]

/-! ### Hook-on (R152) -/

/-- The lot as a hook-on leaves it, with its direction; absent when the lot is neither PLANNED nor STOWED (R34). -/
def Lot.hooked (l : Lot) (c : CraneNo) : Option (Lot × Direction) :=
  match l.state with
  | .planned => some ({ l with state := .hookedLoading c }, .loading)
  | .stowed _ t => some ({ l with state := .hookedDischarging c t }, .discharging)
  | .hookedLoading _ => none
  | .hookedDischarging _ _ => none
  | .ashore _ => none

/-- A hook-on is permitted: the crane is CLEARED for this lot, which is still in the state its direction requires (R152). -/
def CraneState.permitsHookOn (k : CraneState) (h : Nat) (l : Lot) : Bool :=
  match k with
  | .cleared h' d => decide (h' = h) && clearanceAllows d l.state
  | .idle => false
  | .checking _ _ => false
  | .lifting _ _ => false
  | .halted _ _ _ => false

/-- The boom head at a hook-on; nothing for the assumed boom head (R146). -/
def CraneLive.hookOnHead (k : CraneLive) (permitted : Bool) : Option Point :=
  if permitted && !k.sinceClearance then k.worst else k.hook.map HookReading.head

/-- The volatile crane record after an accounted hook-on at clock `now`, with the generation it advances to (R152). -/
def CraneLive.afterHookOn (k : CraneLive) (permitted : Bool) (now : Clock) (gen : Nat) : CraneLive :=
  { k with
    worst := none
    voteInCheck := false
    freeReading := false
    sinceHookOn := false
    staleFrom := now
    boom := k.hookOnHead permitted
    reasons := if permitted then k.reasons else { vote := k.anyVote, limit := true, stale := false }
    limitGen := if permitted then k.limitGen else some gen }

/-- The other cranes that reserve the lot (R145). -/
def State.rivals (s : State) (c : CraneNo) (h : Nat) : List CraneNo :=
  (List.finRange 4).filter fun d => decide (d ≠ c) && decide ((s.craneState d).reserves = some h)

/-- An accounted hook-on of the lot, which `l'` shows HOOKED with direction `d`, as one operation (R34, R37, R145, R152). Its
PERMIT notices follow the order of R152, this crane's last, and not the ascending order of R173 (log entry 49). -/
def State.accountHookOn (s : State) (p : Port) (c : CraneNo) (h : Nat) (l l' : Lot) (d : Direction) : State :=
  let role := s.role p
  let permitted := (s.craneState c).permitsHookOn h l
  let others := s.rivals c h
  let s1 := s.setKept (s.kept.putLot h (l'.from p role))
  let s2 := others.foldl State.toIdle s1
  let s3 := s2.setCrane c (if permitted then .lifting h d else .halted .lifting h d)
  let s4 := s3.onCrane c fun k => k.afterHookOn permitted s.clock (s.kept.generation + 1)
  let s5 := s4.applied s
    { kind := .hookOn, handle := some h, space := some l.space, item := none, port := p, role := role, overridden := false }
    [l.space] [.lot h, .hook c]
  let s6 := if permitted then s5
    else s5.issue .unpermittedLift 0 [.u8 (craneNum c), .u16 h, .u8 (directionCode d)]
  let s7 := match d, s.overstowing h with
    | .discharging, some v => s6.issue .overstow 0 ([.u8 (craneNum c), .u16 h] ++ refVals v)
    | _, _ => s6
  let s8 := others.foldl State.permitNotice s7
  let s9 := s8.permitNotice c
  s9.countAll (lotMoves (if d = .loading then 0 else 2) role (s.groupOf l.space) :: haltEvents s s9)

/-- HOOK-ON is accounted or discarded by the crane's state and the lot's state (R152). -/
def State.hookOnReport (s : State) (p : Port) (c : CraneNo) (h : Nat) : State :=
  match s.kept.lot h with
  | none => s.unknownLotNotice c h
  | some l =>
    match l.hooked c with
    | none => s.unknownLotNotice c h
    | some (l', d) =>
      if (s.craneState c).hanging.isSome then s.outOfOrder c 0x61 h
      else s.accountHookOn p c h l l' d

/-! ### Landing and land-back (R155 to R157) -/

/-- The lot that hangs on the crane with its direction (R155). -/
def CraneState.lift : CraneState → Option (Nat × Direction)
  | .lifting h d => some (h, d)
  | .halted .lifting h d => some (h, d)
  | .halted .cleared _ _ => none
  | .idle => none
  | .checking _ _ => none
  | .cleared _ _ => none

/-- The verified weight a landing for loading sets: the last hook load, held at 60 000, when a reading came after the
hook-on and carries a load of 1 or more (R156). -/
def CraneLive.weighed (k : CraneLive) : Option Int :=
  match k.sinceHookOn, k.hook with
  | true, some r => if 1 ≤ r.load then some (min r.load 60000 : Nat) else none
  | _, _ => none

/-- The lot after a landing, but for its last origin (R35). -/
def Lot.landed (l : Lot) (d : Direction) (now : Clock) (weighed : Option Int) : Lot :=
  match d with
  | .loading =>
    { l with
      state := .stowed .keep now
      verified := match weighed with
        | some w => some w
        | none => l.verified }
  | .discharging => { l with state := .ashore now }

/-- The stow time a lot holds. -/
def LotState.stowTime : LotState → Clock
  | .hookedDischarging _ t => t
  | .stowed _ t => t
  | .planned => 0
  | .hookedLoading _ => 0
  | .ashore _ => 0

/-- The lot after a land-back, but for its last origin (R36). -/
def Lot.landedBack (l : Lot) (d : Direction) : Lot :=
  match d with
  | .loading => { l with state := .planned }
  | .discharging => { l with state := .stowed .discharge l.state.stowTime }

/-- The condition after a landing: the lot record and the two lists (R35). -/
def Kept.land (k : Kept) (h : Nat) (l' : Lot) (d : Direction) : Kept :=
  let k1 := k.putLot h l'
  match d with
  | .loading => k1.stowAppend l'.space h
  | .discharging =>
    let k2 := k1.stowRemove l'.space h
    { k2 with ashore := k2.ashore ++ [h] }

/-- The crane IDLE at the end of a lift, its free-reading mark cleared (R155, R157). -/
def State.endLift (s : State) (c : CraneNo) : State := (s.toIdle c).onCrane c fun k => { k with freeReading := false }

/-- WEIGHT-DISAGREE where the verified weight is further from the old contributing weight than the tolerance (R156). -/
def State.weightNotice (s : State) (c : CraneNo) (h : Nat) (old : Int) (weighed : Option Int) : State :=
  match weighed with
  | none => s
  | some w =>
    if s.book.cranes[c.val].tolerance * old < ((w - old).natAbs : Int) * 1000 then
      s.issue .weightDisagree 0 [.u8 (craneNum c), .u16 h, .i32 old, .i32 w]
    else s

/-- OVERLOAD where the LIVE weight of the space exceeds its maximum (R156). -/
def State.overloadNotice (s : State) (c : CraneNo) (h space : Nat) : State :=
  match s.spaceBook space with
  | none => s
  | some b =>
    if b.maxWeight < s.liveWeight space then
      s.issue .overload 0 [.u8 (craneNum c), .u16 h, .u8 space, .i32 (s.liveWeight space), .i32 b.maxWeight]
    else s

/-- An accounted landing as one operation (R155, R156). -/
def State.accountLand (s : State) (p : Port) (c : CraneNo) (h : Nat) (l : Lot) (d : Direction) : State :=
  let role := s.role p
  let weighed := match d with
    | .loading => (s.craneLive c).weighed
    | .discharging => none
  let l' := (l.landed d s.clock weighed).from p role
  let s1 := (s.setKept (s.kept.land h l' d)).endLift c
  let s2 := s1.applied s
    { kind := .land, handle := some h, space := some l.space, item := none, port := p, role := role, overridden := false }
    [l.space] [.lot h, .hook c]
  let s3 := s2.permitNotice c
  let group := s.groupOf l.space
  match d with
  | .loading =>
    ((s3.weightNotice c h l.weight weighed).overloadNotice c h l.space).countAll
      [lotMoves 1 role group, tonnage 0 role group l'.weight]
  | .discharging => s3.countAll [lotMoves 3 role group, tonnage 1 role group l'.weight]

/-- An accounted land-back as one operation (R157). -/
def State.accountLandBack (s : State) (p : Port) (c : CraneNo) (h : Nat) (l : Lot) (d : Direction) : State :=
  let role := s.role p
  let s1 := (s.setKept (s.kept.putLot h ((l.landedBack d).from p role))).endLift c
  let s2 := s1.applied s
    { kind := .landBack, handle := some h, space := some l.space, item := none, port := p, role := role,
      overridden := false }
    [l.space] [.lot h, .hook c]
  s2.permitNotice c

/-- The lot and direction of a LAND or LAND-BACK that is accounted: the crane's hanging lot is the one named (R155). -/
def State.accountable (s : State) (c : CraneNo) (h : Nat) : Option (Lot × Direction) :=
  match (s.craneState c).lift, s.kept.lot h with
  | some (h', d), some l => if h' = h then some (l, d) else none
  | _, _ => none

/-- A LAND or LAND-BACK that is not accounted is discarded: UNKNOWN-LOT for a handle above 1023, which is free by definition
(R170), and OUT-OF-ORDER for any other (R155; log entry 46). -/
def State.landDiscarded (s : State) (c : CraneNo) (kind : Byte) (h : Nat) : State :=
  if handleOk h then s.outOfOrder c kind h else s.unknownLotNotice c h

/-- LAND is accounted or discarded (R155). -/
def State.landReport (s : State) (p : Port) (c : CraneNo) (h : Nat) : State :=
  match s.accountable c h with
  | some (l, d) => s.accountLand p c h l d
  | none => s.landDiscarded c 0x62 h

/-- LAND-BACK is accounted or discarded (R157). -/
def State.landBackReport (s : State) (p : Port) (c : CraneNo) (h : Nat) : State :=
  match s.accountable c h with
  | some (l, d) => s.accountLandBack p c h l d
  | none => s.landDiscarded c 0x63 h

/-! ### Hook readings (R153, R154) -/

/-- The volatile crane record with a hook reading taken in (R153). -/
def CraneLive.takeReading (k : CraneLive) (r : HookReading) : CraneLive :=
  { k with hook := some r, sinceClearance := true, sinceHookOn := true }

/-- A hook reading is handed to the crane (R153). -/
def State.hookReading (s : State) (c : CraneNo) (r : HookReading) : State :=
  match (s.craneState c).hanging with
  | some h =>
    let s1 := s.onCrane c fun k => { k.takeReading r with boom := some r.head, staleFrom := s.clock }
    let s2 := s1.accumulate s [.lot h]
    s2.withReasons c { (s2.craneLive c).reasons with stale := false }
  | none =>
    let s1 := s.onCrane c fun k => { k.takeReading r with freeReading := true }
    s1.accumulate s [.hook c]

/-! ### Stop votes, LIMIT and STALE (R158 to R160) -/

/-- The ports whose votes are held, as a mask (R158). -/
def State.votesMask (s : State) (c : CraneNo) : Nat := portMask (s.craneLive c).votes

/-- A port's vote at a crane is set or released (R158). -/
def State.castVote (s : State) (p : Port) (c : CraneNo) (held : Bool) : State :=
  if (s.craneLive c).votes[p.val] = held then s
  else
    let s1 := s.onCrane c fun k => { k with votes := k.votes.set p.val held p.isLt }
    let reasons := { (s1.craneLive c).reasons with vote := (s1.craneLive c).anyVote }
    match s1.craneState c with
    | .idle => s1
    | .checking _ _ => if held then s1.onCrane c fun k => { k with voteInCheck := true } else s1
    | .cleared _ _ => s1.withReasons c reasons
    | .lifting _ _ => s1.withReasons c reasons
    | .halted _ _ _ => s1.withReasons c reasons

/-- A verdict lies beyond a crane's lift limits (R159). -/
def beyondLimits (b : CraneBook) (f : Figures) : Bool :=
  decide (b.heelLimit < (f.list.natAbs : Int)) || decide (f.gm < b.gmMin) || f.flags.gmNonpos

/-- A verdict lies within a crane's lift limits less the hysteresis (R159). -/
def wellWithinLimits (b : CraneBook) (f : Figures) : Bool :=
  decide ((f.list.natAbs : Int) ≤ b.heelLimit - b.hysteresis) && decide (b.gmMin ≤ f.gm) && !f.flags.gmNonpos

/-- The verdict's generation does not predate the crane's limit generation (R159). -/
def reaches (gen : Nat) (limitGen : Option Nat) : Bool :=
  match limitGen with
  | none => true
  | some g => decide (g ≤ gen)

/-- The LIMIT test of one crane in CLEARED, LIFTING or HALTED (R159). -/
def State.limitTest (s : State) (v : Verdict) (c : CraneNo) : State :=
  let k := s.craneLive c
  let b := s.book.cranes[c.val]
  match s.craneState c with
  | .idle => s
  | .checking _ _ => s
  | .cleared _ _ | .lifting _ _ | .halted _ _ _ =>
    if k.reasons.limit then
      if wellWithinLimits b v.fig && reaches v.generation k.limitGen then
        (s.onCrane c fun k => { k with limitGen := none }).withReasons c { k.reasons with limit := false }
      else s
    else if beyondLimits b v.fig then s.withReasons c { k.reasons with limit := true }
    else s

/-- The Supervisor takes its pending verdict and tests every crane, in ascending order (R159). -/
def State.takeVerdict (s : State) (v : Verdict) : State :=
  let s1 := { s with vol.supervisor := none }
  let s2 := (List.finRange 4).foldl (fun t c => t.limitTest v c) s1
  s2.countAll (haltEvents s s2)

/-- The STALE interval of a crane has expired: a lot hangs, STALE is not held, and the interval exceeds the crane's hook
freshness limit (R160). -/
def State.hookStale (s : State) (c : CraneNo) : Bool :=
  (s.craneState c).hanging.isSome && !(s.craneLive c).reasons.stale &&
  decide (s.book.cranes[c.val].freshness < (elapsed (s.craneLive c).staleFrom s.clock : Int))

/-- STALE is added to a crane's reasons at the expiry (R160). -/
def State.addStale (s : State) (c : CraneNo) : State :=
  let s1 := s.withReasons c { (s.craneLive c).reasons with stale := true }
  s1.countAll (haltEvents s s1)

/-! ### Clearance (R147 to R150) -/

/-- The worst boom head lies in the ranges of R147. -/
def headOk (b : Book) (q : Point) : Bool := xOk b q.x && within 0 80000 q.z && within (-40000) 40000 q.y

/-- The lot's hold group is in the crane's reach mask (R147). -/
def State.reaches (s : State) (c : CraneNo) (l : Lot) : Bool :=
  decide (1 ≤ s.groupOf l.space) && s.book.cranes[c.val].reach.testBit (s.groupOf l.space - 1)

/-- The first test of R147 that an IDLE crane's request fails: the constraint check, reach, load, votes. -/
def State.clearanceRefusal (s : State) (c : CraneNo) (h : Nat) (d : Direction) : Option Refused :=
  match s.checkClearance c h d with
  | some r => some r
  | none =>
    match s.kept.lot h with
    | none => none
    | some l =>
      if s.reaches c l = false then some (.outOfReach, .space l.space)
      else if s.book.cranes[c.val].swl < l.weight then some (.overSwl, .handle h)
      else if (s.craneLive c).anyVote then some (.stopped, .ports (s.votesMask c))
      else none

/-- A CLEARANCES event of a clearance request, with the port's role and the hold group of the lot's stow space when the lot
exists (R147, R150). -/
def State.clearanceEvent (s : State) (sub : Nat) (role : Role) (h : Nat) : TallyEvent :=
  { cls := .clearances, sub := sub, role := some role, group := s.lotGroup h, amount := 1 }

/-- A clearance request that passes every test: the crane is CHECKING and the TRIAL is made (R147). -/
def State.beginClearance (s : State) (p : Port) (c : CraneNo) (h : Nat) (d : Direction) (q : Point) : State :=
  let s1 := (s.setCrane c (.checking h d)).onCrane c fun k => { k with worst := some q, voteInCheck := false }
  let s2 := s1.permitNotice c
  { s2 with vol.trials := s2.vol.trials.set p.val (some { role := s.role p, change := .crane c h d q }) p.isLt }

/-- The trial's figures allow the lift (R150 case 4). -/
def liftAllowed (b : CraneBook) (f : Figures) : Bool :=
  decide (b.gmMin < f.gm) && decide ((f.list.natAbs : Int) ≤ b.heelLimit) && !f.flags.gmNonpos

/-- The fields of the replies CLEARED and DENIED-LIMITS: GM, list, flags, upright moment (R150). -/
def liftVals (f : Figures) : List Val := [.i32 f.gm, .i32 f.list, .u8 (flagsByte f.flags), .i32 f.upright]

/-- The crane is CHECKING for the lot (R150 case 1). -/
def CraneState.checks (k : CraneState) (h : Nat) : Bool :=
  match k with
  | .checking h' _ => decide (h' = h)
  | .idle => false
  | .cleared _ _ => false
  | .lifting _ _ => false
  | .halted _ _ _ => false

/-- A refused clearance: the crane is IDLE, with its PERMIT notice (R150 cases 2, 3 and 5). -/
def State.denyClearance (s : State) (c : CraneNo) : State := (s.toIdle c).permitNotice c

/-- The granted clearance: the crane is CLEARED, with its PERMIT notice (R150 case 4). -/
def State.grantClearance (s : State) (c : CraneNo) (h : Nat) (d : Direction) : State :=
  ((s.setCrane c (.cleared h d)).onCrane c fun k => { k with sinceClearance := false, voteInCheck := false }).permitNotice c

/-- The decision on a completed clearance TRIAL of a port, taking the first case of R150 that applies. The cases look at the
crane and the table at completion alone: a TRIAL granted when no contributions could be formed, which R148 says is refused
whatever its figures, is cleared where the cases allow it (log entry 53). -/
def State.decideClearance (s : State) (p : Port) (role : Role) (c : CraneNo) (h : Nat) (d : Direction) (f : Figures) :
    State :=
  let denied := s.clearanceEvent 1 role h
  if (s.craneState c).checks h = false then (s.answer p .clearanceLost []).count denied
  else if (s.craneLive c).voteInCheck || (s.craneLive c).anyVote then
    ((s.refuse p .deniedStopped (.ports (s.votesMask c))).denyClearance c).count denied
  else match s.checkClearance c h d with
    | some (st, v) => ((s.refuse p st v).denyClearance c).count denied
    | none =>
      if liftAllowed s.book.cranes[c.val] f then
        ((s.answer p .cleared (liftVals f)).grantClearance c h d).count (s.clearanceEvent 0 role h)
      else ((s.answer p .deniedLimits (liftVals f)).denyClearance c).count denied

/-! ### The crane record as CRANE-READ gives it (R162) -/

/-- The fields of a hook reading with its arrival time. -/
def HookReading.vals (r : HookReading) : List Val :=
  [.u32 r.load, .i32 r.head.x, .i32 r.head.y, .i32 r.head.z, clockVal r.arrival]

/-- The boom head at which the crane's hanging lot stands (R146). -/
def State.hangingHead (s : State) (c : CraneNo) : Option Point :=
  ((s.craneState c).hanging.bind s.kept.lot).map (s.boomHead c)

/-- The crane record in the order of R162. -/
def State.craneVals (s : State) (c : CraneNo) : List Val :=
  let k := s.craneState c
  let v := s.craneLive c
  .u8 (craneStateCode k) :: optVals (k.haltedFrom.map fun f => [.u8 (haltedFromCode f)]) ++
  optVals (k.named.map fun n => [.u16 n.1]) ++ optVals (k.named.map fun n => [.u8 (directionCode n.2)]) ++
  optVals (v.worst.map pointVals) ++ optVals (v.hook.map HookReading.vals) ++ [flagVal v.freeReading] ++
  optVals ((s.unidentified c).map fun u => [.u32 u.1.toNat]) ++ optVals ((s.hangingHead c).map pointVals) ++
  [.u8 (reasonsMask v.reasons)] ++ optVals (v.limitGen.map fun g => [.u64 g]) ++
  [flagVal v.voteInCheck, .u8 (portMask v.votes), flagVal (s.permit c)]

end Sys2Proof.Machine
end

