-- ==== Sys2Proof/Machine/Channels.lean ====
section
/-!
DEFINITION. The Channel Unit: the Reading Queue, plausibility, channel health, staleness, the delivery of accepted
readings, and the channel and tank requests' effects (03).
-/
namespace Sys2Proof.Machine

/-! ### Channels (R49, R50) -/

/-- What a channel measures (R49). -/
inductive ChannelKind where
  | tank (t : TankNo)
  | draft
  | heel
  | hook (c : CraneNo)
deriving DecidableEq, Repr

/-- The kind of a channel by its number (R49). -/
def channelKind (ch : ChannelNo) : ChannelKind :=
  if h : ch.val < 32 then .tank ⟨ch.val, h⟩
  else if ch.val < 34 then .draft
  else if ch.val = 34 then .heel
  else .hook ⟨ch.val - 35, by omega⟩

/-- The index of a channel number 0 to 38 (R49). -/
def channelIdx (n : Nat) : Option ChannelNo := if h : n < 39 then some ⟨n, h⟩ else none

/-- The channel is fitted under the book (R50). -/
def State.fitted (s : State) (ch : ChannelNo) : Bool :=
  match channelKind ch with
  | .tank t => s.tankExists t
  | .draft => true
  | .heel => true
  | .hook c => s.craneExists c

/-- The freshness limit of a channel in milliseconds (R49). -/
def State.freshness (s : State) (ch : ChannelNo) : Int :=
  match channelKind ch with
  | .tank t => (s.tankBook t).consts.freshness * 1000
  | .draft => s.book.channels.draftFresh * 1000
  | .heel => s.book.channels.heelFresh * 1000
  | .hook c => s.book.cranes[c.val].freshness

/-- The retained part of a channel record. -/
def State.channelKept (s : State) (ch : ChannelNo) : ChannelKept := s.kept.channels[ch.val]

/-- The volatile part of a channel record. -/
def State.channelLive (s : State) (ch : ChannelNo) : ChannelLive := s.vol.channels[ch.val]

/-- The channel is awaiting restore: ISOLATED with run 32 and mode CONFIRM (R60). -/
def ChannelKept.awaiting (k : ChannelKept) : Bool :=
  decide (k.state = .isolated) && decide (k.run = 32) && decide (k.mode = .confirm)

/-! ### The condition of a channel and its notice (R64) -/

/-- The condition of a channel: state, STALE flag, awaiting restore (R64). -/
structure Condition where
  state : ChannelState
  stale : Bool
  awaiting : Bool
deriving DecidableEq, Repr

/-- The condition of a channel as it stands (R64). -/
def State.condition (s : State) (ch : ChannelNo) : Condition :=
  { state := (s.channelKept ch).state, stale := (s.channelLive ch).stale, awaiting := (s.channelKept ch).awaiting }

/-- The fields of a CHANNEL notice behind its subject, the channel (R64). -/
def State.channelNoticeVals (s : State) (ch : ChannelNo) : List Val :=
  let k := s.channelKept ch
  [.u8 (channelStateCode k.state), flagVal (s.channelLive ch).stale, flagVal k.awaiting, .u16 k.counter, .u16 k.run]

/-- A change of condition can change a LIVE verdict: on channels 32 to 34, or where a GAUGED tank's value becomes held or
ceases to be (R64). -/
def State.conditionMatters (s : State) (ch : ChannelNo) (old new : Condition) : Bool :=
  match channelKind ch with
  | .tank t => decide ((s.tank t).source = .gauged) && decide (holds old.state old.stale ≠ holds new.state new.stale)
  | .draft => true
  | .heel => true
  | .hook _ => false

/-- A change of a fitted channel's condition from the one it had issues a CHANNEL notice, and makes LIVE pending where it
can change a LIVE verdict (R64). -/
def State.noteCondition (s : State) (old : Condition) (ch : ChannelNo) : State :=
  if s.condition ch = old ∨ s.fitted ch = false then s
  else
    let s1 := s.issue .channel ch.val (s.channelNoticeVals ch)
    if s.conditionMatters ch old (s.condition ch) then s1.pendLive else s1

/-! ### The Reading Queue (R52 to R55) -/

/-- A READINGS event with the reading's origin role (Table 10-1). -/
def readingEvent (sub : Nat) (role : Role) : TallyEvent :=
  { cls := .readings, sub := sub, role := some role, group := none, amount := 1 }

/-- The occupancy at which QUEUE-HIGH is issued (R54). -/
def State.queueThreshold (s : State) : Nat := s.vol.queueLevel * 8

/-- A QUEUE-HIGH notice with the occupancy and the level; the high-armed flag is cleared (R54). -/
def State.queueHigh (s : State) : State :=
  { s.issue .queueHigh 0 [.u16 s.vol.queue.length, .u8 s.vol.queueLevel] with vol.highArmed := false }

/-- A reading of a channel that has no entry joins the tail, with QUEUE-HIGH when the occupancy reaches the threshold (R53,
R54). -/
def State.appendReading (s : State) (e : QueueEntry) : State :=
  let s1 := { s with vol.queue := s.vol.queue ++ [e] }
  if s1.vol.queue.length = s1.queueThreshold ∧ s1.vol.highArmed = true then s1.queueHigh else s1

/-- A reading is lost at a full queue (R53). -/
def State.loseReading (s : State) (e : QueueEntry) : State :=
  let s1 := s.onChannelLive e.channel fun k => { k with lost := min (k.lost + 1) 255 }
  (s1.issue .readingLost 0 [.u8 e.channel.val, .u16 (s1.channelLive e.channel).lost]).count (readingEvent 2 e.role)

/-- A reading arrives at the Channel Unit: discarded when its channel is not fitted, otherwise it replaces its channel's
entry, joins the tail, or is lost (R50, R52, R53). -/
def State.readingArrives (s : State) (e : QueueEntry) : State :=
  if s.fitted e.channel = false then s
  else match s.vol.queue.find? fun x => decide (x.channel = e.channel) with
    | some old =>
      { s with vol.queue := s.vol.queue.map fun (x : QueueEntry) => if x.channel = e.channel then e else x }.count
        (readingEvent 1 old.role)
    | none =>
      if s.vol.queue.length < Config.queueCapacity then s.appendReading e else s.loseReading e

/-- A written queue-high level as it is taken (R54). -/
def levelTaken (n : Nat) : Nat := if n = 0 then 1 else min n 8

/-- The queue-high level is set: the flag is set again, and QUEUE-HIGH is issued where the occupancy stands at or above a
changed threshold (R54). -/
def State.setQueueLevel (s : State) (n : Nat) : State :=
  if levelTaken n = s.vol.queueLevel then s
  else
    let s1 := { s with vol.queueLevel := levelTaken n, vol.highArmed := true }
    if s1.queueThreshold ≤ s1.vol.queue.length then s1.queueHigh else s1

/-! ### Plausibility (R56, R57) -/

/-- The rate test of a tank sounding against the channel's reference; not made without one (R56). -/
def rateOk (t : TankConstants) (reference : Option Reference) (v : Int) (arrival : Clock) : Bool :=
  match reference with
  | some { value := .level r, arrival := a, .. } =>
    decide (((v - r).natAbs : Int) ≤ roundDiv (t.rate * (elapsed a arrival : Int)) 1000 + t.margin)
  | _ => true

/-- The boom head lies within the crane's maximum outreach, by squared distances (R57). -/
def outreachOk (b : CraneBook) (x y : Int) : Bool :=
  decide ((x - b.pedestalX) * (x - b.pedestalX) + (y - b.pedestalY) * (y - b.pedestalY) ≤ b.outreach * b.outreach)

/-- A reading is plausible on its channel (R56, R57). -/
def State.plausible (s : State) (e : QueueEntry) : Bool :=
  match channelKind e.channel, e.value with
  | .tank t, .level v =>
    let c := (s.tankBook t).consts
    within (-c.margin) (c.depth + c.margin) v && rateOk c (s.channelLive e.channel).reference v e.arrival
  | .draft, .level v => within 0 (s.book.lastHydro.tlcf + 2000) v
  | .heel, .level v => within (-4500) 4500 v
  | .hook c, .hook load x y _ =>
    let b := s.book.cranes[c.val]
    decide ((load : Int) ≤ roundDiv (b.swl * 15) 10) && outreachOk b x y
  | _, _ => false

/-! ### Channel health (R58 to R60) -/

/-- The state of a channel by its counter after a step (R58). -/
def stateOfCounter (n : Nat) : ChannelState :=
  if n ≤ 95 then .active else if n ≤ 127 then .doubtful else if n ≤ 255 then .distrusted else .isolated

/-- The counter after a step (R58). -/
def stepCounter (n : Nat) (plausible : Bool) : Nat := if plausible then n - 1 else min (n + 8) 256

/-- A reading on an ISOLATED channel: the run is counted, and a completed run recovers it under AUTOMATIC (R59, R60). -/
def ChannelKept.stepIsolated (k : ChannelKept) (plausible : Bool) : ChannelKept × Bool :=
  if plausible then
    let run := min (k.run + 1) 32
    if run = 32 ∧ k.mode = .automatic then ({ k with counter := 0, state := .active, run := 0 }, true)
    else ({ k with run := run }, false)
  else ({ k with run := 0 }, false)

/-- A reading on a channel that is not ISOLATED: the counter steps, the state follows, and a plausible reading is accepted in
ACTIVE and DOUBTFUL (R58). -/
def ChannelKept.stepTrusted (k : ChannelKept) (plausible : Bool) : ChannelKept × Bool :=
  let n := stepCounter k.counter plausible
  let st := stateOfCounter n
  let run := if st = .isolated then 0 else k.run
  ({ k with counter := n, state := st, run := run },
    plausible && (decide (st = .active) || decide (st = .doubtful)))

/-- The channel record after a reading of the given plausibility, and whether the reading is accepted (R58 to R60). -/
def ChannelKept.step (k : ChannelKept) (plausible : Bool) : ChannelKept × Bool :=
  if k.state = .isolated then k.stepIsolated plausible else k.stepTrusted plausible

/-! ### Delivery of an accepted reading (R65, R66) -/

/-- A tank fill record is changed, and its contributions follow (R69). -/
def State.changeTank (s : State) (t : TankNo) (f : TankFill → TankFill) : State := (s.onTank t f).accumulate s [.tank t]

/-- A sounding clamped to the tank's 0 to depth (R65). -/
def State.clampSounding (s : State) (t : TankNo) (z : Int) : Int := clamp 0 (s.tankBook t).consts.depth z

/-- The reading becomes the channel's reference and clears STALE (R58). -/
def State.setReference (s : State) (e : QueueEntry) : State :=
  let doubtful := decide ((s.channelKept e.channel).state = .doubtful)
  s.onChannelLive e.channel fun k =>
    { k with stale := false, reference := some { value := e.value, arrival := e.arrival, doubtful := doubtful } }

/-- An accepted reading goes to its tank when GAUGED, to the observation, or to the Crane Supervisor (R65, R66). -/
def State.deliverReading (s : State) (e : QueueEntry) : State :=
  match channelKind e.channel, e.value with
  | .tank t, .level v =>
    if (s.tank t).source = .gauged then s.changeTank t fun f => { f with applied := s.clampSounding t v } else s
  | .draft, .level _ => s.pendLive
  | .heel, .level _ => s.pendLive
  | .hook c, .hook load x y z => s.hookReading c { load := load, head := { x := x, z := z, y := y }, arrival := e.arrival }
  | _, _ => s

/-- A reading is tested and stepped, accepted or not, with its CHANNEL notice, delivery and tally event, in the order of the
operation (R55, R58). -/
def State.testReading (s : State) (e : QueueEntry) : State :=
  let ok := s.plausible e
  let (k, accepted) := (s.channelKept e.channel).step ok
  let s1 := s.onChannelKept e.channel fun _ => k
  if accepted then
    (((s1.setReference e).noteCondition (s.condition e.channel) e.channel).deliverReading e).count (readingEvent 0 e.role)
  else
    let s2 := s1.noteCondition (s.condition e.channel) e.channel
    if ok then s2 else s2.count (readingEvent 3 e.role)

/-- The applier removes the head entry; the high-armed flag is set again where the occupancy falls below the threshold (R54,
R55). -/
def State.removeHead (s : State) (rest : List QueueEntry) : State :=
  { s with vol.queue := rest, vol.highArmed := s.vol.highArmed || decide (rest.length < s.queueThreshold) }

/-- The applier takes the head reading and applies it to its channel, as one operation (R50, R55). -/
def State.applyHead (s : State) : State :=
  match s.vol.queue with
  | [] => s
  | e :: rest =>
    let s1 := s.removeHead rest
    if s1.fitted e.channel then s1.testReading e else s1

/-! ### Staleness (R63) -/

/-- The freshness interval of a fitted channel has expired (R63). -/
def State.channelExpired (s : State) (ch : ChannelNo) : Bool :=
  s.fitted ch && !(s.channelLive ch).stale &&
  (match (s.channelLive ch).reference with
   | none => true
   | some r => decide (s.freshness ch < (elapsed r.arrival s.clock : Int)))

/-- The STALE flag is set at the expiry (R63). -/
def State.setStale (s : State) (ch : ChannelNo) : State :=
  (s.onChannelLive ch fun k => { k with stale := true }).noteCondition (s.condition ch) ch

/-! ### Requests of the Channel Unit (R61, R62, R70) -/

/-- The recovery mode in force of a channel is set (R61). -/
def State.setMode (s : State) (ch : ChannelNo) (m : RecoveryMode) : State :=
  (s.onChannelKept ch fun k => { k with mode := m }).noteCondition (s.condition ch) ch

/-- The source of a tank is set; a change makes LIVE pending (R62, R70, R107). -/
def State.setSource (s : State) (t : TankNo) (src : Source) : State :=
  if (s.tank t).source = src then s else (s.onTank t fun f => { f with source := src }).pendLive

/-- A fitted channel is restored (R62). -/
def State.restoreChannel (s : State) (ch : ChannelNo) : State :=
  let s1 := s.onChannelKept ch fun k => { k with state := .active, counter := 0, run := 0 }
  let s2 := match channelKind ch with
    | .tank t => s1.setSource t .gauged
    | .draft => s1
    | .heel => s1
    | .hook _ => s1
  s2.noteCondition (s.condition ch) ch

/-! ### The records as CHANNEL-READ and TANK-READ give them (R72) -/

/-- The values of a reading. -/
def readingVals : ReadingValue → List Val
  | .level v => [.i32 v]
  | .hook load x y z => [.u32 load, .i32 x, .i32 y, .i32 z]

/-- The fields of CHANNEL-READ in the order of R72. -/
def State.channelVals (s : State) (ch : ChannelNo) : List Val :=
  let k := s.channelKept ch
  let v := s.channelLive ch
  [flagVal (s.fitted ch), .u8 (channelStateCode k.state), .u16 k.counter, .u16 k.run, .u8 (modeCode k.mode),
   flagVal k.awaiting, flagVal v.stale] ++
  optVals (v.reference.map fun r => readingVals r.value ++ [clockVal r.arrival, flagVal r.doubtful]) ++
  [.u16 v.lost, .u16 s.vol.queue.length, .u8 s.vol.queueLevel]

/-- The fields of the contents of a tank in the order of R72. -/
def Contents.vals (c : Contents) : List Val :=
  [.i32 c.volume, .i32 c.weight, .i32 c.lcg, .i32 c.vcg, .i32 c.tcg, .i32 c.fsm]

/-- The fields of TANK-READ in the order of R72; an UNCHECKED book gives no contents and no held mark. -/
def State.tankVals (s : State) (t : TankNo) : List Val :=
  let f := s.tank t
  let valid := decide (s.bookStatus = .valid)
  let channel := tankChannel t
  [.i32 f.applied, .u8 (sourceCode f.source), .i32 f.density] ++ optVals (f.planned.map fun z => [.i32 z]) ++
  optVals (if valid then some (s.currentContents t).vals else none) ++
  optVals (if valid then some (s.plannedContents t).vals else none) ++
  [.u8 (channelStateCode (s.channelKept channel).state), flagVal (s.channelLive channel).stale] ++
  optVals (if valid then some [flagVal (s.tankHeld t)] else none)

end Sys2Proof.Machine
end

