-- ==== Sys2Proof/Machine/Service.lean ====
section
/-!
DEFINITION. The service of a request: the order of R167 (form, part state, role, owning block), the gates of the access
table (R168), and the hand-on of delivered reports (R170).
-/
namespace Sys2Proof.Machine

/-! ### The access table (R168) -/

/-- A breach of the access table: its cause and value. -/
abbrev Breach := Cause × RefValue

/-- The gate of a request that every role but UNUSED may send; `v` is what the request names. -/
def State.anyRole (v : RefValue) (p : Port) (s : State) : Option Breach :=
  match s.role p with
  | .officer => none
  | .planner => none
  | .crane => none
  | .gauge => none
  | .shore => none
  | .unused => some (.role, v)
  | .unlisted _ => some (.role, v)

/-- The gate of a request that the listed roles may send. -/
def State.onlyRoles (roles : List Role) (v : RefValue) (p : Port) (s : State) : Option Breach :=
  if roles.contains (s.role p) then none else some (.role, v)

/-- The gate of a request that an OFFICER port may send. -/
def State.officerOnly (v : RefValue) (p : Port) (s : State) : Option Breach := s.onlyRoles [.officer] v p

/-- The gate of CLEAR-REQUEST and CLEAR-CANCEL: a CRANE port for its own cranes. -/
def State.ownCrane (crane : Nat) (p : Port) (s : State) : Option Breach :=
  if s.role p = .crane then (if s.ownsCrane p crane then none else some (.craneNotOwn, .crane crane))
  else some (.role, .crane crane)

/-- The gate of CRANE-READ: every role but UNUSED for any crane, but CRANE for its own (R168, R143; log entry 45). -/
def State.craneReader (crane : Nat) (p : Port) (s : State) : Option Breach :=
  if s.role p = .crane then s.ownCrane crane p else s.anyRole (.crane crane) p

/-- The gate of STOP-VOTE: OFFICER and PLANNER for any crane, CRANE for its own. -/
def State.voteGate (crane : Nat) (p : Port) (s : State) : Option Breach :=
  if s.role p = .officer ∨ s.role p = .planner then none else s.ownCrane crane p

/-- The target of a hold group's link, where the link is valid (R130). -/
def State.linkTarget (s : State) (group : Nat) : Option Nat := ((groupIdx group).bind s.link).map Link.target

/-- A space as a breach's value, or none. -/
def spaceValue (space : Option Nat) : RefValue :=
  match space with
  | some n => .space n
  | none => .none

/-- The roles that may send the four link requests (R130). -/
def linkRoles : List Role := [.officer, .planner, .shore]

/-- The gate of STAGE: a SHORE port may stage plan-only kinds alone (R130). -/
def State.stageGate (group : Nat) (am : Amendment) (p : Port) (s : State) : Option Breach :=
  if s.role p = .shore ∧ am.isLive = true then
    some (.role, spaceValue (match s.linkTarget group with
      | some t => some t
      | none => am.carried))
  else s.onlyRoles linkRoles (spaceValue am.carried) p

/-- The gate of COMMIT: the override flag is an OFFICER port's (R130). -/
def State.commitGate (group override : Nat) (p : Port) (s : State) : Option Breach :=
  match s.onlyRoles linkRoles .none p with
  | some b => some b
  | none =>
    if override = 1 ∧ s.role p ≠ .officer then some (.override, spaceValue (s.linkTarget group)) else none

/-- The tally of a number 0 to 7 (R177). -/
def tallyIdx (n : Nat) : Option (Fin 8) := if h : n < 8 then some ⟨n, h⟩ else none

/-- The gate of READ-TALLY: UNUSED by ROLE, others by the tally's readable-by mask (R183). -/
def State.tallyGate (tally : Nat) (p : Port) (s : State) : Option Breach :=
  match s.anyRole .none p, tallyIdx tally with
  | some b, _ => some b
  | none, some i =>
    if roleIn s.vol.tallies[i.val].control.readable (s.role p) then none else some (.tallyHidden, .tally tally)
  | none, none => none

/-! ### Service (R167) -/

/-- How the part state bears on a request: a read, a request of the book's writing, or any other (R16, R17). -/
inductive RequestClass where
  | read
  | book
  | condition
deriving DecidableEq, Repr

/-- The request in service at a port is the one that the command serves (R167). -/
def State.serves (s : State) (p : Port) (cmd : Instr) : Bool :=
  match s.inService p with
  | some r => decide (commandOf p r.kind r.payload = cmd)
  | none => false

/-- The kind byte of the request in service, 0 where there is none. -/
def State.servedKind (s : State) (p : Port) : Byte :=
  match s.inService p with
  | some r => r.kind
  | none => 0

/-- A request that breaks the access table: recorded, counted, and answered DENIED (R167 step 3, R169). -/
def State.deny (s : State) (p : Port) (b : Breach) : State :=
  ((s.breach p (s.servedKind p) b.1 b.2).refuse p .denied b.2).settle

/-- The service of the request in service that `cmd` names: part state, role, then the owning block (R167). A command that
names no request in service, or comes in START, leaves the engine as it is (log entry 2). -/
def State.serve (s : State) (p : Port) (cmd : Instr) (cls : RequestClass) (gate : State → Option Breach)
    (block : State → State) : State :=
  if s.serves p cmd = false then s
  else match s.part with
    | .start => s
    | .commission =>
      match cls with
      | .condition => s.answer p .notInService []
      | .read => block s
      | .book => block s
    | .service =>
      match cls with
      | .book => s.answer p .notInCommission []
      | .read | .condition =>
        match gate s with
        | some b => s.deny p b
        | none => block s

/-- The service of a request whose form step fails: MALFORMED in every part state and from every role (R167 step 1). -/
def State.serveMalformed (s : State) (p : Port) (cmd : Instr) : State :=
  if s.serves p cmd = false ∨ s.part = .start then s else s.answer p .malformed []

/-- A reply MALFORMED with an empty body. -/
def State.malformed (s : State) (p : Port) : State := s.answer p .malformed []

/-- A reply DONE. -/
def State.done (s : State) (p : Port) (body : List Val) : State := s.answer p .done body

/-! ### Reports (R170) -/

/-- The port's discard count rises by one (R163). -/
def State.discardAt (s : State) (p : Port) : State := s.onPort p PortState.discard

/-- A frame delivered at a port makes it ONLINE and restarts its silence interval (R171). -/
def State.hear (s : State) (p : Port) : State := s.onPort p fun q => { q with silent := false, lastHeard := s.clock }

/-- The form of a reading's value fits its channel (Table 9-2). -/
def readingFits (channel : Nat) (v : ReadingValue) : Bool :=
  match v with
  | .level _ => decide (channel ≤ 34)
  | .hook _ _ _ _ => decide (35 ≤ channel)

/-- The role check of a reading (R51, R168). -/
def State.readingGate (channel : Nat) (p : Port) (s : State) : Option Breach :=
  match s.role p with
  | .gauge => if channel ≤ 34 then none else some (.channelNotOwn, .channel channel)
  | .crane =>
    if 35 ≤ channel ∧ s.ownsCrane p (channel - 34) = true then none else some (.channelNotOwn, .channel channel)
  | .officer => some (.role, .channel channel)
  | .planner => some (.role, .channel channel)
  | .shore => some (.role, .channel channel)
  | .unused => some (.role, .channel channel)
  | .unlisted _ => some (.role, .channel channel)

/-- A report that breaks the access table is discarded and recorded (R170 step 2). -/
def State.reportBreach (s : State) (p : Port) (kind : Byte) (b : Breach) : State := (s.breach p kind b.1 b.2).settle

/-- A reading report delivered in SERVICE: form, role, then the Reading Queue (R170). -/
def State.takeReading (s : State) (p : Port) (channel : Nat) (v : ReadingValue) : State :=
  match channelIdx channel, readingFits channel v with
  | some ch, true =>
    match s.readingGate channel p with
    | some b => s.reportBreach p 0x60 b
    | none =>
      (s.readingArrives { channel := ch, value := v, arrival := s.clock, port := p, role := s.role p }).settle
  | _, _ => s.discardAt p

/-- A crane event report delivered in SERVICE: form, role, then the Crane Supervisor (R170). -/
def State.takeCraneReport (s : State) (p : Port) (kind : Byte) (crane lot : Nat)
    (account : State → CraneNo → Nat → State) : State :=
  match craneIdx crane with
  | none => s.discardAt p
  | some c =>
    match s.ownCrane crane p with
    | some b => s.reportBreach p kind b
    | none => (account s c lot).settle

/-- A report is delivered at a port: it is heard, without effect in COMMISSION, and taken in SERVICE (R16, R170, R171). -/
def State.reportDelivered (s : State) (p : Port) (take : State → State) : State :=
  match s.part with
  | .start => s
  | .commission => s.hear p
  | .service => take (s.hear p)

end Sys2Proof.Machine
end

