-- ==== Sys2Proof/Machine/Ports.lean ====
section
/-!
DEFINITION. The two sides of the station ports: the receiver's four states, the delivery of frames as reports and requests,
silence and restart, and the characters on the transmit line (R163 to R166, R170 to R172).
-/
namespace Sys2Proof.Machine

/-! ### Silence and restart (R171, R172) -/

/-- What a port loses when it goes SILENT: waiting requests, replies and notices; the request in service is orphaned (R171). -/
def PortState.shed (q : PortState) : PortState :=
  { q with
    requests := match q.requests with
      | [] => []
      | r :: _ => [{ r with orphaned := true }]
    replies := []
    notices := [] }

/-- Every link that a port owns is invalidated (R137). -/
def State.breakOwned (s : State) (p : Port) : State := s.breakLinks fun l => decide (l.owner = p)

/-- No frame has been delivered at an ONLINE port for 5 000 ms (R171). -/
def State.silenceDue (s : State) (p : Port) : Bool :=
  decide (s.part ≠ .start) && !(s.port p).silent && decide (Config.silence ≤ elapsed (s.port p).lastHeard s.clock)

/-- The port goes SILENT; in COMMISSION this is its status alone (R16, R171). -/
def State.goSilent (s : State) (p : Port) : State :=
  match s.part with
  | .start => s
  | .commission => s.onPort p fun q => { q with silent := true }
  | .service => (s.breakOwned p).onPort p fun q => { q.shed with silent := true }

/-- The default subscription of a port (R174). -/
def State.defaultMask (s : State) (p : Port) : BitVec 16 := defaultSubscription (s.role p)

/-- PORT-RESTART from a role that may send it, but for its reply (R172). -/
def State.restartPort (s : State) (p : Port) : State :=
  (s.breakOwned p).onPort p fun q =>
    { q.shed with
      subscription := s.defaultMask p, dropped := false, discards := 0, silent := false, lastHeard := s.clock }

/-- A DONE or DENIED reply to a PORT-RESTART taken at its delivery joins the reply list (R166, R172). -/
def State.replyRestart (s : State) (p : Port) (tag : Byte) (st : Status) (body : List Val) : State :=
  s.onPort p fun q => q.pushReply { kind := replyKind 0x29, tag := tag, status := st, body := body }

/-- A PORT-RESTART delivered in SERVICE (R166, R172). -/
def State.restartDelivered (s : State) (p : Port) (tag : Byte) : State :=
  match s.anyRole .none p with
  | some b =>
    let s1 := s.breach p 0x29 b.1 b.2
    (s1.replyRestart p tag .denied (s1.refusalBody b.2)).settle
  | none => ((s.restartPort p).replyRestart p tag .done []).settle

/-! ### Requests at delivery (R166) -/

/-- A delivered request joins the queue, or is answered BUSY when four are held (R166). -/
def PortState.enqueue (q : PortState) (r : Request) : PortState :=
  if q.requests.length < Config.requestCapacity then { q with requests := q.requests ++ [r] }
  else (q.pushReply (r.replyWith .busy [])).pump

/-- A request delivered at a port that has heard it (R166). -/
def State.requestDelivered (s : State) (p : Port) (kind tag : Byte) (payload : List Byte) : State :=
  if s.part = .service ∧ kind = 0x29 ∧ payload = [] then s.restartDelivered p tag
  else s.onPort p fun q => q.enqueue { kind := kind, tag := tag, payload := payload, orphaned := false }

/-- The kind lies in the report class (R164). -/
def isReportKind (kind : Byte) : Bool := decide (0x60 ≤ kind.toNat) && decide (kind.toNat ≤ 0x7F)

/-- A report frame taken in SERVICE; one that its form does not fit is discarded and counted (R170). -/
def State.takeReport (s : State) (p : Port) (kind : Byte) (payload : List Byte) : State :=
  match reportOf p kind payload with
  | some (.readingReport _ channel v) => s.takeReading p channel v
  | some (.hookOn _ crane lot) => s.takeCraneReport p 0x61 crane lot fun t c h => t.hookOnReport p c h
  | some (.land _ crane lot) => s.takeCraneReport p 0x62 crane lot fun t c h => t.landReport p c h
  | some (.landBack _ crane lot) => s.takeCraneReport p 0x63 crane lot fun t c h => t.landBackReport p c h
  | _ => s.discardAt p

/-- A whole frame with a good CRC is delivered at a port; in START it is discarded (R13, R164, R171). -/
def State.deliver (s : State) (p : Port) (kind tag : Byte) (payload : List Byte) : State :=
  match s.part with
  | .start => s
  | .commission => if isReportKind kind then s.hear p else (s.hear p).requestDelivered p kind tag payload
  | .service =>
    if isReportKind kind then (s.hear p).takeReport p kind payload else (s.hear p).requestDelivered p kind tag payload

/-! ### The receiver (R163) -/

/-- The receiver holds a partial frame. -/
def Receiver.partway : Receiver → Bool
  | .hunt => false
  | .length _ => true
  | .body _ _ => true
  | .crc _ _ => true

/-- A partial frame is discarded and the receiver hunts again; the discard is counted (R163). -/
def PortState.dropPartial (q : PortState) : PortState :=
  if q.receiver.partway then { q.discard with receiver := .hunt } else q

/-- What one character makes of the receiver: its next state, a discard, or a whole frame's kind, tag and payload. -/
inductive Received where
  | next (r : Receiver)
  | drop
  | frame (kind tag : Byte) (payload : List Byte)
deriving DecidableEq, Repr

/-- The frame CRC over the length, kind, tag and payload (R164). -/
def innerCrc (inner : List Byte) : BitVec 16 := crc16 (bytesOf 2 inner.length ++ inner)

/-- One character without framing error at the receiver (R163). -/
def Receiver.take (r : Receiver) (b : Byte) : Received :=
  match r with
  | .hunt => .next (if b = 0x7E then .length none else .hunt)
  | .length none => .next (.length (some b))
  | .length (some hi) =>
    let n := natOf [hi, b]
    if 2 ≤ n ∧ n ≤ 252 then .next (.body n []) else .drop
  | .body n got => .next (if n ≤ got.length + 1 then .crc (got ++ [b]) none else .body n (got ++ [b]))
  | .crc inner none => .next (.crc inner (some b))
  | .crc inner (some hi) =>
    if natOf [hi, b] = (innerCrc inner).toNat then
      match inner with
      | kind :: tag :: payload => .frame kind tag payload
      | _ => .drop
    else .drop

/-- The engine does work: the supply is good and the reset input is released (R13). -/
def State.running (s : State) : Bool := s.supply && !s.resetHeld

/-- One character arrives at a port: a gap above 10 ms has discarded a partial frame before it (R163). -/
def State.receive (s : State) (p : Port) (b : Byte) : State :=
  if s.running = false then s
  else
    let s1 := if Config.characterGap < elapsed (s.port p).lastChar s.clock then s.onPort p PortState.dropPartial else s
    let s2 := s1.onPort p fun q => { q with lastChar := s.clock }
    match (s2.port p).receiver.take b with
    | .next r => s2.onPort p fun q => { q with receiver := r }
    | .drop => s2.onPort p PortState.dropPartial
    | .frame kind tag payload => (s2.onPort p fun q => { q with receiver := .hunt }).deliver p kind tag payload

/-- The gap after the last character of a partial frame exceeds 10 ms (R163). -/
def State.characterLate (s : State) (p : Port) : Bool :=
  s.running && (s.port p).receiver.partway && decide (Config.characterGap < elapsed (s.port p).lastChar s.clock)

/-! ### The transmit line (R164, R165) -/

/-- The characters of a reply's frame: its kind, the request's tag, and the status with its body (Tables 9-1 to 9-3). -/
def Reply.bytes (r : Reply) : List Byte := frameBytes r.kind r.tag (encodeVals (.u8 (statusCode r.status) :: r.body))

/-- The characters of a notice's frame: its kind, tag 0, and the clock at issue, the subject and the fields (Tables 9-1 and
9-2). -/
def Notice.bytes (n : Notice) : List Byte :=
  frameBytes (noticeKindByte n.kind) 0 (encodeVals (.u32 n.clock.toNat :: .u8 n.subject :: n.body))

/-- The characters of a frame on a transmit line. -/
def OutFrame.bytes : OutFrame → List Byte
  | .reply r => r.bytes
  | .notice n => n.bytes

/-- The characters that a port's transmit line carries, none while the line is free (R175). -/
def State.lineBytes (s : State) (p : Port) : List Byte :=
  match (s.port p).line with
  | some f => f.bytes
  | none => []

end Sys2Proof.Machine
end

