-- ==== Sys2Proof/Machine/Start.lean ====
section
/-!
DEFINITION. Power, reset and START: the entry to START, its checks, the adjustment of the cranes, the emptying of the
condition, and the entry to SERVICE (R13 to R19).
-/
namespace Sys2Proof.Machine

/-- The fields of a record that fits its section and entry (R17). -/
def recordVals (sect entry : Nat) (record : List Byte) : Option (List Val) :=
  (recordTypes sect entry).bind fun ts => readAll (readVals ts) record

/-- The entry is replaced whole, the check word erased and the book UNCHECKED (R17). -/
def State.writeBook (s : State) (sect entry : Nat) (vs : List Val) : State :=
  { s with book := s.book.write sect entry vs, bookCheck := none, bookStatus := .unchecked }

/-- Section, entry and fields of a BOOK-WRITE in service at a port, in COMMISSION; none for one that fits no entry (R17). -/
def State.bookWriteAt (s : State) (p : Port) : Option (Nat × Nat × List Val) :=
  match s.part, s.inService p with
  | .commission, some r =>
    match commandOf p r.kind r.payload with
    | .bookWrite _ sect entry record => (recordVals sect entry record).map fun vs => (sect, entry, vs)
    | _ => none
  | _, _ => none

/-- The book as a start finds it: each BOOK-WRITE in service has erased the check word, its first act, and the one at the port
named has replaced its entry too (R17; log entry 13). -/
def State.cutWrites (s : State) (cut : Option Port) : State :=
  if (List.finRange 6).any fun p => (s.bookWriteAt p).isSome then
    { s with
      book := match cut.bind s.bookWriteAt with
        | some (sect, entry, vs) => s.book.write sect entry vs
        | none => s.book
      bookCheck := none
      bookStatus := .unchecked }
  else s

/-- The engine enters START: the clock is 0 and whatever was in flight is gone; the book, but for a BOOK-WRITE in service, and
the retained condition stand (R13, R17). `checks` says whether the START checks run. -/
def State.enterStart (s : State) (cut : Option Port) (checks : Bool) : State :=
  { s.cutWrites cut with part := .start, clock := 0, checking := checks, vol := Volatile.blank }

/-- The crane as a START that keeps the condition leaves it (R15). -/
def CraneState.afterStart : CraneState → CraneState
  | .lifting h d => .halted .lifting h d
  | .halted .lifting h d => .halted .lifting h d
  | .halted .cleared _ _ => .idle
  | .checking _ _ => .idle
  | .cleared _ _ => .idle
  | .idle => .idle

/-- The retained condition after the START check: kept with the crane adjustment where its check word agrees, otherwise
emptied (R15, R19). -/
def State.keptAfterStart (s : State) : Kept :=
  if s.keptCheck = some s.kept.word then { s.kept with cranes := s.kept.cranes.map CraneState.afterStart }
  else Kept.emptied s.book

/-- The volatile part of a crane after START: STALE alone where the crane is HALTED (R15). -/
def CraneState.liveAfterStart (k : CraneState) : CraneLive :=
  if k.isHalted then { CraneLive.blank with reasons := { vote := false, limit := false, stale := true } }
  else CraneLive.blank

/-- The volatile state is cleared: every value of R15, with the subscriptions by the roles of the book as stored; a receiver
keeps a frame that began after the entry to START (R13, R163). -/
def State.clearVolatile (s : State) : State :=
  { s with
    vol :=
      { Volatile.blank with
        cranes := s.kept.cranes.map CraneState.liveAfterStart
        ports := Vector.ofFn fun p =>
          { PortState.blank with
            receiver := (s.port p).receiver, lastChar := (s.port p).lastChar, subscription := s.defaultMask p } } }

/-- The book status by the stored check word (R1). -/
def State.statusNow (s : State) : BookStatus :=
  match s.bookCheck with
  | none => .unchecked
  | some w => if w = s.book.word then .valid else .unchecked

/-- The START checks, in their order, and the state they lead to (R13, R14). -/
def State.startChecks (s : State) (strapHigh : Bool) : State :=
  let s1 := { s with bookStatus := s.statusNow, strap := strapHigh }
  let s2 := s1.setKept s1.keptAfterStart
  let s3 := s2.clearVolatile
  let s4 := if s3.bookStatus = .valid then s3.buildSums else s3
  { s4 with
    checking := false
    part := if s4.bookStatus = .valid ∧ strapHigh = false then .service else .commission }

/-- BOOK-ACCEPT that fails a check (R18). -/
def State.bookFails (s : State) (p : Port) (f : BookFault) : State :=
  { s with vol.acceptance := .failed f.1 f.2.1 f.2.2 }.answer p .bookFault
    [.u8 f.1, .u16 f.2.1, .u8 (checkCodeByte f.2.2)]

/-- The book and the condition after a successful BOOK-ACCEPT: check word, VALID, emptied (R18, R19). -/
def State.acceptBook (s : State) : State :=
  { s with bookCheck := some s.book.word, bookStatus := .valid }.setKept (Kept.emptied s.book)

/-- The entry to SERVICE after a successful BOOK-ACCEPT: subscriptions, channels, cranes and sums (R18, R73, R79). -/
def State.enterService (s : State) : State :=
  { s with
    part := .service
    vol.acceptance := .passed
    vol.livePending := true
    vol.planPending := true
    vol.channels := Vector.replicate 39 ChannelLive.blank
    vol.cranes := Vector.replicate 4 CraneLive.blank
    vol.ports := Vector.ofFn fun p => { s.port p with subscription := s.defaultMask p } }.buildSums

/-- BOOK-ACCEPT in COMMISSION (R18). -/
def State.bookAccepted (s : State) (p : Port) : State :=
  match s.book.check with
  | some f => s.bookFails p f
  | none => ((s.acceptBook.enterService).answer p .bookValid [.u32 s.book.word.toNat]).settle

end Sys2Proof.Machine
end

