-- ==== Sys2Proof/Machine/BookCommands.lean ====
section
/-!
DEFINITION. The meanings of the Vessel Book's requests (R1, R17, R18, R20).
-/
namespace Sys2Proof.Machine

/-- BOOK_READ: the record as stored, from any port in COMMISSION and in SERVICE and whatever its role (R1). R168 denies a port of
role UNUSED every request; the model follows R1 here (log entry 44). -/
def execBookRead (p : Port) (sect entry : Nat) (s : State) : Host.Outcome State Fault Refusal :=
  .next (s.serve p (.bookRead p sect entry) .read (fun _ => none) fun t =>
    match t.book.read sect entry with
    | some vs => t.done p vs
    | none => t.malformed p)

/-- The acceptance result: NONE 0, PASSED 1, FAILED 2 with section, entry and check code (R1). -/
def acceptanceVals : Acceptance → List Val
  | .none => .u8 0 :: optVals none ++ optVals none ++ optVals none
  | .passed => .u8 1 :: optVals none ++ optVals none ++ optVals none
  | .failed sect entry code =>
    .u8 2 :: optVals (some [.u8 sect]) ++ optVals (some [.u16 entry]) ++ optVals (some [.u8 (checkCodeByte code)])

/-- The fields of BOOK-STATUS in the order of R1. -/
def State.bookStatusVals (s : State) : List Val :=
  [.u8 (partCode s.part), .u8 (bookStatusCode s.bookStatus)] ++ optVals (s.bookCheck.map fun w => [.u32 w.toNat]) ++
  [flagVal s.kept.notEstablished] ++ acceptanceVals s.vol.acceptance

/-- BOOK_STATUS, from any port in COMMISSION and in SERVICE and whatever its role (R1, R14; an UNUSED port: log entry 44). -/
def execBookStatus (p : Port) (s : State) : Host.Outcome State Fault Refusal :=
  .next (s.serve p (.bookStatus p) .read (fun _ => none) fun t => t.done p t.bookStatusVals)

/-- BOOK_WRITE (R17). -/
def execBookWrite (p : Port) (sect entry : Nat) (record : List Byte) (s : State) : Host.Outcome State Fault Refusal :=
  .next (s.serve p (.bookWrite p sect entry record) .book (fun _ => none) fun t =>
    match recordVals sect entry record with
    | none => t.malformed p
    | some vs => (t.writeBook sect entry vs).done p [])

/-- BOOK_ACCEPT (R18). -/
def execBookAccept (p : Port) (s : State) : Host.Outcome State Fault Refusal :=
  .next (s.serve p (.bookAccept p) .book (fun _ => none) fun t => t.bookAccepted p)

/-- CONDITION_CONFIRM: a set NOT-ESTABLISHED is cleared, and both jobs become pending (R20). -/
def execConditionConfirm (p : Port) (s : State) : Host.Outcome State Fault Refusal :=
  .next (s.serve p (.conditionConfirm p) .condition (State.officerOnly .none p) fun t =>
    let t1 := if t.kept.notEstablished then (t.setKept { t.kept with notEstablished := false }).pendLive.pendPlan else t
    (t1.done p []).settle)

end Sys2Proof.Machine
end

