-- ==== Sys2Proof/Machine/ChannelCommands.lean ====
section
/-!
DEFINITION. The meanings of the Channel Unit's commands: the reads, the tank and channel requests, readings, the applier and
the channel expiry (03).
-/
namespace Sys2Proof.Machine

/-- CHANNEL_READ (R72). -/
def execChannelRead (p : Port) (channel : Nat) (s : State) : Host.Outcome State Fault Refusal :=
  .next (s.serve p (.channelRead p channel) .read (State.anyRole (.channel channel) p) fun t =>
    match channelIdx channel with
    | some ch => t.done p (t.channelVals ch)
    | none => t.malformed p)

/-- TANK_READ (R72). -/
def execTankRead (p : Port) (tank : Nat) (s : State) : Host.Outcome State Fault Refusal :=
  .next (s.serve p (.tankRead p tank) .read (State.anyRole .none p) fun t =>
    match t.tankIdx tank with
    | some n => t.done p (t.tankVals n)
    | none => t.malformed p)

/-- A manual sounding is set on a tank: sounding and source MANUAL, with its contributions (R70). -/
def State.setManual (s : State) (n : TankNo) (sounding : Int) : State :=
  (s.changeTank n fun f => { f with applied := s.clampSounding n sounding }).setSource n .manual

/-- TANK_MANUAL (R70). -/
def execTankManual (p : Port) (tank : Nat) (sounding : Int) (s : State) : Host.Outcome State Fault Refusal :=
  .next (s.serve p (.tankManual p tank sounding) .condition (State.officerOnly .none p) fun t =>
    match t.tankIdx tank with
    | none => t.malformed p
    | some n =>
      let t1 := t.setManual n sounding
      (t1.done p [.i32 (t1.tank n).applied, .i32 (t1.currentContents n).weight]).settle)

/-- TANK_DENSITY (R71). -/
def execTankDensity (p : Port) (tank : Nat) (density : Int) (s : State) : Host.Outcome State Fault Refusal :=
  .next (s.serve p (.tankDensity p tank density) .condition (State.onlyRoles [.officer, .planner] .none p) fun t =>
    match t.tankIdx tank with
    | none => t.malformed p
    | some n =>
      let t1 := t.changeTank n fun f => { f with density := clamp 6000 20000 density }
      (t1.done p [.i32 (t1.tank n).density]).settle)

/-- TANK_PLAN: a planned fill clamped to 0 to depth, or none in the clearing form (R71). -/
def execTankPlan (p : Port) (tank : Nat) (fill : Option Int) (s : State) : Host.Outcome State Fault Refusal :=
  .next (s.serve p (.tankPlan p tank fill) .condition (State.onlyRoles [.officer, .planner] .none p) fun t =>
    match t.tankIdx tank with
    | none => t.malformed p
    | some n =>
      let t1 := t.changeTank n fun f => { f with planned := fill.map (t.clampSounding n) }
      (t1.done p (optVals ((t1.tank n).planned.map fun z => [.i32 z]))).settle)

/-- CHANNEL_RESTORE (R62); on an unfitted channel it changes nothing (R50). -/
def execChannelRestore (p : Port) (channel : Nat) (s : State) : Host.Outcome State Fault Refusal :=
  .next (s.serve p (.channelRestore p channel) .condition (State.officerOnly (.channel channel) p) fun t =>
    match channelIdx channel with
    | none => t.malformed p
    | some ch => ((if t.fitted ch then t.restoreChannel ch else t).done p []).settle)

/-- CHANNEL_MODE_CHANNEL (R61). -/
def execChannelModeChannel (p : Port) (channel mode : Nat) (s : State) : Host.Outcome State Fault Refusal :=
  .next (s.serve p (.channelModeChannel p channel mode) .condition (State.officerOnly (.channel channel) p) fun t =>
    match channelIdx channel with
    | none => t.malformed p
    | some ch =>
      if mode ≤ 2 then ((t.setMode ch (modeOf mode)).done p [.u8 mode]).settle
      else t.malformed p)

/-- CHANNEL_MODE_QUEUE_LEVEL (R54, R61). -/
def execChannelModeQueueLevel (p : Port) (level : Nat) (s : State) : Host.Outcome State Fault Refusal :=
  .next (s.serve p (.channelModeQueueLevel p level) .condition (State.officerOnly .none p) fun t =>
    let t1 := t.setQueueLevel level
    (t1.done p [.u8 t1.vol.queueLevel]).settle)

/-- READING_REPORT: a whole reading report is delivered at the port (R52, R170). -/
def execReadingReport (p : Port) (channel : Nat) (value : ReadingValue) (s : State) : Host.Outcome State Fault Refusal :=
  .next (s.reportDelivered p fun t => t.takeReading p channel value)

/-- APPLY_READING: the applier takes the head entry (R55); without effect outside SERVICE and on an empty queue (R16; log
entry 2). -/
def execApplyReading (s : State) : Host.Outcome State Fault Refusal :=
  .next (if s.part = .service ∧ s.vol.queue ≠ [] then s.applyHead.settle else s)

/-- CHANNEL_STALE_EXPIRY: the freshness interval of a fitted channel expires in SERVICE (R63). -/
def execChannelStaleExpiry (channel : ChannelNo) (s : State) : Host.Outcome State Fault Refusal :=
  .next (if s.part = .service ∧ s.channelExpired channel = true then (s.setStale channel).settle else s)

end Sys2Proof.Machine
end

