-- ==== Sys2Proof/Machine/CraneCommands.lean ====
section
/-!
DEFINITION. The meanings of the Crane Supervisor's commands (08).
-/
namespace Sys2Proof.Machine

/-- The crane of a number that exists under the crane count (R9, R143). -/
def State.craneFor (s : State) (n : Nat) : Option CraneNo :=
  (craneIdx n).bind fun c => if s.craneExists c then some c else none

/-- CRANE_READ (R162): open to every role but UNUSED; for a CRANE port in SERVICE, of its own cranes (R168; log entry 45). -/
def execCraneRead (p : Port) (crane : Nat) (s : State) : Host.Outcome State Fault Refusal :=
  .next (s.serve p (.craneRead p crane) .read (State.craneReader crane p) fun t =>
    match t.craneFor crane with
    | some c => t.done p (t.craneVals c)
    | none => t.malformed p)

/-- A stop vote of the requesting port is set or released, and the reply shows the votes then held (R158). -/
def State.serveVote (s : State) (p : Port) (c : CraneNo) (held : Bool) : State :=
  let s1 := s.castVote p c held
  ((s1.done p [.u8 (s1.votesMask c)]).countAll (haltEvents s s1)).settle

/-- STOP_VOTE_SET (R158); an action other than set or release is MALFORMED. -/
def execStopVoteSet (p : Port) (crane action : Nat) (s : State) : Host.Outcome State Fault Refusal :=
  .next (s.serve p (.stopVoteSet p crane action) .condition (State.voteGate crane p) fun t =>
    match t.craneFor crane with
    | some c => if action = 0 then t.serveVote p c true else t.malformed p
    | none => t.malformed p)

/-- STOP_VOTE_RELEASE (R158). -/
def execStopVoteRelease (p : Port) (crane : Nat) (s : State) : Host.Outcome State Fault Refusal :=
  .next (s.serve p (.stopVoteRelease p crane) .condition (State.voteGate crane p) fun t =>
    match t.craneFor crane with
    | some c => t.serveVote p c false
    | none => t.malformed p)

/-- A well-formed CLEAR-REQUEST: BUSY unless the crane is IDLE, then refused or begun (R147). -/
def State.requestClearance (s : State) (p : Port) (c : CraneNo) (h : Nat) (d : Direction) (q : Point) : State :=
  if s.craneState c ≠ .idle then s.answer p .busy []
  else match s.clearanceRefusal c h d with
    | some (st, v) => ((s.refuse p st v).count (s.clearanceEvent 1 (s.role p) h)).settle
    | none => (s.beginClearance p c h d q).settle

/-- CLEAR_REQUEST (R147). -/
def execClearRequest (p : Port) (crane lot direction : Nat) (worst : Point) (s : State) :
    Host.Outcome State Fault Refusal :=
  .next (s.serve p (.clearRequest p crane lot direction worst) .condition (State.ownCrane crane p) fun t =>
    match t.craneFor crane, directionOf direction with
    | some c, some d =>
      if handleOk lot && headOk t.book worst then t.requestClearance p c lot d worst else t.malformed p
    | _, _ => t.malformed p)

/-- CLEAR-CANCEL at a crane (R151). -/
def State.cancelClearance (s : State) (p : Port) (c : CraneNo) : State :=
  match s.craneState c with
  | .idle => s.done p []
  | .cleared _ _ => (((s.toIdle c).permitNotice c).done p []).settle
  | .halted .cleared _ _ => (((s.toIdle c).permitNotice c).done p []).settle
  | .checking _ _ => s.answer p .busy []
  | .lifting _ _ => s.answer p .busy []
  | .halted .lifting _ _ => s.answer p .busy []

/-- CLEAR_CANCEL (R151). -/
def execClearCancel (p : Port) (crane : Nat) (s : State) : Host.Outcome State Fault Refusal :=
  .next (s.serve p (.clearCancel p crane) .condition (State.ownCrane crane p) fun t =>
    match t.craneFor crane with
    | some c => t.cancelClearance p c
    | none => t.malformed p)

/-- HOOK_ON: a whole HOOK-ON report is delivered at the port (R152, R170). -/
def execHookOn (p : Port) (crane lot : Nat) (s : State) : Host.Outcome State Fault Refusal :=
  .next (s.reportDelivered p fun t => t.takeCraneReport p 0x61 crane lot fun u c h => u.hookOnReport p c h)

/-- LAND: a whole LAND report is delivered at the port (R155, R170). -/
def execLand (p : Port) (crane lot : Nat) (s : State) : Host.Outcome State Fault Refusal :=
  .next (s.reportDelivered p fun t => t.takeCraneReport p 0x62 crane lot fun u c h => u.landReport p c h)

/-- LAND_BACK: a whole LAND-BACK report is delivered at the port (R157, R170). -/
def execLandBack (p : Port) (crane lot : Nat) (s : State) : Host.Outcome State Fault Refusal :=
  .next (s.reportDelivered p fun t => t.takeCraneReport p 0x63 crane lot fun u c h => u.landBackReport p c h)

/-- HOOK_STALE_EXPIRY: the STALE interval of a crane expires in SERVICE (R160). -/
def execHookStaleExpiry (crane : CraneNo) (s : State) : Host.Outcome State Fault Refusal :=
  .next (if s.part = .service ∧ s.hookStale crane = true then (s.addStale crane).settle else s)

/-- CLEARANCE_TRIAL_COMPLETE: the running TRIAL of a crane completes (R120, R150); without effect where none runs (log entry
2). -/
def execClearanceTrialComplete (s : State) : Host.Outcome State Fault Refusal :=
  .next (match s.vol.running with
    | some { kind := .trial p, snap := snap } =>
      match s.trial p with
      | some { role := role, change := .crane c h d q } =>
        let s1 := s.endTrial p
        ((s1.decideClearance p role c h d (evaluate s.book snap)).count
          (s.trialEvent { role := role, change := .crane c h d q })).settle
      | some { change := .link _ _, .. } => s
      | none => s
    | some { kind := .live, .. } => s
    | some { kind := .plan, .. } => s
    | none => s)

/-- LIMIT_EVENT: the Supervisor takes its pending verdict (R117, R159); without effect where none is pending (log entry 2). -/
def execLimitEvent (s : State) : Host.Outcome State Fault Refusal :=
  .next (match s.vol.supervisor with
    | some v => if s.part = .service then (s.takeVerdict v).settle else s
    | none => s)

end Sys2Proof.Machine
end

