-- ==== Sys2Proof/Machine/EvaluatorCommands.lean ====
section
/-!
DEFINITION. The meanings of the Evaluator's requests and of the completion of LIVE and PLAN passes (05, 06).
-/
namespace Sys2Proof.Machine

/-- The set a byte names (R119). -/
def setOf : Nat → Option SetName
  | 0 => some .live
  | 1 => some .plan
  | _ => none

/-- The fields of VERDICT-READ: job state, generation, and the record or its absence (R119). -/
def State.verdictReadVals (s : State) (set : SetName) : List Val :=
  let state := match set with
    | .live => jobState s.vol.livePending (s.isRunning .live)
    | .plan => jobState s.vol.planPending (s.isRunning .plan)
  let record := match set with
    | .live => s.vol.liveVerdict
    | .plan => s.vol.planVerdict
  [.u8 state, .u64 s.kept.generation] ++ optVals (record.map verdictVals)

/-- VERDICT_READ (R119). -/
def execVerdictRead (p : Port) (set : Nat) (s : State) : Host.Outcome State Fault Refusal :=
  .next (s.serve p (.verdictRead p set) .read (State.anyRole .none p) fun t =>
    match setOf set with
    | some n => t.done p (t.verdictReadVals n)
    | none => t.malformed p)

/-- CAPTURE_READ (R124). -/
def execCaptureRead (p : Port) (s : State) : Host.Outcome State Fault Refusal :=
  .next (s.serve p (.captureRead p) .read (State.anyRole .none p) fun t =>
    t.done p (.u8 (captureModeCode t.vol.capture.mode) :: captureVals t.vol.capture.held))

/-- CAPTURE_CLEAR: the capture is emptied, and the reply shows what it held (R123). -/
def execCaptureClear (p : Port) (s : State) : Host.Outcome State Fault Refusal :=
  .next (s.serve p (.captureClear p) .condition (State.officerOnly .none p) fun t =>
    { t with vol.capture := { t.vol.capture with held := none } }.done p (captureVals t.vol.capture.held))

/-- CAPTURE_MODE: the mode is set and the capture emptied (R123). -/
def execCaptureMode (p : Port) (mode : Nat) (s : State) : Host.Outcome State Fault Refusal :=
  .next (s.serve p (.captureMode p mode) .condition (State.officerOnly .none p) fun t =>
    match captureModeOf mode with
    | none => t.malformed p
    | some m =>
      { t with vol.capture := { mode := m, held := none } }.done p
        (.u8 (captureModeCode m) :: captureVals t.vol.capture.held))

/-- CONDITION_MODE: a different mode is set and both jobs become pending (R101). -/
def execConditionMode (p : Port) (mode : Nat) (s : State) : Host.Outcome State Fault Refusal :=
  .next (s.serve p (.conditionMode p mode) .condition (State.officerOnly .none p) fun t =>
    match conditionModeOf mode with
    | none => t.malformed p
    | some m =>
      let t1 := if t.kept.mode = m then t else (t.setKept { t.kept with mode := m }).pendLive.pendPlan
      (t1.done p [.u8 (conditionModeCode m)]).settle)

/-- LIVE_PASS_COMPLETE: the running LIVE pass completes (R117); without effect where none runs (log entry 2). -/
def execLivePassComplete (s : State) : Host.Outcome State Fault Refusal :=
  .next (match s.vol.running with
    | some { kind := .live, snap := snap } => (s.completeLive snap).settle
    | some { kind := .plan, .. } => s
    | some { kind := .trial _, .. } => s
    | none => s)

/-- PLAN_PASS_COMPLETE: the running PLAN pass completes (R117); without effect where none runs (log entry 2). -/
def execPlanPassComplete (s : State) : Host.Outcome State Fault Refusal :=
  .next (match s.vol.running with
    | some { kind := .plan, snap := snap } => (s.completePlan snap).settle
    | some { kind := .live, .. } => s
    | some { kind := .trial _, .. } => s
    | none => s)

end Sys2Proof.Machine
end

