-- ==== Sys2Proof/Machine/LinkCommands.lean ====
section
/-!
DEFINITION. The meanings of the Link Monitors' and the Journal's commands, with the fixed items (07).
-/
namespace Sys2Proof.Machine

/-- The byte of an amendment's kind, numbered as in R127. -/
def amendmentCode (am : Amendment) : Nat := journalKindCode am.journalKind

/-- The fields of LINK-READ in the order of R138. -/
def State.linkVals (s : State) (g : Group) : List Val :=
  match s.link g with
  | none => [flagVal false] ++ optVals none ++ optVals none ++ optVals none ++ optVals none ++ [.u64 s.kept.generation]
  | some l =>
    [flagVal true] ++ optVals (some [.u8 l.owner.val]) ++ optVals (some [.u8 l.target]) ++
    optVals (l.staged.map fun am => [.u8 (amendmentCode am)]) ++ optVals (some [flagVal l.committing]) ++
    [.u64 s.kept.generation]

/-- LINK_READ (R138). -/
def execLinkRead (p : Port) (group : Nat) (s : State) : Host.Outcome State Fault Refusal :=
  .next (s.serve p (.linkRead p group) .read (State.anyRole .none p) fun t =>
    match groupIdx group with
    | some g => t.done p (t.linkVals g)
    | none => t.malformed p)

/-- The fields of one Journal entry (R140). -/
def journalVals (e : JournalEntry) : List Val :=
  [.u64 e.generation, .u8 (journalKindCode e.kind)] ++ optVals (e.handle.map fun h => [.u16 h]) ++
  optVals (e.space.map fun n => [.u8 n]) ++ optVals (e.item.map fun n => [.u8 n]) ++
  [.u8 e.port.val, .u8 (roleCode e.role), flagVal e.overridden]

/-- READ_JOURNAL (R141). -/
def execReadJournal (p : Port) (fromGen : Nat) (s : State) : Host.Outcome State Fault Refusal :=
  .next (s.serve p (.readJournal p fromGen) .read (State.anyRole .none p) fun t =>
    let gen := t.kept.generation
    if 64 < gen ∧ fromGen < gen - 63 then t.answer p .gone (t.refusalBody .none ++ [.u64 (gen - 63)])
    else
      let held := t.kept.journal.filter fun e => decide (fromGen ≤ e.generation)
      t.done p (listVals [.u64 gen, .u16 held.length] (held.map journalVals)))

/-- The index of a fixed item under the book's item count (R142). -/
def State.fixedIdx (s : State) (n : Nat) : Option (Fin 16) :=
  if h : n < 16 then (if n < s.book.fixedCount then some ⟨n, h⟩ else none) else none

/-- The fields of FIXED-READ in the order of R142. In COMMISSION a stored label of 215 characters or more makes the reply longer
than the 250 bytes of R164, and it is sent whole (log entry 50). -/
def State.fixedVals (s : State) (i : Fin 16) : List Val :=
  let f := s.kept.fixed[i.val]
  let b := s.book.fixed[i.val]
  [.text b.label, .i32 f.weight, .i32 f.x, .i32 f.z, .i32 f.y, .u8 (presenceCode f.presence), .i32 b.weight, .i32 b.x,
   .i32 b.z, .i32 b.y, .u8 b.presence]

/-- FIXED_READ (R142). -/
def execFixedRead (p : Port) (item : Nat) (s : State) : Host.Outcome State Fault Refusal :=
  .next (s.serve p (.fixedRead p item) .read (State.anyRole .none p) fun t =>
    match t.fixedIdx item with
    | some i => t.done p (t.fixedVals i)
    | none => t.malformed p)

/-- A fixed item's values lie in the ranges of FIXED-ITEMS (R12, R142). -/
def fixedOk (b : Book) (weight x z y : Int) (presence : Nat) : Bool :=
  within 1 200000 weight && xOk b x && within 0 80000 z && within (-40000) 40000 y && decide (presence ≤ 1)

/-- A fixed item takes new values as one applied change (R142). -/
def State.setFixed (s : State) (p : Port) (i : Fin 16) (f : FixedItem) : State :=
  (s.setKept { s.kept with fixed := s.kept.fixed.set i.val f i.isLt }).applied s
    { kind := .fixedSet, handle := none, space := none, item := some i.val, port := p, role := s.role p,
      overridden := false } [] [.fixed i]

/-- FIXED_SET (R142). -/
def execFixedSet (p : Port) (item : Nat) (weight x z y : Int) (presence : Nat) (s : State) :
    Host.Outcome State Fault Refusal :=
  .next (s.serve p (.fixedSet p item weight x z y presence) .condition (State.officerOnly .none p) fun t =>
    match t.fixedIdx item, fixedOk t.book weight x z y presence with
    | some i, true =>
      let t1 := t.setFixed p i { weight := weight, x := x, z := z, y := y, presence := presenceOf presence }
      (t1.done p [.u64 t1.kept.generation]).settle
    | _, _ => t.malformed p)

/-- The contents summary of a space (R128). -/
def State.summary (s : State) (space : Nat) (b : Space) : List Val :=
  [.u8 space, .u8 b.group, .i32 (s.liveWeight space), .i32 (s.planWeight space), .u16 (s.lotCount space),
   .u64 s.kept.generation]

/-- A claim of a space under its hold group's link, with LINK-TAKEN to an old owner other than the claimer (R128). -/
def State.takeLink (s : State) (p : Port) (g : Group) (space : Nat) : State :=
  let s1 := match s.link g with
    | some l =>
      if l.owner = p then s else s.issueTo l.owner .linkTaken 0 [.u8 (groupNo g), .u8 l.target, .u8 p.val]
    | none => s
  s1.setLink g (some { owner := p, target := space, staged := none, committing := false, override := false })

/-- CLAIM (R128). -/
def execClaim (p : Port) (space : Nat) (s : State) : Host.Outcome State Fault Refusal :=
  .next (s.serve p (.claim p space) .condition (State.onlyRoles linkRoles (.space space) p) fun t =>
    match t.spaceBook space with
    | none => t.refuse p .outOfSpace (.space space)
    | some b =>
      match groupIdx b.group with
      | none => t.refuse p .outOfSpace (.space space)
      | some g => ((t.takeLink p g space).done p (t.summary space b)).settle)

/-- An AMENDMENTS event with the port's role and the link's hold group (Table 10-1). -/
def State.amendmentEvent (s : State) (sub : Nat) (p : Port) (g : Group) : TallyEvent :=
  { cls := .amendments, sub := sub, role := some (s.role p), group := some (groupNo g), amount := 1 }

/-- STAGE on a link, by the table of R129. -/
def State.stageOn (s : State) (p : Port) (g : Group) (am : Amendment) : State :=
  match s.link g with
  | none => s.answer p .stageIgnored []
  | some l =>
    if l.owner ≠ p then s.answer p .stageIgnored []
    else if s.amendSpace am = some l.target ∧ l.staged = none then
      (s.setLink g (some { l with staged := some am })).done p []
    else (((s.setLink g none).answer p .linkLost []).count (s.amendmentEvent 3 p g))

/-- STAGE (R129); a hold group outside 1 to 6 and a field outside R21 are MALFORMED (R127). -/
def execStage (p : Port) (group : Nat) (amendment : Amendment) (s : State) : Host.Outcome State Fault Refusal :=
  .next (s.serve p (.stage p group amendment) .condition (State.stageGate group amendment p) fun t =>
    match groupIdx group, amendmentOk t.book amendment with
    | some g, true => (t.stageOn p g amendment).settle
    | _, _ => t.malformed p)

/-- The reply of a commit that the constraint check refuses: the link is invalidated (R131, R133). -/
def State.refuseCommit (s : State) (p : Port) (g : Group) (r : Refused) : State :=
  ((s.setLink g none).refuse p r.1 r.2).count (s.amendmentEvent 4 p g)

/-- A plan-only amendment that passes the check is applied at once (R131, R134). The new handle of a PLAN-LOAD follows the
generation without a presence byte, and the other kinds carry none (log entry 48). -/
def State.commitPlan (s : State) (p : Port) (g : Group) (am : Amendment) : State :=
  let s1 := s.applyAmendment am p (s.role p) false
  let handle : List Val := match am.handle with
    | none => [.u16 (s.amendTarget am)]
    | some _ => []
  (s1.answer p .accepted (.u64 s1.kept.generation :: handle)).count (s.amendmentEvent 0 p g)

/-- A live amendment that passes the check makes a TRIAL; the COMMIT stays in service (R132). -/
def State.commitLive (s : State) (p : Port) (g : Group) (l : Link) (am : Amendment) (override : Bool) : State :=
  let s1 := s.setLink g (some { l with committing := true, override := override })
  { s1 with vol.trials := s1.vol.trials.set p.val (some { role := s.role p, change := .link g am }) p.isLt }

/-- The reply LINK-LOST or LINK-ABSENT to a COMMIT, with the current generation (R134). -/
def State.replyLink (s : State) (p : Port) (st : Status) : State := s.answer p st [.u64 s.kept.generation]

/-- COMMIT on a link (R131). A PLAN-CANCEL staged before a HOOK-ON of its lot finds its link broken by R136 and is answered
LINK-ABSENT, where R38 says WRONG-STATE (log entry 51). -/
def State.commitOn (s : State) (p : Port) (g : Group) (override : Bool) : State :=
  match s.link g with
  | none => s.replyLink p .linkAbsent
  | some l =>
    if l.owner ≠ p then s.replyLink p .linkAbsent
    else match l.staged with
      | none => (s.setLink g none).replyLink p .linkAbsent
      | some am =>
        match s.checkAmendment am with
        | some r => s.refuseCommit p g r
        | none => if am.isLive then s.commitLive p g l am override else s.commitPlan p g am

/-- COMMIT (R131); a hold group outside 1 to 6 and an override byte other than 0 and 1 are MALFORMED (log entry 12). -/
def execCommit (p : Port) (group override : Nat) (s : State) : Host.Outcome State Fault Refusal :=
  .next (s.serve p (.commit p group override) .condition (State.commitGate group override p) fun t =>
    match groupIdx group with
    | none => t.malformed p
    | some g => if override ≤ 1 then (t.commitOn p g (override == 1)).settle else t.malformed p)

/-- RELEASE_LINK (R135). -/
def execReleaseLink (p : Port) (group : Nat) (s : State) : Host.Outcome State Fault Refusal :=
  .next (s.serve p (.releaseLink p group) .condition (State.onlyRoles linkRoles .none p) fun t =>
    match groupIdx group with
    | none => t.malformed p
    | some g =>
      match t.link g with
      | none => t.answer p .linkAbsent []
      | some l => if l.owner = p then (t.setLink g none).done p [] else t.answer p .linkAbsent [])

/-- The link of a completed TRIAL still stands: valid, owned by the TRIAL's port, committing (R133 case 1). -/
def State.committed (s : State) (p : Port) (g : Group) : Option Link :=
  match s.link g with
  | none => none
  | some l => if l.owner = p ∧ l.committing = true then some l else none

/-- A live amendment is applied at the completion of its TRIAL, with its reply and tally events (R133 cases 3 and 4). -/
def State.acceptLive (s : State) (p : Port) (g : Group) (am : Amendment) (f : Figures) (overridden : Bool) : State :=
  let s1 := s.applyAmendment am p (s.role p) overridden
  let st := if overridden then .acceptedOverridden else .accepted
  ((s1.answer p st (.u64 s1.kept.generation :: trialSummary f)).countAll
    (s.amendEvents am (s.role p) ++ [s.amendmentEvent (if overridden then 1 else 0) p g]))

/-- The decision on a completed link TRIAL, taking the first case of R133 that applies, whatever contributions the TRIAL was
granted with (log entry 53). -/
def State.decideCommit (s : State) (p : Port) (g : Group) (am : Amendment) (f : Figures) : State :=
  match s.committed p g with
  | none => (s.replyLink p .linkLost).count (s.amendmentEvent 3 p g)
  | some l =>
    match s.checkAmendment am with
    | some r => s.refuseCommit p g r
    | none =>
      if f.failing = false then s.acceptLive p g am f false
      else if l.override then s.acceptLive p g am f true
      else ((s.setLink g none).answer p .rejectedLimits (.u64 s.kept.generation :: trialSummary f)).count
        (s.amendmentEvent 2 p g)

/-- COMMIT_TRIAL_COMPLETE: the running TRIAL of a link completes (R120, R133); without effect where none runs (log entry 2). -/
def execCommitTrialComplete (s : State) : Host.Outcome State Fault Refusal :=
  .next (match s.vol.running with
    | some { kind := .trial p, snap := snap } =>
      match s.trial p with
      | some { role := role, change := .link g am } =>
        let s1 := s.endTrial p
        ((s1.decideCommit p g am (evaluate s.book snap)).count
          (s.trialEvent { role := role, change := .link g am })).settle
      | some { change := .crane _ _ _ _, .. } => s
      | none => s
    | some { kind := .live, .. } => s
    | some { kind := .plan, .. } => s
    | none => s)

end Sys2Proof.Machine
end

