-- ==== Sys2Proof/Machine/PortCommands.lean ====
section
/-!
DEFINITION. The meanings of the port events and of the requests that the Station Link Interface serves (09).
-/
namespace Sys2Proof.Machine

/-- FRAME_DELIVER: the characters arrive one after the other (R163). -/
def execFrameDeliver (p : Port) (chars : List Byte) (s : State) : Host.Outcome State Fault Refusal :=
  .next (chars.foldl (fun t b => t.receive p b) s)

/-- CHARACTER_TIMEOUT: a partial frame is discarded when the gap exceeds 10 ms (R163). -/
def execCharacterTimeout (p : Port) (s : State) : Host.Outcome State Fault Refusal :=
  .next (if s.characterLate p then s.onPort p PortState.dropPartial else s)

/-- FRAMING_ERROR: a character without stop bit discards a partial frame (R163). -/
def execFramingError (p : Port) (s : State) : Host.Outcome State Fault Refusal :=
  .next (if s.running then s.onPort p PortState.dropPartial else s)

/-- UNKNOWN_REQUEST: MALFORMED (R167 step 1). -/
def execUnknownRequest (p : Port) (s : State) : Host.Outcome State Fault Refusal :=
  .next (s.serveMalformed p (.unknownRequest p))

/-- The Access Fault Record as a reply gives it (R169). -/
def accessFaultVals (o : Option AccessFault) : List Val :=
  optVals (o.map fun f =>
    [.u8 f.port.val, .u8 (roleCode f.role), .u8 f.kind.toNat, .u8 (causeCode f.cause)] ++ faultVals f.value)

/-- FAULT_READ (R169). -/
def execFaultRead (p : Port) (s : State) : Host.Outcome State Fault Refusal :=
  .next (s.serve p (.faultRead p) .read (State.anyRole .none p) fun t => t.done p (accessFaultVals t.vol.accessFault))

/-- FAULT_CLEAR: the record is emptied, and the reply shows it as it stood (R169). -/
def execFaultClear (p : Port) (s : State) : Host.Outcome State Fault Refusal :=
  .next (s.serve p (.faultClear p) .condition (State.officerOnly .none p) fun t =>
    { t with vol.accessFault := none }.done p (accessFaultVals t.vol.accessFault))

/-- The fields of PORT-STATUS in the order of R176. -/
def State.portStatusVals (s : State) (q : Port) : List Val :=
  let r := s.port q
  let b := s.book.ports[q.val]
  [.u8 b.role, .u8 b.cranes, .u8 r.silent.toNat, .u16 r.requests.length, .u16 r.replies.length, .u16 r.notices.length,
   flagVal r.dropped, .u16 r.subscription.toNat, .u16 r.discards, .u8 (partCode s.part),
   .u8 (bookStatusCode s.bookStatus)]

/-- The port of a number 0 to 5. -/
def portIdx (n : Nat) : Option Port := if h : n < 6 then some ⟨n, h⟩ else none

/-- PORT_STATUS: the reply shows the dropped flag as it stood; the requesting port's own flag is then cleared (R176).
R14 shows the part state and the book status to any port by this read, which R176 serves from any role. R168 denies a port of
role UNUSED every request in SERVICE; the model follows R14 and R176 here (log entry 44). -/
def execPortStatus (p : Port) (port : Nat) (s : State) : Host.Outcome State Fault Refusal :=
  .next (s.serve p (.portStatus p port) .read (fun _ => none) fun t =>
    match portIdx port with
    | none => t.malformed p
    | some q =>
      let t1 := if q = p then t.onPort p fun r => { r with dropped := false } else t
      t1.done p (t.portStatusVals q))

/-- The subscription bits that name a notice kind (R174). -/
def subscriptionBits : BitVec 16 := 0x7FFF

/-- SUBSCRIBE: the subscription takes the mask without bit 15 (R174). -/
def execSubscribe (p : Port) (mask : Nat) (s : State) : Host.Outcome State Fault Refusal :=
  .next (s.serve p (.subscribe p mask) .condition (State.anyRole .none p) fun t =>
    let m := BitVec.ofNat 16 mask &&& subscriptionBits
    (t.onPort p fun q => { q with subscription := m }).done p [.u16 m.toNat])

/-- The service in SERVICE of a PORT-RESTART that joined the queue in COMMISSION: the restart, with its DONE reply (R172; log
entry 11). -/
def State.restartServed (s : State) (p : Port) : State :=
  match s.inService p with
  | none => s
  | some r => (((s.restartPort p).onPort p fun q => { q with requests := [] }).replyRestart p r.tag .done []).settle

/-- PORT_RESTART: with a tag, its delivery at the port; without, the service of one that joined the queue in COMMISSION
(R166, R172). -/
def execPortRestart (p : Port) (delivered : Option Byte) (s : State) : Host.Outcome State Fault Refusal :=
  .next (match delivered with
    | some tag => s.deliver p 0x29 tag []
    | none => s.serve p (.portRestart p none) .condition (State.anyRole .none p) fun t => t.restartServed p)

/-- PORT_SILENCE: the silence interval of an ONLINE port expires (R171). -/
def execPortSilence (p : Port) (s : State) : Host.Outcome State Fault Refusal :=
  .next (if s.silenceDue p then s.goSilent p else s)

/-- FRAME_SENT: the line is free, and begins the oldest reply or else the head notice (R175). -/
def execFrameSent (p : Port) (s : State) : Host.Outcome State Fault Refusal :=
  .next (s.onPort p fun q => { q with line := none }.pump)

end Sys2Proof.Machine
end

