-- ==== Sys2Proof/Machine/PowerCommands.lean ====
section
/-!
DEFINITION. The meanings of the power and reset commands and of the completion of the START checks (R13, R14).
-/
namespace Sys2Proof.Machine

/-- POWER_ON: the engine is in START from any state; the checks begin unless the reset input is held (R13). -/
def execPowerOn (s : State) : Host.Outcome State Fault Refusal :=
  .next ({ s with supply := true }.enterStart none (!s.resetHeld))

/-- RESET_ASSERT: the engine is in START from any state and does no work while the input stays asserted (R13, R17). -/
def execResetAssert (cut : Option Port) (s : State) : Host.Outcome State Fault Refusal :=
  .next ({ s with resetHeld := true }.enterStart cut false)

/-- RESET_RELEASE: the checks begin and the clock runs from 0; without effect where the input is not asserted (R13; log
entry 2). -/
def execResetRelease (s : State) : Host.Outcome State Fault Refusal :=
  .next (if s.resetHeld then { s with resetHeld := false, clock := 0, checking := s.supply } else s)

/-- START_CHECKS_COMPLETE: the START checks in their order, then SERVICE or COMMISSION; without effect where no checks run
(R13, R14; log entry 2). -/
def execStartChecksComplete (strapHigh : Bool) (s : State) : Host.Outcome State Fault Refusal :=
  .next (if s.running && s.checking && decide (s.part = .start) then (s.startChecks strapHigh).settle else s)

/-- POWER_LOSS: whatever is in flight ends; the book, but for a BOOK-WRITE in service, and the retained condition stand (R13, R17,
R19). -/
def execPowerLoss (cut : Option Port) (s : State) : Host.Outcome State Fault Refusal :=
  .next ({ s with supply := false }.enterStart cut false)

end Sys2Proof.Machine
end

