-- ==== Sys2Proof/Machine/StowageCommands.lean ====
section
/-!
DEFINITION. The meanings of the Stowage Table's requests (R23, R25, R26, R40).
-/
namespace Sys2Proof.Machine

/-- The direction of a HOOKED lot. -/
def LotState.direction : LotState → Option Direction
  | .hookedLoading _ => some .loading
  | .hookedDischarging _ _ => some .discharging
  | .planned => none
  | .stowed _ _ => none
  | .ashore _ => none

/-- The intent of a STOWED lot. -/
def LotState.intent : LotState → Option Intent
  | .stowed i _ => some i
  | .planned => none
  | .hookedLoading _ => none
  | .hookedDischarging _ _ => none
  | .ashore _ => none

/-- The crane of a HOOKED lot. -/
def LotState.crane : LotState → Option CraneNo
  | .hookedLoading c => some c
  | .hookedDischarging c _ => some c
  | .planned => none
  | .stowed _ _ => none
  | .ashore _ => none

/-- The stow time, present in STOWED and in HOOKED (DISCHARGING) (Table 2-1). -/
def LotState.stowTime? : LotState → Option Clock
  | .stowed _ t => some t
  | .hookedDischarging _ t => some t
  | .planned => none
  | .hookedLoading _ => none
  | .ashore _ => none

/-- The ashore time, present in ASHORE (Table 2-1). -/
def LotState.ashoreTime? : LotState → Option Clock
  | .ashore t => some t
  | .planned => none
  | .hookedLoading _ => none
  | .hookedDischarging _ _ => none
  | .stowed _ _ => none

/-- The fields of LOT-READ: Table 2-1 in its order, then the contributing weight and the LCG (R23). -/
def lotVals (h : Nat) (l : Lot) : List Val :=
  [.u16 h, .text l.mark, .u8 (lotStateCode l.state)] ++ optVals (l.state.direction.map fun d => [.u8 (directionCode d)]) ++
  optVals (l.state.intent.map fun i => [.u8 (intentCode i)]) ++ [.i32 l.declared] ++
  optVals (l.verified.map fun w => [.i32 w]) ++ [.u8 l.space] ++ positionVals l.pos ++
  optVals (l.hazard.map fun n => [.u8 n]) ++ optVals (l.state.crane.map fun c => [.u8 (craneNum c)]) ++
  optVals (l.state.stowTime?.map fun t => [clockVal t]) ++ optVals (l.state.ashoreTime?.map fun t => [clockVal t]) ++
  [.u8 l.originPort.val, .u8 (roleCode l.originRole), .i32 l.weight, .i32 (lcgOf l.pos)]

/-- LOT_READ (R23). -/
def execLotRead (p : Port) (handle : Nat) (s : State) : Host.Outcome State Fault Refusal :=
  .next (s.serve p (.lotRead p handle) .read (State.anyRole .none p) fun t =>
    if handleOk handle = false then t.malformed p
    else match t.kept.lot handle with
      | some l => t.done p (lotVals handle l)
      | none => t.refuse p .unknownLot (.handle handle))

/-- One entry of a stow sequence list: handle, state, intent or direction, contributing weight, span (R40). -/
def stowEntryVals (k : Kept) (h : Nat) : List Val :=
  match k.lot h with
  | none => []
  | some l =>
    let kind := match l.state.direction, l.state.intent with
      | some d, _ => directionCode d
      | none, some i => intentCode i
      | none, none => 0
    [.u16 h, .u8 (lotStateCode l.state), .u8 kind, .i32 l.weight, .i32 l.pos.a, .i32 l.pos.f]

/-- The fields of SPACE-READ in the order of R40. -/
def State.spaceVals (s : State) (space pos : Nat) (b : Space) : List Val :=
  let list := s.kept.stowList space
  listVals
    (b.vals ++ [.i32 (s.liveWeight space), .i32 (s.planWeight space), .u16 (s.lotCount space), .u64 s.kept.generation,
      .u16 list.length])
    ((list.drop pos).map (stowEntryVals s.kept))

/-- SPACE_READ (R40). -/
def execSpaceRead (p : Port) (space fromPos : Nat) (s : State) : Host.Outcome State Fault Refusal :=
  .next (s.serve p (.spaceRead p space fromPos) .read (State.anyRole (.space space) p) fun t =>
    match t.spaceBook space with
    | none => t.refuse p .outOfSpace (.space space)
    | some b => t.done p (t.spaceVals space fromPos b))

/-- One entry of the ashore list: handle and ashore time (R25). -/
def ashoreEntryVals (k : Kept) (h : Nat) : List Val :=
  match (k.lot h).bind fun l => l.state.ashoreTime? with
  | some t => [.u16 h, clockVal t]
  | none => [.u16 h, .u32 0]

/-- ASHORE_READ (R25). -/
def execAshoreRead (p : Port) (fromPos : Nat) (s : State) : Host.Outcome State Fault Refusal :=
  .next (s.serve p (.ashoreRead p fromPos) .read (State.anyRole .none p) fun t =>
    t.done p (listVals [.u16 t.kept.ashore.length] ((t.kept.ashore.drop fromPos).map (ashoreEntryVals t.kept))))

/-- The condition with every ASHORE lot freed and the ashore list empty (R26). -/
def Kept.purge (k : Kept) : Kept := { k.ashore.foldl Kept.freeLot k with ashore := [] }

/-- The ashore list is purged as one applied change (R26, R37). -/
def State.purgeAll (s : State) (p : Port) : State :=
  (s.setKept s.kept.purge).applied s
    { kind := .purgeAshore, handle := none, space := none, item := none, port := p, role := s.role p, overridden := false }
    (s.kept.ashore.filterMap fun h => (s.kept.lot h).map Lot.space) []

/-- PURGE_ASHORE (R26). -/
def execPurgeAshore (p : Port) (s : State) : Host.Outcome State Fault Refusal :=
  .next (s.serve p (.purgeAshore p) .condition (State.officerOnly .none p) fun t =>
    let t1 := if t.kept.ashore = [] then t else t.purgeAll p
    t1.done p [.u16 t.kept.ashore.length, .u64 t1.kept.generation])

end Sys2Proof.Machine
end

