-- ==== Sys2Proof/Machine/TallyCommands.lean ====
section
/-!
DEFINITION. The meanings of the Tally Unit's requests (10).
-/
namespace Sys2Proof.Machine

/-- The subevent bits of each class (Table 10-1). -/
def subeventBits : Nat → BitVec 8
  | 1 => 0x3F
  | 2 => 0x03
  | 3 => 0x1F
  | 4 => 0x07
  | 5 => 0x0F
  | 6 => 0x0F
  | 7 => 0x01
  | _ => 0

/-- The bits of the six roles and of the six hold groups (R177). -/
def sixBits : BitVec 8 := 0x3F

/-- The control that TALLY-CONTROL stores: bits that name no subevent, role or hold group are clear (R181). -/
def storedControl (c : ControlFields) : TallyControl :=
  { cls := c.cls
    subevents := BitVec.ofNat 8 c.subevents &&& subeventBits c.cls
    roles := BitVec.ofNat 8 c.roles &&& sixBits
    groups := BitVec.ofNat 8 c.groups &&& sixBits
    inhibit := c.inhibit == 1
    notice := c.notice == 1
    readable := BitVec.ofNat 8 c.readable &&& sixBits }

/-- The fields of a control in the order of R177. -/
def TallyControl.vals (c : TallyControl) : List Val :=
  [.u8 c.cls, .u8 c.subevents.toNat, .u8 c.roles.toNat, .u8 c.groups.toNat, flagVal c.inhibit, flagVal c.notice,
   .u8 c.readable.toNat]

/-- The state with a tally changed. -/
def State.onTally (s : State) (i : Fin 8) (f : Tally → Tally) : State :=
  { s with vol.tallies := updAt s.vol.tallies i f }

/-- The class lies within 0 to 7 and the two flags are set or clear (R181; log entry 12). -/
def controlOk (c : ControlFields) : Bool := decide (c.cls ≤ 7) && decide (c.inhibit ≤ 1) && decide (c.notice ≤ 1)

/-- READ_TALLY (R183); a tally above 7 fails the form step (R167). -/
def execReadTally (p : Port) (tally : Nat) (s : State) : Host.Outcome State Fault Refusal :=
  .next (match tallyIdx tally with
    | none => s.serveMalformed p (.readTally p tally)
    | some i =>
      s.serve p (.readTally p tally) .read (State.tallyGate tally p) fun t =>
        let y := t.vol.tallies[i.val]
        t.done p ([.u32 y.value, flagVal y.overflow] ++ y.control.vals))

/-- TALLY_CONTROL (R181). -/
def execTallyControl (p : Port) (tally : Nat) (control : ControlFields) (s : State) : Host.Outcome State Fault Refusal :=
  .next (s.serve p (.tallyControl p tally control) .condition (State.officerOnly .none p) fun t =>
    match tallyIdx tally, controlOk control with
    | some i, true => (t.onTally i fun y => { y with control := storedControl control }).done p (storedControl control).vals
    | _, _ => t.malformed p)

/-- TALLY_SET (R182). -/
def execTallySet (p : Port) (tally value : Nat) (s : State) : Host.Outcome State Fault Refusal :=
  .next (s.serve p (.tallySet p tally value) .condition (State.officerOnly .none p) fun t =>
    match tallyIdx tally with
    | none => t.malformed p
    | some i =>
      let y := t.vol.tallies[i.val]
      (t.onTally i fun y => { y with value := value, overflow := false }).done p [.u32 y.value, flagVal y.overflow])

end Sys2Proof.Machine
end

