-- ==== Sys2Proof/Machine/Dispatch.lean ====
section
/-!
DEFINITION. The one dispatch from a command to its meaning.
-/
namespace Sys2Proof.Machine

/-- The effect of a command on the engine, the queue of waiting commands apart. -/
def exec (i : Instr) (s : State) : Host.Outcome State Fault Refusal :=
  match i with
  | .powerOn => Sys2Proof.Machine.execPowerOn s
  | .resetAssert cut => Sys2Proof.Machine.execResetAssert cut s
  | .resetRelease => Sys2Proof.Machine.execResetRelease s
  | .startChecksComplete strapHigh => Sys2Proof.Machine.execStartChecksComplete strapHigh s
  | .frameDeliver p chars => Sys2Proof.Machine.execFrameDeliver p chars s
  | .characterTimeout p => Sys2Proof.Machine.execCharacterTimeout p s
  | .framingError p => Sys2Proof.Machine.execFramingError p s
  | .unknownRequest p => Sys2Proof.Machine.execUnknownRequest p s
  | .bookRead p sect entry => Sys2Proof.Machine.execBookRead p sect entry s
  | .bookStatus p => Sys2Proof.Machine.execBookStatus p s
  | .bookWrite p sect entry record => Sys2Proof.Machine.execBookWrite p sect entry record s
  | .bookAccept p => Sys2Proof.Machine.execBookAccept p s
  | .lotRead p handle => Sys2Proof.Machine.execLotRead p handle s
  | .spaceRead p space fromPos => Sys2Proof.Machine.execSpaceRead p space fromPos s
  | .ashoreRead p fromPos => Sys2Proof.Machine.execAshoreRead p fromPos s
  | .channelRead p channel => Sys2Proof.Machine.execChannelRead p channel s
  | .tankRead p tank => Sys2Proof.Machine.execTankRead p tank s
  | .verdictRead p set => Sys2Proof.Machine.execVerdictRead p set s
  | .captureRead p => Sys2Proof.Machine.execCaptureRead p s
  | .linkRead p group => Sys2Proof.Machine.execLinkRead p group s
  | .readJournal p fromGen => Sys2Proof.Machine.execReadJournal p fromGen s
  | .fixedRead p item => Sys2Proof.Machine.execFixedRead p item s
  | .craneRead p crane => Sys2Proof.Machine.execCraneRead p crane s
  | .faultRead p => Sys2Proof.Machine.execFaultRead p s
  | .portStatus p port => Sys2Proof.Machine.execPortStatus p port s
  | .readTally p tally => Sys2Proof.Machine.execReadTally p tally s
  | .claim p space => Sys2Proof.Machine.execClaim p space s
  | .stage p group amendment => Sys2Proof.Machine.execStage p group amendment s
  | .commit p group override => Sys2Proof.Machine.execCommit p group override s
  | .releaseLink p group => Sys2Proof.Machine.execReleaseLink p group s
  | .fixedSet p item weight x z y presence => Sys2Proof.Machine.execFixedSet p item weight x z y presence s
  | .tankManual p tank sounding => Sys2Proof.Machine.execTankManual p tank sounding s
  | .tankDensity p tank density => Sys2Proof.Machine.execTankDensity p tank density s
  | .tankPlan p tank fill => Sys2Proof.Machine.execTankPlan p tank fill s
  | .channelRestore p channel => Sys2Proof.Machine.execChannelRestore p channel s
  | .channelModeChannel p channel mode => Sys2Proof.Machine.execChannelModeChannel p channel mode s
  | .channelModeQueueLevel p level => Sys2Proof.Machine.execChannelModeQueueLevel p level s
  | .captureClear p => Sys2Proof.Machine.execCaptureClear p s
  | .captureMode p mode => Sys2Proof.Machine.execCaptureMode p mode s
  | .faultClear p => Sys2Proof.Machine.execFaultClear p s
  | .conditionMode p mode => Sys2Proof.Machine.execConditionMode p mode s
  | .conditionConfirm p => Sys2Proof.Machine.execConditionConfirm p s
  | .purgeAshore p => Sys2Proof.Machine.execPurgeAshore p s
  | .tallyControl p tally control => Sys2Proof.Machine.execTallyControl p tally control s
  | .tallySet p tally value => Sys2Proof.Machine.execTallySet p tally value s
  | .stopVoteSet p crane action => Sys2Proof.Machine.execStopVoteSet p crane action s
  | .stopVoteRelease p crane => Sys2Proof.Machine.execStopVoteRelease p crane s
  | .clearRequest p crane lot direction worst => Sys2Proof.Machine.execClearRequest p crane lot direction worst s
  | .clearCancel p crane => Sys2Proof.Machine.execClearCancel p crane s
  | .subscribe p mask => Sys2Proof.Machine.execSubscribe p mask s
  | .portRestart p delivered => Sys2Proof.Machine.execPortRestart p delivered s
  | .readingReport p channel value => Sys2Proof.Machine.execReadingReport p channel value s
  | .hookOn p crane lot => Sys2Proof.Machine.execHookOn p crane lot s
  | .land p crane lot => Sys2Proof.Machine.execLand p crane lot s
  | .landBack p crane lot => Sys2Proof.Machine.execLandBack p crane lot s
  | .applyReading => Sys2Proof.Machine.execApplyReading s
  | .channelStaleExpiry channel => Sys2Proof.Machine.execChannelStaleExpiry channel s
  | .hookStaleExpiry crane => Sys2Proof.Machine.execHookStaleExpiry crane s
  | .portSilence p => Sys2Proof.Machine.execPortSilence p s
  | .livePassComplete => Sys2Proof.Machine.execLivePassComplete s
  | .planPassComplete => Sys2Proof.Machine.execPlanPassComplete s
  | .commitTrialComplete => Sys2Proof.Machine.execCommitTrialComplete s
  | .clearanceTrialComplete => Sys2Proof.Machine.execClearanceTrialComplete s
  | .limitEvent => Sys2Proof.Machine.execLimitEvent s
  | .frameSent p => Sys2Proof.Machine.execFrameSent p s
  | .powerLoss cut => Sys2Proof.Machine.execPowerLoss cut s

end Sys2Proof.Machine
end

