-- ==== Sys2Proof/Machine/Step.lean ====
section
/-!
DEFINITION. One step of the engine: the command at the front of the queue, or a tick of the clock on an empty queue.
-/
namespace Sys2Proof.Machine

/-- One millisecond passes: the clock counts while the supply is good and the reset input is released (R13). -/
def State.tick (s : State) : State := if s.running then { s with clock := s.clock + 1 } else s

/-- The command at the front of the queue is taken and run with the queue's rest; on an empty queue a millisecond passes.
DESIGN CHOICE (log entries 1 and 3). -/
def step (s : State) : Host.Outcome State Fault Refusal :=
  match s.pending with
  | [] => .next s.tick
  | c :: rest => exec c { s with pending := rest }

/-- The state with the command that a table word spells put at the front of the queue; unchanged where the word spells none. -/
def State.withFetchWord (s : State) (nbits w : Nat) : State :=
  match decodeTableWord nbits w with
  | some c => { s with pending := c :: s.pending }
  | none => s

end Sys2Proof.Machine
end

