-- ==== Sys2Proof/Safety.lean ====
section
/-!
DEFINITION. What a safe state of the engine is: the retained store agrees with its check word, every bounded list is within
its bound, the arbiter never idles while work waits, the Stowage Table agrees with its lists, its cranes and its Journal, and
the sums are exact; and the terms in which statements say who may ask for what, what a command changes, and what the
arithmetic, a pass and the constraint check compute.
-/
namespace Sys2Proof.Machine

/-- The retained condition stands in its store with its check word, from the end of the START checks on (R19). -/
def State.stored (s : State) : Prop := s.part ≠ .start → s.keptCheck = some s.kept.word

/-- The lists of a port are within their bounds: four requests, eight replies, sixteen notices, and the discard count (R163,
R166, R173). -/
def PortState.bounded (q : PortState) : Prop :=
  q.requests.length ≤ 4 ∧ q.replies.length ≤ 8 ∧ q.notices.length ≤ 16 ∧ q.discards ≤ 65535

/-- Every port's lists are within their bounds (R163, R166, R173). -/
def State.portsBounded (s : State) : Prop := ∀ p : Port, (s.port p).bounded

/-- The Reading Queue holds at most 64 entries and at most one for each channel (R52). -/
def State.queueBounded (s : State) : Prop :=
  s.vol.queue.length ≤ 64 ∧ (s.vol.queue.map QueueEntry.channel).Nodup

/-- The LRU order is an ordering of the six ports (R114). -/
def State.lruOrder (s : State) : Prop := s.vol.lru.Perm [0, 1, 2, 3, 4, 5]

/-- In SERVICE a free arbiter has no job waiting (R112). -/
def State.arbiterBusy (s : State) : Prop :=
  s.part = .service → s.vol.running = none →
    s.vol.livePending = false ∧ s.vol.planPending = false ∧ ∀ p : Port, s.trial p = none

/-- The evaluator's order and its arbiter (R112, R114). -/
def State.evaluatorInv (s : State) : Prop := s.lruOrder ∧ s.arbiterBusy

/-- The Journal holds the entries of every generation from the greater of 1 and the current generation less 63 to the current
generation, in ascending order (R140). -/
def Kept.journalInv (k : Kept) : Prop :=
  k.journal.map JournalEntry.generation =
    List.range' (k.generation + 1 - min k.generation 64) (min k.generation 64)

/-- The lot is in a stow sequence list: STOWED or HOOKED (DISCHARGING) (R39). -/
def LotState.listed : LotState → Bool
  | .stowed _ _ => true
  | .hookedDischarging _ _ => true
  | .planned => false
  | .hookedLoading _ => false
  | .ashore _ => false

/-- The lot is ASHORE. -/
def LotState.isAshore : LotState → Bool
  | .ashore _ => true
  | .planned => false
  | .hookedLoading _ => false
  | .hookedDischarging _ _ => false
  | .stowed _ _ => false

/-- The lot records stand in strictly rising order of handle, each handle below 1024, each in one of the 48 spaces (R21). -/
def Kept.lotsInv (k : Kept) : Prop :=
  tableWf Config.handles k.lots = true ∧ ∀ h l, k.lot h = some l → l.space < 48

/-- The ashore list holds the handles of all ASHORE lots, each once (R25). -/
def Kept.ashoreInv (k : Kept) : Prop :=
  k.ashore.Nodup ∧ ∀ h, h ∈ k.ashore ↔ ∃ l, k.lot h = some l ∧ l.state.isAshore = true

/-- A lot is in a space's stow sequence list exactly when it is STOWED or HOOKED (DISCHARGING), and then in its own space's
list and once (R39). -/
def Kept.stowInv (k : Kept) : Prop :=
  ∀ n, (k.stowList n).Nodup ∧
    ∀ h, h ∈ k.stowList n ↔ ∃ l, k.lot h = some l ∧ l.state.listed = true ∧ l.space = n

/-- A lot is HOOKED on a crane, in a direction, exactly when that crane, in LIFTING or HALTED from LIFTING, names it with that
direction (R143, R145). -/
def Kept.hookInv (k : Kept) : Prop :=
  ∀ (c : CraneNo) h d, k.cranes[c.val].lift = some (h, d) ↔
    ∃ l, k.lot h = some l ∧ l.state.crane = some c ∧ l.state.direction = some d

/-- The Stowage Table agrees with its lists and with the crane records (R21, R25, R39, R145). -/
def Kept.tableInv (k : Kept) : Prop := k.lotsInv ∧ k.ashoreInv ∧ k.stowInv ∧ k.hookInv

/-- While the book is VALID and the engine has left START, each sum set is exactly the sum of the contributions of the items
that the contributor table assigns to it (R74, R75). -/
def State.sumsInv (s : State) : Prop :=
  s.bookStatus = .valid → s.part ≠ .start → s.vol.live = s.builtLive ∧ s.vol.plan = s.builtPlan

/-- A free line has nothing waiting for it (R175). -/
def PortState.lineInv (q : PortState) : Prop := q.line = none → q.replies = [] ∧ q.notices = []

/-- At no port does a reply or a notice wait for a free line (R175). -/
def State.linesInv (s : State) : Prop := ∀ p : Port, (s.port p).lineInv

/-! ### What a command changes (R37, R78) -/

/-- From `s` to `u` the contributions of these items move in both sum sets, and a set whose sums change becomes pending;
`cause` makes LIVE pending whether or not its sums change (R78, R107). -/
def State.resums (s u : State) (items : List Item) (cause : Bool) : Prop :=
  u.vol.live = shiftSums s.vol.live (items.map s.itemLive) (items.map u.itemLive) ∧
  u.vol.plan = shiftSums s.vol.plan (items.map s.itemPlan) (items.map u.itemPlan) ∧
  (u.vol.livePending = true ↔ s.vol.livePending = true ∨ u.vol.live ≠ s.vol.live ∨ cause = true) ∧
  (u.vol.planPending = true ↔ s.vol.planPending = true ∨ u.vol.plan ≠ s.vol.plan)

/-- `u` is `s` but for the retained condition, written to its store with its check word, and the sums with their pending
marks (R19, R78). -/
def State.sameButCondition (s u : State) : Prop :=
  u = { s with
    kept := u.kept
    keptCheck := some u.kept.word
    vol.live := u.vol.live
    vol.plan := u.vol.plan
    vol.livePending := u.vol.livePending
    vol.planPending := u.vol.planPending }

/-- From `s` to `u` a change of the table is applied: the generation advances by one, the Journal takes the change's entry and
keeps the newest 64, every link on an affected space is invalidated, and the items' contributions move (R37, R136, R140). -/
def State.appliesChange (s u : State) (r : ChangeRecord) (affected : List Nat) (items : List Item) : Prop :=
  u.kept.generation = s.kept.generation + 1 ∧
  u.kept.journal =
    (s.kept.journal ++
      [({ generation := s.kept.generation + 1, kind := r.kind, handle := r.handle, space := r.space, item := r.item,
          port := r.port, role := r.role, overridden := r.overridden } : JournalEntry)]).drop (s.kept.journal.length + 1 - 64) ∧
  u.keptCheck = some u.kept.word ∧
  (∀ g : Group, u.link g = (s.link g).filter fun l => !affected.contains l.target) ∧
  s.resums u items false

/-- `u` is `s` but for what an applied change can reach: the retained condition with its check word, the links, and the sums
with their pending marks (R37). -/
def State.sameButChange (s u : State) : Prop :=
  u = { s with
    kept := u.kept
    keptCheck := u.keptCheck
    vol.links := u.vol.links
    vol.live := u.vol.live
    vol.plan := u.vol.plan
    vol.livePending := u.vol.livePending
    vol.planPending := u.vol.planPending }

/-- From `s` to `u` an amendment committed at a port is applied: its effect on the lots and the lists, and the one applied
change that records it (R27 to R33, R37). -/
def State.amends (s u : State) (am : Amendment) (p : Port) (overridden : Bool) : Prop :=
  s.sameButChange u ∧
  u.kept = { s.amendKept am p (s.role p) with generation := u.kept.generation, journal := u.kept.journal } ∧
  s.appliesChange u
    { kind := am.journalKind, handle := some (s.amendTarget am), space := s.amendSpace am, item := none, port := p,
      role := s.role p, overridden := overridden }
    (((s.kept.lot (s.amendTarget am)).map Lot.space).toList ++ ((u.kept.lot (s.amendTarget am)).map Lot.space).toList)
    [.lot (s.amendTarget am)]

/-- From the condition of `s` to `k` the amendment `am`, committed at a port of this role, has its effect on the lot of handle
`h` and on the lists: every other lot, every other list and every field but the generation and the Journal stand (R24, R27 to
R33). -/
def State.amendedTo (s : State) (k : Kept) (h : Nat) (am : Amendment) (p : Port) (role : Role) : Prop :=
  let old := s.kept
  let changed := fun l : Lot => { l with originPort := p, originRole := role }
  let listsStand := (∀ n, k.stowList n = old.stowList n) ∧ k.ashore = old.ashore
  k = { old with lots := k.lots, stow := k.stow, ashore := k.ashore, generation := k.generation, journal := k.journal } ∧
  (∀ j, j ≠ h → k.lot j = old.lot j) ∧
  match am with
  | .planLoad mark weight n q hazard =>
    (∀ m, k.stowList m = old.stowList m) ∧
    ((h < 1024 ∧ old.lot h = none ∧ (∀ j < h, old.lot j ≠ none) ∧ k.ashore = old.ashore) ∨
      ((∀ j < 1024, old.lot j ≠ none) ∧ old.ashore = h :: k.ashore)) ∧
    k.lot h = some { mark := mark, state := .planned, declared := weight, verified := none, space := n, pos := q,
                     hazard := hazard, originPort := p, originRole := role }
  | .planShift g n q =>
    g = h ∧ listsStand ∧ ∃ l, old.lot h = some l ∧ l.state = .planned ∧
      k.lot h = some (changed { l with space := n, pos := q })
  | .planCancel g =>
    g = h ∧ listsStand ∧ (∃ l, old.lot h = some l ∧ l.state = .planned) ∧ k.lot h = none
  | .markDischarge g =>
    g = h ∧ listsStand ∧ ∃ l t, old.lot h = some l ∧ l.state = .stowed .keep t ∧
      k.lot h = some (changed { l with state := .stowed .discharge t })
  | .unmark g =>
    g = h ∧ listsStand ∧ ∃ l t, old.lot h = some l ∧ l.state = .stowed .discharge t ∧
      k.lot h = some (changed { l with state := .stowed .keep t })
  | .directStow g =>
    g = h ∧ k.ashore = old.ashore ∧ ∃ l, old.lot h = some l ∧ l.state = .planned ∧
      k.lot h = some (changed { l with state := .stowed .keep s.clock }) ∧
      ∀ m, k.stowList m = if m = l.space then old.stowList m ++ [h] else old.stowList m
  | .restow g n q =>
    g = h ∧ k.ashore = old.ashore ∧ ∃ l i t, old.lot h = some l ∧ l.state = .stowed i t ∧
      k.lot h = some (changed { l with space := n, pos := q, state := .stowed i s.clock }) ∧
      ∀ m, k.stowList m =
        (if m = l.space then (old.stowList m).filter fun j => j ≠ h else old.stowList m) ++ (if m = n then [h] else [])
  | .directRemove g =>
    g = h ∧ k.ashore = old.ashore ++ [h] ∧ ∃ l i t, old.lot h = some l ∧ l.state = .stowed i t ∧
      k.lot h = some (changed { l with state := .ashore s.clock }) ∧
      ∀ m, k.stowList m = if m = l.space then (old.stowList m).filter fun j => j ≠ h else old.stowList m
  | .correctWeight g w =>
    g = h ∧ listsStand ∧ ∃ l, old.lot h = some l ∧ (l.state = .planned ∨ ∃ i t, l.state = .stowed i t) ∧
      k.lot h = some (changed { l with verified := some w })

/-- Several notices are issued, one after the other, each with its kind, subject and fields (R173). -/
def State.issues (s : State) (ns : List (NoticeKind × Nat × List Val)) : State :=
  ns.foldl (fun t n => t.issue n.1 n.2.1 n.2.2) s

/-- A tally offered an event (R179). -/
def Tally.offered (y : Tally) (e : TallyEvent) : Tally := if y.matchesEvent e then y.add e.amount else y

/-! ### Who may ask for what (R168) -/

/-- The roles that may send anything at all. -/
def usedRoles : List Role := [.officer, .planner, .crane, .gauge, .shore]

/-- The roles that R168 lets send a request, but for the part of a rule that looks beyond the role; none for the rows that
are no request, for the two that SERVICE does not take, and for the three reads that R1 and R14
give to any port (log entry 44). -/
def accessRoles : Instr → Option (List Role)
  | .lotRead _ _ | .spaceRead _ _ _ | .ashoreRead _ _ | .channelRead _ _ | .tankRead _ _ | .verdictRead _ _
  | .captureRead _ | .linkRead _ _ | .readJournal _ _ | .fixedRead _ _
  | .craneRead _ _ | .faultRead _ | .readTally _ _ | .subscribe _ _ | .portRestart _ none =>
    some usedRoles
  | .claim _ _ | .stage _ _ _ | .commit _ _ _ | .releaseLink _ _ => some [.officer, .planner, .shore]
  | .fixedSet _ _ _ _ _ _ _ | .tankManual _ _ _ | .channelRestore _ _ | .channelModeChannel _ _ _
  | .channelModeQueueLevel _ _ | .captureClear _ | .captureMode _ _ | .faultClear _ | .conditionMode _ _
  | .conditionConfirm _ | .purgeAshore _ | .tallyControl _ _ _ | .tallySet _ _ _ => some [.officer]
  | .tankDensity _ _ _ | .tankPlan _ _ _ => some [.officer, .planner]
  | .stopVoteSet _ _ _ | .stopVoteRelease _ _ => some [.officer, .planner, .crane]
  | .clearRequest _ _ _ _ _ | .clearCancel _ _ => some [.crane]
  | .bookRead _ _ _ | .bookStatus _ | .portStatus _ _ | .bookWrite _ _ _ _ | .bookAccept _ | .unknownRequest _
  | .portRestart _ (some _) | .powerOn | .resetAssert _
  | .resetRelease | .startChecksComplete _ | .frameDeliver _ _ | .characterTimeout _ | .framingError _
  | .readingReport _ _ _ | .hookOn _ _ _ | .land _ _ _ | .landBack _ _ _ | .applyReading | .channelStaleExpiry _
  | .hookStaleExpiry _ | .portSilence _ | .livePassComplete | .planPassComplete | .commitTrialComplete
  | .clearanceTrialComplete | .limitEvent | .frameSent _ | .powerLoss _ => none

/-- The crane, channel or space that a request names, or none (R168). -/
def accessValue : Instr → RefValue
  | .spaceRead _ space _ | .claim _ space => .space space
  | .channelRead _ channel | .channelRestore _ channel | .channelModeChannel _ channel _ => .channel channel
  | .craneRead _ crane | .stopVoteSet _ crane _ | .stopVoteRelease _ crane | .clearRequest _ crane _ _ _
  | .clearCancel _ crane => .crane crane
  | .stage _ _ am => spaceValue am.carried
  | _ => .none

/-- A port's read is let pass: in COMMISSION from every role, in SERVICE from every role but UNUSED (R16, R168; the three reads
that are let pass from an UNUSED port too are `State.readsOpenly`). -/
def State.mayRead (s : State) (p : Port) : Prop :=
  s.part = .commission ∨ (s.part = .service ∧ s.role p ∈ usedRoles)

/-- A CRANE-READ of the crane is no breach of the crane set: in SERVICE a CRANE port names its own cranes (R168). -/
def State.craneMayRead (s : State) (p : Port) (crane : Nat) : Prop :=
  s.part = .service → s.role p = .crane → s.ownsCrane p crane = true

/-- The request that `c` names is in service at the port and is a read let pass (R16, R168). -/
def State.reads (s : State) (p : Port) (c : Instr) : Prop := s.serves p c = true ∧ s.mayRead p

/-- The request that `c` names is in service at the port, in COMMISSION or in SERVICE, whatever the role of the port: what the
reads of the book and of a port's status take (R1, R14, R16; an UNUSED port: log entry 44). -/
def State.readsOpenly (s : State) (p : Port) (c : Instr) : Prop :=
  s.serves p c = true ∧ (s.part = .commission ∨ s.part = .service)

/-- The request that `c` names is in service at the port, in SERVICE, and the port has one of these roles (R167, R168). -/
def State.asks (s : State) (p : Port) (c : Instr) (roles : List Role) : Prop :=
  s.part = .service ∧ s.serves p c = true ∧ s.role p ∈ roles

/-- The request that `c` names is in service at the port, in COMMISSION (R16). -/
def State.commissions (s : State) (p : Port) (c : Instr) : Prop := s.part = .commission ∧ s.serves p c = true

/-- A BOOK-WRITE of these fields to an entry that exists is in service at a port, in COMMISSION (R17). -/
def State.writesBook (s : State) (p : Port) (sect entry : Nat) (vs : List Val) : Prop :=
  s.part = .commission ∧ ∃ r q record, s.inService p = some r ∧
    commandOf p r.kind r.payload = .bookWrite q sect entry record ∧ recordVals sect entry record = some vs

/-! ### What the arithmetic computes (00 "Arithmetic", R67, R83) -/

/-- `q` is `n / d` rounded to the nearest integer, halves away from zero (00 "Arithmetic"). -/
def rounds (n d q : Int) : Prop :=
  2 * ((q * d - n).natAbs : Int) ≤ d ∧ (2 * ((q * d - n).natAbs : Int) = d → n.natAbs ≤ (q * d).natAbs)

/-- `v` is interpolated between `va` and `vb` over the part `num` of `den`, the product rounded on its own (R67, R83). -/
def interpolates (va vb num den v : Int) : Prop := ∃ r, rounds ((vb - va) * num) den r ∧ v = va + r

/-- `v` is a quantity of a table at the displacement `w`: the first or the last row's outside the table, otherwise
interpolated between the lowest two adjacent rows that hold `w` (R83, R88). -/
def lookedUp {α : Type} (rows : List α) (disp q : α → Int) (w v : Int) : Prop :=
  (∀ first, rows.head? = some first → w < disp first → v = q first) ∧
  (∀ last, rows.getLast? = some last → disp last < w → v = q last) ∧
  (∀ (k : Nat) (a b : α), rows[k]? = some a → rows[k + 1]? = some b → disp a ≤ w → w ≤ disp b →
    (∀ (j : Nat) (c : α), j < k → rows[j + 1]? = some c → disp c < w) →
    interpolates (q a) (q b) (w - disp a) (disp b - disp a) v)

/-- The displacement lies outside the table (R83, R88). -/
def outsideTable {α : Type} (rows : List α) (disp : α → Int) (w : Int) : Prop :=
  (∃ first, rows.head? = some first ∧ w < disp first) ∨ ∃ last, rows.getLast? = some last ∧ disp last < w

/-- A table of at least two rows whose displacements rise (R4, R5). -/
def risingTable {α : Type} (rows : List α) (disp : α → Int) : Prop :=
  2 ≤ rows.length ∧ rows.Pairwise fun a b => disp a < disp b

/-- `z` brought within `lo` to `hi` is `c`. -/
def clampsTo (lo hi z c : Int) : Prop := (z < lo → c = lo) ∧ (hi < z → c = hi) ∧ (lo ≤ z → z ≤ hi → c = z)

/-- The values of a tank at a sounding that lies within 0 to depth: an end point's, or each of the five interpolated between
the two points around it (R67). -/
def TankBook.readsAt (t : TankBook) (s : Int) (v : SoundingPoint) : Prop :=
  (∀ first, t.table.head? = some first → s ≤ first.sounding → v = first) ∧
  (∀ first last, t.table.head? = some first → t.table.getLast? = some last → first.sounding < s → last.sounding ≤ s →
    v = last) ∧
  (∀ (k : Nat) (a b : SoundingPoint), t.table[k]? = some a → t.table[k + 1]? = some b → a.sounding ≤ s →
    s < b.sounding → (∀ first, t.table.head? = some first → first.sounding < s) →
    let num := s - a.sounding
    let den := b.sounding - a.sounding
    interpolates a.volume b.volume num den v.volume ∧ interpolates a.lcg b.lcg num den v.lcg ∧
      interpolates a.vcg b.vcg num den v.vcg ∧ interpolates a.tcg b.tcg num den v.tcg ∧
      interpolates a.fsm b.fsm num den v.fsm)

/-! ### What an item contributes (R76, R77) -/

/-- `v` is the weight aft of a frame station at `xs` of an item of weight `w` over the span `a` to `f`, by the cases of R77. -/
def aftOf (w a f xs v : Int) : Prop :=
  (a = f → v = if a < xs then w else 0) ∧
  (a < f → (xs ≤ a → v = 0) ∧ (f ≤ xs → v = w) ∧ (a < xs → xs < f → rounds (w * (xs - a)) (f - a) v))

/-- The contribution of an item of weight `w` at x, z, y over the span `a` to `f` with a free surface moment (R76). -/
def SumSet.contributes (c : SumSet) (b : Book) (w x z y a f fsm : Int) : Prop :=
  c.w = w ∧ c.ml = w * x ∧ c.mv = w * z ∧ c.mt = w * y ∧ c.fsm = fsm ∧
  ∀ k : Fin 21, aftOf w a f b.stations[k.val].x c.wa[k.val]

/-- The contribution of a point of weight `w` (R76). -/
def SumSet.contributesPoint (c : SumSet) (b : Book) (w : Int) (q : Point) : Prop :=
  c.contributes b w q.x q.z q.y q.x q.x 0

/-- The contribution of a lot at its stow position: its weight at its LCG, (a + f)/2 rounded, over its span (R21, R47). -/
def SumSet.contributesStowed (c : SumSet) (b : Book) (l : Lot) : Prop :=
  ∃ lcg, rounds (l.pos.a + l.pos.f) 2 lcg ∧
    c.contributes b (l.verified.getD l.declared) lcg l.pos.vcg l.pos.tcg l.pos.a l.pos.f 0

/-! ### What a pass computes (R81) -/

/-- The working figures of a pass that no record holds: centres, hydrostatics, cross curves, and the strength figures at the
frame stations, the bending moments in 0.1 t·mm. -/
structure Working where
  lcg : Int
  vcg : Int
  tcg : Int
  tlcf : Int
  kmt : Int
  lcb : Int
  lcf : Int
  mctc : Int
  bf : Vector Int 21
  kn : Vector Int 9
  shear : Vector Int 21
  bend : Vector Int 21
  shearPct : Vector Nat 21
  bendPct : Vector Nat 21

/-- Centres and free surface correction (R82). -/
def Working.centres (x : Working) (sums : SumSet) (f : Figures) : Prop :=
  rounds sums.ml sums.w x.lcg ∧ rounds sums.mv sums.w x.vcg ∧ rounds sums.mt sums.w x.tcg ∧
  rounds (sums.fsm * 1000) sums.w f.fsc ∧ f.kgc = x.vcg + f.fsc ∧ f.w = sums.w

/-- The hydrostatic and the cross-curve lookup (R83, R88). -/
def Working.tables (x : Working) (b : Book) (f : Figures) : Prop :=
  let hydro := fun (q : HydroRow → Int) (v : Int) => lookedUp b.hydroRows HydroRow.disp q f.w v
  hydro HydroRow.tlcf x.tlcf ∧ hydro HydroRow.kmt x.kmt ∧ hydro HydroRow.lcb x.lcb ∧ hydro HydroRow.lcf x.lcf ∧
  hydro HydroRow.mctc x.mctc ∧ (∀ k : Fin 21, hydro (fun r => r.bf[k.val]) x.bf[k.val]) ∧
  (∀ k : Fin 9, lookedUp b.crossRows CrossRow.disp (fun r => r.kn[k.val]) f.w x.kn[k.val]) ∧
  (f.flags.hydroRange = true ↔ outsideTable b.hydroRows HydroRow.disp f.w) ∧
  (f.flags.crossRange = true ↔ outsideTable b.crossRows CrossRow.disp f.w)

/-- GM, trim, drafts and list (R84 to R87). -/
def Working.attitude (x : Working) (b : Book) (f : Figures) : Prop :=
  f.gm = x.kmt - f.kgc ∧ rounds (f.w * (x.lcb - x.lcg)) (100 * x.mctc) f.trim ∧
  (∃ r, rounds (f.trim * x.lcf) b.hull.lbp r ∧ f.ta = x.tlcf + r) ∧ f.tf = f.ta - f.trim ∧
  rounds (f.ta + f.tf) 2 f.tmean ∧
  (0 < f.gm → ∃ r, rounds (x.tcg * 5730) f.gm r ∧ clampsTo (-1500) 1500 r f.list ∧
    (f.flags.listClamp = true ↔ r < -1500 ∨ 1500 < r)) ∧
  (f.gm ≤ 0 → f.list = (if 0 ≤ x.tcg then 1500 else -1500) ∧ f.flags.listClamp = false) ∧
  (f.flags.gmNonpos = true ↔ f.gm ≤ 0)

/-- Righting levers, areas and the angle of maximum GZ (R89 to R91). -/
def Working.levers (x : Working) (f : Figures) : Prop :=
  let sin : Vector Int 9 := #v[0, 872, 1736, 2588, 3420, 5000, 6428, 7660, 8660]
  let cos : Vector Int 9 := #v[10000, 9962, 9848, 9659, 9397, 8660, 7660, 6428, 5000]
  let angle : Vector Int 9 := #v[0, 5, 10, 15, 20, 30, 40, 50, 60]
  let g := f.gz
  let to30 := 5 * (g[0] + g[1]) + 5 * (g[1] + g[2]) + 5 * (g[2] + g[3]) + 5 * (g[3] + g[4]) + 10 * (g[4] + g[5])
  let to40 := 10 * (g[5] + g[6])
  (∀ k : Fin 9, ∃ a t, rounds (f.kgc * sin[k.val]) 10000 a ∧ rounds ((x.tcg.natAbs : Int) * cos[k.val]) 10000 t ∧
    g[k.val] = x.kn[k.val] - a - t) ∧
  rounds (to30 * 8727) 1000000 f.area30 ∧ rounds (to40 * 8727) 1000000 f.area3040 ∧
  rounds ((to30 + to40) * 8727) 1000000 f.area40 ∧
  (∃ k : Fin 9, f.angle = 100 * angle[k.val] ∧ ∀ j : Fin 9, g[j.val] ≤ g[k.val] ∧ (j < k → g[j.val] < g[k.val]))

/-- `p` is the percentage of a figure of its limit, held at 999 (R102, R103). -/
def percents (z limit : Int) (p : Nat) : Prop :=
  ∃ q, rounds ((z.natAbs : Int) * 100) limit q ∧ (p : Int) = min q 999

/-- The station of the highest percentage, the lowest where several share it, with its percentage (R104). -/
def worstOf (ps : Vector Nat 21) (station percent : Nat) : Prop :=
  ∃ k : Fin 21, station = k.val ∧ percent = ps[k.val] ∧
    ∀ j : Fin 21, ps[j.val] ≤ ps[k.val] ∧ (j < k → ps[j.val] < ps[k.val])

/-- The shear limit of a station in a condition mode (R100, R102). -/
def FrameStation.shearLimit (l : FrameStation) : ConditionMode → Int
  | .harbour => l.shearHarbour
  | .sea => l.shearSea

/-- The bending limit of a station in a condition mode for a moment: the hogging limit from 0 up, the sagging limit below (R100,
R103). -/
def FrameStation.bendLimit (l : FrameStation) (mode : ConditionMode) (moment : Int) : Int :=
  match mode with
  | .harbour => if 0 ≤ moment then l.hogHarbour else l.sagHarbour
  | .sea => if 0 ≤ moment then l.hogSea else l.sagSea

/-- The strength stage (R97 to R104). -/
def Working.strength (x : Working) (b : Book) (snap : Snapshot) (f : Figures) : Prop :=
  (∀ s : Fin 21, ∃ ba,
    rounds (f.w * (x.bf[s.val] * 1000 + b.trim[s.val] * f.trim)) 1000000000 ba ∧ x.shear[s.val] = snap.sums.wa[s.val] - ba) ∧
  x.bend[0] = 0 ∧
  (∀ s : Fin 20, ∃ r,
    rounds ((x.shear[s.val] + x.shear[s.val + 1]) * (b.stations[s.val + 1].x - b.stations[s.val].x)) 2 r ∧
      x.bend[s.val + 1] = x.bend[s.val] + r) ∧
  (∀ s : Fin 21,
    percents x.shear[s.val] (b.stations[s.val].shearLimit snap.mode) x.shearPct[s.val] ∧
    ∃ m, rounds x.bend[s.val] 10000 m ∧ percents m (b.stations[s.val].bendLimit snap.mode m) x.bendPct[s.val]) ∧
  worstOf x.shearPct f.shearStation f.shearPercent ∧ worstOf x.bendPct f.bendStation f.bendPercent

/-- The criteria: an enabled one fails exactly where its test does, and a disabled one passes (R92, R105). -/
def Figures.criteria (f : Figures) (b : Book) (notEstablished : Bool) : Prop :=
  let c := b.criteria
  let passes : Fin 12 → Prop
    | 0 => notEstablished = false
    | 1 => c.gmMin ≤ f.gm
    | 2 => c.area30 ≤ f.area30
    | 3 => c.area40 ≤ f.area40
    | 4 => c.area3040 ≤ f.area3040
    | 5 => c.gz30 ≤ f.gz[5]
    | 6 => c.maxAngle ≤ f.angle
    | 7 => (f.list.natAbs : Int) ≤ c.listMax
    | 8 => f.shearPercent ≤ 100
    | 9 => f.bendPercent ≤ 100
    | 10 => f.tmean ≤ c.draftMax
    | 11 => ∀ last, b.hydroRows.getLast? = some last → f.w ≤ last.disp
  (∀ k : Fin 12, f.fails[k.val] = true ↔ c.enable[k.val] ≠ 0 ∧ ¬ passes k) ∧
  (f.failing = true ↔ ∃ k : Fin 12, f.fails[k.val] = true)

/-- The observation flags of a LIVE pass, clear in any other, and the upright moment (R93, R94). -/
def Figures.observation (f : Figures) (b : Book) (snap : Snapshot) : Prop :=
  let sound := fun (c : ChannelView) => (c.state = .active ∨ c.state = .doubtful) ∧ c.stale = false
  (snap.observed = none →
    f.flags.heldData = false ∧ f.flags.draftDisagree = false ∧ f.flags.heelDisagree = false) ∧
  (∀ o, snap.observed = some o →
    f.flags.heldData = o.held ∧
    (f.flags.draftDisagree = true ↔ sound o.forward ∧ sound o.aft ∧
      ∃ x y m, o.forward.value = some x ∧ o.aft.value = some y ∧ rounds (x + y) 2 m ∧
        b.channels.draftTolerance < ((m - f.tmean).natAbs : Int)) ∧
    (f.flags.heelDisagree = true ↔ sound o.heel ∧
      ∃ h, o.heel.value = some h ∧ b.channels.heelTolerance < ((h - f.list).natAbs : Int))) ∧
  rounds (-snap.sums.mt) 10000 f.upright

/-- A book whose tables rise and whose divisors are at least 1, as R3 to R5 check. -/
def Book.sound (b : Book) : Prop :=
  risingTable b.hydroRows HydroRow.disp ∧ risingTable b.crossRows CrossRow.disp ∧ 0 < b.hull.lbp ∧
  (∀ r ∈ b.hydroRows, 0 < r.mctc) ∧
  ∀ s : Fin 21,
    let l := b.stations[s.val]
    0 < l.shearHarbour ∧ 0 < l.shearSea ∧ 0 < l.hogHarbour ∧ 0 < l.sagHarbour ∧ 0 < l.hogSea ∧ 0 < l.sagSea

/-- The figures are those of a pass over the snapshot, stage by stage (R81). -/
def Figures.arePassOf (f : Figures) (b : Book) (snap : Snapshot) : Prop :=
  (∃ x : Working, x.centres snap.sums f ∧ x.tables b f ∧ x.attitude b f ∧ x.levers f ∧ x.strength b snap f) ∧
  f.criteria b snap.notEstablished ∧ f.observation b snap

/-! ### What the constraint check tests (R42 to R46) -/

/-- What the steps of the constraint check look at for one kind of change, a row of Table 2-3: the handle named with the
states allowed and the crane whose own reservation does not count, the destination, the space whose weight is tested with the
weight before and after, the lot under the segregation test, and the two remaining tests. An absent field is a step not
applied. -/
structure Tested where
  lot : Option (Nat × (LotState → Prop)) := none
  own : Option CraneNo := none
  place : Option (Nat × Position) := none
  weight : Option (Nat × Int × Int) := none
  hazard : Option (Option Nat × Nat × Nat) := none
  overstow : Option Nat := none
  handles : Bool := false

/-- Two lots stand in a forbidden relation under a segregation value (R45). -/
def forbids (value space space' g g' : Nat) : Prop :=
  (value = 1 ∧ space = space') ∨ (value = 2 ∧ g = g') ∨ (3 ≤ value ∧ (g = g' ∨ g + 1 = g' ∨ g' + 1 = g))

/-- A lot of handle `j` other than the one under test stands in a forbidden relation to a lot of class `i` in a space (R45). -/
def State.clashes (s : State) (self : Option Nat) (i space j : Nat) : Prop :=
  some j ≠ self ∧ ∃ l k, s.kept.lot j = some l ∧ l.state.isAshore = false ∧ l.hazard = some k ∧
    forbids (s.book.segregationOf i k) space l.space (s.groupOf space) (s.groupOf l.space)

/-- The handle `j` is a STOWED lot whose span overlaps that of `l` (R46). -/
def State.liesOver (s : State) (l : Lot) (j : Nat) : Prop :=
  ∃ m i t, s.kept.lot j = some m ∧ m.state = .stowed i t ∧ l.pos.a < m.pos.f ∧ m.pos.a < l.pos.f

/-- The space is a hatch cover of the lot's hold group whose list holds a STOWED lot (R46). -/
def State.covers (s : State) (l : Lot) (n : Nat) : Prop :=
  n < 48 ∧ s.kindOf n = some .hatchcover ∧ s.groupOf n = s.groupOf l.space ∧
  ∃ j m i t, j ∈ s.kept.stowList n ∧ s.kept.lot j = some m ∧ m.state = .stowed i t

/-- The lot is overstowed, with the value of the refusal: the first later lot of its list that lies over it, or, where none
does, the lowest hatch cover of its hold group that carries a lot (R46). -/
def State.overstowedBy (s : State) (h : Nat) (v : RefValue) : Prop :=
  ∃ l, s.kept.lot h = some l ∧ (s.kindOf l.space = some .hold ∨ s.kindOf l.space = some .tweendeck) ∧
    ((∃ before between j after, s.kept.stowList l.space = before ++ h :: (between ++ j :: after) ∧ h ∉ before ∧
        s.liesOver l j ∧ (∀ m ∈ between, ¬ s.liesOver l m) ∧ v = .handle j) ∨
      ((∀ before after, s.kept.stowList l.space = before ++ h :: after → h ∉ before → ∀ j ∈ after, ¬ s.liesOver l j) ∧
        ∃ n, s.covers l n ∧ (∀ m < n, ¬ s.covers l m) ∧ v = .space n))

/-- A crane in CHECKING, CLEARED or HALTED from CLEARED, other than `own`, names the lot (R42). -/
def State.reservedBy (s : State) (h : Nat) (own : Option CraneNo) : Prop :=
  ∃ (c : CraneNo) (d : Direction), some c ≠ own ∧
    (s.craneState c = .checking h d ∨ s.craneState c = .cleared h d ∨ s.craneState c = .halted .cleared h d)

/-- A step of the constraint check fails with a refusal (R42, R44 to R46). -/
def State.stepFails (s : State) (t : Tested) : Nat → Refused → Prop
  | 1, r => ∃ h ok, t.lot = some (h, ok) ∧ s.kept.lot h = none ∧ r = (.unknownLot, .handle h)
  | 2, r => ∃ h ok l, t.lot = some (h, ok) ∧ s.kept.lot h = some l ∧ (¬ ok l.state ∨ s.reservedBy h t.own) ∧
      r = (.wrongState, .handle h)
  | 3, r => ∃ n q, t.place = some (n, q) ∧ r = (.outOfSpace, .space n) ∧
      ∀ b, s.spaceBook n = some b →
        ¬ (b.xAft ≤ q.a ∧ q.f ≤ b.xFore ∧ b.zFloor ≤ q.vcg ∧ q.vcg ≤ b.zCeiling ∧ b.yPort ≤ q.tcg ∧ q.tcg ≤ b.yStarboard)
  | 4, r => ∃ n before after b, t.weight = some (n, before, after) ∧ s.spaceBook n = some b ∧ b.maxWeight < after ∧
      before < after ∧ r = (.spaceOverweight, .space n)
  | 5, r => ∃ self i n j, t.hazard = some (self, i, n) ∧ s.clashes self i n j ∧ (∀ k < j, ¬ s.clashes self i n k) ∧
      r = (.segregation, .handle j)
  | 6, r => ∃ h v, t.overstow = some h ∧ s.overstowedBy h v ∧ r = (.overstowed, v)
  | 7, r => t.handles = true ∧ (∀ h < 1024, s.kept.lot h ≠ none) ∧ s.kept.ashore = [] ∧ r = (.tableFull, .handle 0)
  | _, _ => False

/-- The answer of the constraint check: none when no step applied fails, otherwise the refusal of the first that does (R42). -/
def State.checksTo (s : State) (t : Tested) (o : Option Refused) : Prop :=
  (o = none → ∀ k r, ¬ s.stepFails t k r) ∧
  ∀ r, o = some r → ∃ k, s.stepFails t k r ∧ ∀ j < k, ∀ r', ¬ s.stepFails t j r'

/-- The rows of Table 2-3 for the amendments. -/
def State.amendmentTests (s : State) : Amendment → Tested
  | .planLoad _ w n q hazard =>
    { place := some (n, q), weight := some (n, s.planWeight n, s.planWeight n + w),
      hazard := hazard.map fun i => (none, i, n), handles := true }
  | .planShift h n q =>
    let l := s.kept.lot h
    { lot := some (h, fun st => st = .planned), place := some (n, q),
      weight := l.map fun l => (n, s.planWeight n, s.planWeight n + if l.space = n then 0 else l.weight),
      hazard := l.bind fun l => l.hazard.map fun i => (some h, i, n) }
  | .planCancel h => { lot := some (h, fun st => st = .planned) }
  | .markDischarge h => { lot := some (h, fun st => ∃ t, st = .stowed .keep t) }
  | .unmark h =>
    { lot := some (h, fun st => ∃ t, st = .stowed .discharge t),
      weight := (s.kept.lot h).map fun l => (l.space, s.planWeight l.space, s.planWeight l.space + l.weight) }
  | .directStow h =>
    let l := s.kept.lot h
    { lot := some (h, fun st => st = .planned), place := l.map fun l => (l.space, l.pos),
      weight := l.map fun l => (l.space, s.liveWeight l.space, s.liveWeight l.space + l.weight),
      hazard := l.bind fun l => l.hazard.map fun i => (some h, i, l.space) }
  | .restow h n q =>
    let l := s.kept.lot h
    { lot := some (h, fun st => ∃ i t, st = .stowed i t), place := some (n, q),
      weight := l.map fun l => (n, s.liveWeight n, s.liveWeight n + if l.space = n then 0 else l.weight),
      hazard := l.bind fun l => l.hazard.map fun i => (some h, i, n) }
  | .directRemove h => { lot := some (h, fun st => ∃ i t, st = .stowed i t), overstow := some h }
  | .correctWeight h w =>
    { lot := some (h, fun st => st = .planned ∨ ∃ i t, st = .stowed i t),
      weight := (s.kept.lot h).map fun l =>
        let tested := if l.state = .planned then s.planWeight l.space else s.liveWeight l.space
        (l.space, tested, tested - l.weight + w) }

/-- The rows of Table 2-3 for a crane's clearance (R147). -/
def State.clearanceTests (s : State) (c : CraneNo) (h : Nat) : Direction → Tested
  | .loading => { s.amendmentTests (.directStow h) with own := some c }
  | .discharging => { s.amendmentTests (.directRemove h) with own := some c }

end Sys2Proof.Machine
end

