-- ==== Sys2Proof/WellFormed.lean ====
section
/-!
DEFINITION. The operand ranges of each command: what the field types of Table 9-4 and the frame of R164 can carry. The
ranges that a rule answers MALFORMED are not these: such a command is well formed and its meaning answers it.
-/
namespace Sys2Proof

/-- The number fits one byte. -/
def fits8 (n : Nat) : Bool := decide (n < 256)

/-- The number fits two bytes. -/
def fits16 (n : Nat) : Bool := decide (n < 65536)

/-- The number fits four bytes. -/
def fits32 (n : Nat) : Bool := decide (n < 4294967296)

/-- The number fits eight bytes. -/
def fits64 (n : Nat) : Bool := decide (n < 18446744073709551616)

/-- The number fits four bytes in two's complement. -/
def fitsInt (z : Int) : Bool := decide (-2147483648 ≤ z) && decide (z < 2147483648)

/-- A stow position as STAGE can carry it. -/
def Position.wf (q : Position) : Bool := fitsInt q.a && fitsInt q.f && fitsInt q.vcg && fitsInt q.tcg

/-- A point as CLEAR-REQUEST can carry it. -/
def Point.wf (q : Point) : Bool := fitsInt q.x && fitsInt q.z && fitsInt q.y

/-- A hazard class as PLAN-LOAD can carry it. -/
def hazardWf (o : Option Nat) : Bool :=
  match o with
  | none => true
  | some n => fits8 n

/-- A planned fill as TANK-PLAN can carry it. -/
def fillWf (o : Option Int) : Bool :=
  match o with
  | none => true
  | some z => fitsInt z

/-- An amendment as one STAGE frame can carry it: 250 bytes leave the mark 224 characters (R164). -/
def Amendment.wf : Amendment → Bool
  | .planLoad mark weight space pos hazard =>
    decide (mark.length ≤ 224) && fitsInt weight && fits8 space && pos.wf && hazardWf hazard
  | .planShift handle space pos => fits16 handle && fits8 space && pos.wf
  | .planCancel handle => fits16 handle
  | .markDischarge handle => fits16 handle
  | .unmark handle => fits16 handle
  | .directStow handle => fits16 handle
  | .restow handle space pos => fits16 handle && fits8 space && pos.wf
  | .directRemove handle => fits16 handle
  | .correctWeight handle weight => fits16 handle && fitsInt weight

/-- The values of a reading as a report can carry them, in the form of its channel (Table 9-2). -/
def ReadingValue.wf (channel : Nat) : ReadingValue → Bool
  | .level v => decide (channel ≤ 34) && fitsInt v
  | .hook load x y z => decide (35 ≤ channel) && fits32 load && fitsInt x && fitsInt y && fitsInt z

/-- The control fields as TALLY-CONTROL can carry them. -/
def ControlFields.wf (c : ControlFields) : Bool :=
  fits8 c.cls && fits8 c.subevents && fits8 c.roles && fits8 c.groups && fits8 c.inhibit && fits8 c.notice &&
  fits8 c.readable

/-- A command whose operands its frame or its event can carry. -/
def Instr.wf : Instr → Bool
  | .powerOn => true
  | .resetAssert _ => true
  | .resetRelease => true
  | .startChecksComplete _ => true
  | .frameDeliver _ _ => true
  | .characterTimeout _ => true
  | .framingError _ => true
  | .unknownRequest _ => true
  | .bookRead _ sect entry => fits8 sect && fits16 entry
  | .bookStatus _ => true
  | .bookWrite _ sect entry record =>
    fits8 sect && fits16 entry && decide (record.length ≤ 247) && recordFits sect entry record
  | .bookAccept _ => true
  | .lotRead _ handle => fits16 handle
  | .spaceRead _ space fromPos => fits8 space && fits16 fromPos
  | .ashoreRead _ fromPos => fits16 fromPos
  | .channelRead _ channel => fits8 channel
  | .tankRead _ tank => fits8 tank
  | .verdictRead _ set => fits8 set
  | .captureRead _ => true
  | .linkRead _ group => fits8 group
  | .readJournal _ fromGen => fits64 fromGen
  | .fixedRead _ item => fits8 item
  | .craneRead _ crane => fits8 crane
  | .faultRead _ => true
  | .portStatus _ port => fits8 port
  | .readTally _ tally => fits8 tally
  | .claim _ space => fits8 space
  | .stage _ group amendment => fits8 group && amendment.wf
  | .commit _ group override => fits8 group && fits8 override
  | .releaseLink _ group => fits8 group
  | .fixedSet _ item weight x z y presence =>
    fits8 item && fitsInt weight && fitsInt x && fitsInt z && fitsInt y && fits8 presence
  | .tankManual _ tank sounding => fits8 tank && fitsInt sounding
  | .tankDensity _ tank density => fits8 tank && fitsInt density
  | .tankPlan _ tank fill => fits8 tank && fillWf fill
  | .channelRestore _ channel => fits8 channel
  | .channelModeChannel _ channel mode => fits8 channel && fits8 mode
  | .channelModeQueueLevel _ level => fits8 level
  | .captureClear _ => true
  | .captureMode _ mode => fits8 mode
  | .faultClear _ => true
  | .conditionMode _ mode => fits8 mode
  | .conditionConfirm _ => true
  | .purgeAshore _ => true
  | .tallyControl _ tally control => fits8 tally && control.wf
  | .tallySet _ tally value => fits8 tally && fits32 value
  | .stopVoteSet _ crane action => fits8 crane && fits8 action && decide (action ≠ 1)
  | .stopVoteRelease _ crane => fits8 crane
  | .clearRequest _ crane lot direction worst => fits8 crane && fits16 lot && fits8 direction && worst.wf
  | .clearCancel _ crane => fits8 crane
  | .subscribe _ mask => fits16 mask
  | .portRestart _ _ => true
  | .readingReport _ channel value => fits8 channel && value.wf channel
  | .hookOn _ crane lot => fits8 crane && fits16 lot
  | .land _ crane lot => fits8 crane && fits16 lot
  | .landBack _ crane lot => fits8 crane && fits16 lot
  | .applyReading => true
  | .channelStaleExpiry _ => true
  | .hookStaleExpiry _ => true
  | .portSilence _ => true
  | .livePassComplete => true
  | .planPassComplete => true
  | .commitTrialComplete => true
  | .clearanceTrialComplete => true
  | .limitEvent => true
  | .frameSent _ => true
  | .powerLoss _ => true

/-- The port at which a request or a report stands. -/
def Instr.port : Instr → Option Port
  | .frameDeliver p _ | .characterTimeout p | .framingError p | .unknownRequest p | .bookRead p _ _ | .bookStatus p
  | .bookWrite p _ _ _ | .bookAccept p | .lotRead p _ | .spaceRead p _ _ | .ashoreRead p _ | .channelRead p _
  | .tankRead p _ | .verdictRead p _ | .captureRead p | .linkRead p _ | .readJournal p _ | .fixedRead p _
  | .craneRead p _ | .faultRead p | .portStatus p _ | .readTally p _ | .claim p _ | .stage p _ _ | .commit p _ _
  | .releaseLink p _ | .fixedSet p _ _ _ _ _ _ | .tankManual p _ _ | .tankDensity p _ _ | .tankPlan p _ _
  | .channelRestore p _ | .channelModeChannel p _ _ | .channelModeQueueLevel p _ | .captureClear p | .captureMode p _
  | .faultClear p | .conditionMode p _ | .conditionConfirm p | .purgeAshore p | .tallyControl p _ _ | .tallySet p _ _
  | .stopVoteSet p _ _ | .stopVoteRelease p _ | .clearRequest p _ _ _ _ | .clearCancel p _ | .subscribe p _
  | .portRestart p _ | .readingReport p _ _ | .hookOn p _ _ | .land p _ _ | .landBack p _ _ | .portSilence p
  | .frameSent p => some p
  | .powerOn | .resetAssert _ | .resetRelease | .startChecksComplete _ | .applyReading | .channelStaleExpiry _
  | .hookStaleExpiry _ | .livePassComplete | .planPassComplete | .commitTrialComplete | .clearanceTrialComplete
  | .limitEvent | .powerLoss _ => none

end Sys2Proof
end

