-- ==== Sys2Proof/Certificates/Slice0/Obligations.lean ====
section
/-!
DEFINITION. The statements about the model, one `Obligations.<Name>` each. A statement of a command's result is an equation
that gives the next state whole: in terms of `State.answer` (`AnswerEndsTheService`), `State.issue` and
`PortState.pushNotice` (`NoticesReplaceAppendOrDrop`), `State.countAll` (`TalliesCountTheirEvents`) and `State.settle`
(`ArbiterGrantsInItsOrder`, `LinesSendRepliesFirst`), of which the named statements say what they do. What an item contributes
to the sums, which the statements name `State.itemLive` and `State.itemPlan`, is said by `WeightAftNeverDecreases`.
-/

open Sys2Proof Sys2Proof.Machine

/-! ### The step and the reset state -/

/-- A step runs the command at the front of the queue with the queue's rest; on an empty queue a millisecond passes while the
supply is good and the reset input is released. Both are the model's choice (log entries 1 and 3). -/
def Obligations.StepRunsTheFrontCommandOrTicks : Prop :=
  (∀ (s : State) (c : Instr) (rest : List Instr), s.pending = c :: rest → step s = exec c { s with pending := rest }) ∧
  (∀ s : State, s.pending = [] → s.supply = true → s.resetHeld = false → step s = .next { s with clock := s.clock + 1 }) ∧
  (∀ s : State, s.pending = [] → s.supply = false ∨ s.resetHeld = true → step s = .next s)

/-- Every command has an effect in every state, and none touches the commands that wait behind it (log entries 1 and 2). -/
def Obligations.EveryCommandRunsAndLeavesTheQueue : Prop :=
  ∀ (c : Instr) (s : State), ∃ t : State, exec c s = .next t ∧ t.pending = s.pending

/-- The machine right after reset is at the entry to START with nothing in flight: the values of R13, R15 and R125. That its
book is UNCHECKED and blank and its condition the emptied one is the model's choice (log entry 4). -/
def Obligations.ResetIsTheEntryToStart : Prop :=
  let s := State.reset
  s.part = .start ∧ s.clock = 0 ∧ s.supply = true ∧ s.resetHeld = false ∧ s.checking = true ∧ s.pending = [] ∧
  s.book = Book.blank ∧ s.bookCheck = none ∧ s.bookStatus = .unchecked ∧ s.keptCheck = none ∧ s.kept = Kept.emptied s.book ∧
  (∀ g : Group, s.link g = none) ∧ s.vol.queue = [] ∧ s.vol.queueLevel = 6 ∧ s.vol.highArmed = true ∧
  s.vol.livePending = true ∧ s.vol.planPending = true ∧ s.vol.running = none ∧ (∀ p : Port, s.trial p = none) ∧
  s.vol.lru = [0, 1, 2, 3, 4, 5] ∧ s.vol.liveVerdict = none ∧ s.vol.planVerdict = none ∧
  s.vol.capture = { mode := .first, held := none } ∧ s.vol.supervisor = none ∧ s.vol.accessFault = none ∧
  s.vol.acceptance = .none ∧
  (∀ ch : ChannelNo, (s.channelLive ch).stale = true ∧ (s.channelLive ch).reference = none) ∧
  (∀ (c : CraneNo) (p : Port), (s.craneLive c).votes[p.val] = false) ∧
  (∀ i : Fin 8, s.vol.tallies[i.val].value = 0 ∧ s.vol.tallies[i.val].overflow = false ∧
    s.vol.tallies[i.val].control =
      { cls := 0, subevents := 0, roles := 0, groups := 0, inhibit := true, notice := false, readable := 1 }) ∧
  (∀ p : Port, (s.port p).requests = [] ∧ (s.port p).replies = [] ∧ (s.port p).notices = [] ∧
    (s.port p).dropped = false ∧ (s.port p).silent = false ∧ (s.port p).discards = 0 ∧ (s.port p).line = none)

/-- The machine right after reset meets every invariant of the model. -/
def Obligations.ResetMeetsEveryInvariant : Prop :=
  State.reset.stored ∧ State.reset.portsBounded ∧ State.reset.queueBounded ∧ State.reset.linesInv ∧
  State.reset.evaluatorInv ∧ State.reset.kept.journalInv ∧ State.reset.kept.tableInv ∧ State.reset.sumsInv

/-! ### Power, reset and START (01) -/

/-- Power-on and the assertion of the reset input put the engine in START from any state, and a power loss ends everything in
flight in the same way; the condition stands, and so does the book but for the BOOK-WRITEs in service: they have erased the
check word, their first act, and each leaves its entry as it was before the write or as the write leaves it; the checks begin at
the release, or at power-on (R13, R17). That an operand names the port whose BOOK-WRITE has replaced its entry is the model's
choice (log entry 13); so are the clock at 0 and the part state START while the supply is off, the clock restarted at the
release (log entry 18), the volatile state blank from the entry to START on and not only after the checks (log entry 4), and
that a release of an input that is not held does nothing (log entry 2). -/
def Obligations.PowerAndResetEnterStart : Prop :=
  ∀ s : State,
    (∀ (cut : Option Port) (b : State),
      (b = s ∧ ∀ p sect entry vs, ¬ s.writesBook p sect entry vs) ∨
        (b = { s with bookCheck := none, bookStatus := .unchecked } ∧ (∃ p sect entry vs, s.writesBook p sect entry vs) ∧
          ∀ p, cut = some p → ∀ sect entry vs, ¬ s.writesBook p sect entry vs) ∨
        (∃ p sect entry vs, cut = some p ∧ s.writesBook p sect entry vs ∧
          b = { s with book := s.book.write sect entry vs, bookCheck := none, bookStatus := .unchecked }) →
      (cut = none → exec .powerOn s =
        .next { b with supply := true, part := .start, clock := 0, checking := !s.resetHeld, vol := Volatile.blank }) ∧
      exec (.resetAssert cut) s =
        .next { b with resetHeld := true, part := .start, clock := 0, checking := false, vol := Volatile.blank } ∧
      exec (.powerLoss cut) s =
        .next { b with supply := false, part := .start, clock := 0, checking := false, vol := Volatile.blank }) ∧
    (s.resetHeld = true →
      exec .resetRelease s = .next { s with resetHeld := false, clock := 0, checking := s.supply }) ∧
    (s.resetHeld = false → exec .resetRelease s = .next s)

/-- The START checks set the book status by the stored check word, sample the strap, keep the retained condition with the cranes
adjusted or empty it, and lead to SERVICE exactly when the book is VALID and the strap is low, otherwise to COMMISSION (R1, R13,
R14, R15, R19). -/
def Obligations.StartChecksDecideTheStart : Prop :=
  ∀ (s : State) (high : Bool), s.supply = true → s.resetHeld = false → s.checking = true → s.part = .start →
    ∃ t : State, exec (.startChecksComplete high) s = .next t ∧
      t.book = s.book ∧ t.bookCheck = s.bookCheck ∧ t.strap = high ∧ t.checking = false ∧ t.clock = s.clock ∧
      t.supply = true ∧ t.resetHeld = false ∧ t.pending = s.pending ∧
      (t.bookStatus = .valid ↔ s.bookCheck = some s.book.word) ∧
      (t.part = .service ↔ t.bookStatus = .valid ∧ high = false) ∧ (t.part = .service ∨ t.part = .commission) ∧
      (s.keptCheck = some s.kept.word →
        t.kept = { s.kept with cranes := t.kept.cranes } ∧
        ∀ c : CraneNo,
          (∀ h d, s.craneState c = .lifting h d ∨ s.craneState c = .halted .lifting h d →
            t.craneState c = .halted .lifting h d) ∧
          ((s.craneState c).lift = none → t.craneState c = .idle)) ∧
      (s.keptCheck ≠ some s.kept.word → t.kept = Kept.emptied s.book) ∧
      t.keptCheck = some t.kept.word

/-- The START checks clear the volatile state to the values of R15 and R125; a crane left HALTED holds STALE alone; a port's
subscription is its role's default. On entry to SERVICE the sums are built from the condition and the LIVE pass is granted at
once. A receiver keeps a frame that began during START (the model's choice, log entry 14). -/
def Obligations.StartChecksClearTheVolatileState : Prop :=
  ∀ (s : State) (high : Bool), s.supply = true → s.resetHeld = false → s.checking = true → s.part = .start →
    ∃ t : State, exec (.startChecksComplete high) s = .next t ∧
      t.vol =
        { Volatile.blank with
          livePending := decide (t.part ≠ .service)
          running := if t.part = .service then some { kind := .live, snap := t.snapshot t.vol.live (some t.observe) } else none
          live := t.vol.live
          plan := t.vol.plan
          cranes := t.vol.cranes
          ports := t.vol.ports } ∧
      (t.bookStatus = .valid → t.vol.live = t.builtLive ∧ t.vol.plan = t.builtPlan) ∧
      (∀ c : CraneNo,
        t.craneLive c =
          { CraneLive.blank with reasons := { vote := false, limit := false, stale := (t.craneState c).isHalted } }) ∧
      (∀ p : Port,
        t.port p =
          { PortState.blank with
            receiver := (s.port p).receiver
            lastChar := (s.port p).lastChar
            subscription := defaultSubscription (s.role p) })

/-! ### Station ports: receiving (09) -/

/-- The characters of a whole frame, of at most 250 bytes of payload and with its CRC, that arrive at a hunting receiver deliver
that frame (R163, R164). -/
def Obligations.WholeFrameIsDelivered : Prop :=
  ∀ (s : State) (p : Port) (kind tag : Byte) (payload : List Byte),
    s.running = true → (s.port p).receiver = .hunt → payload.length ≤ 250 →
    exec (.frameDeliver p (frameBytes kind tag payload)) s =
      .next ((s.onPort p fun q => { q with lastChar := s.clock }).deliver p kind tag payload)

/-- A frame with a wrong CRC, one whose length lies outside 2 to 252, a partial frame met by a framing error, and a partial
frame followed by a gap above 10 ms are discarded and counted, the count held at 65 535, and the receiver hunts again; in a
receiver that hunts the last two change nothing (R163). -/
def Obligations.BrokenFramesAreDroppedAndCounted : Prop :=
  (∀ (s : State) (p : Port) (kind tag : Byte) (payload : List Byte) (w : Nat),
    s.running = true → (s.port p).receiver = .hunt → payload.length ≤ 250 → w < 65536 →
    w ≠ (crc16 (bytesOf 2 (2 + payload.length) ++ (kind :: tag :: payload))).toNat →
    exec (.frameDeliver p ((0x7E#8 :: (bytesOf 2 (2 + payload.length) ++ (kind :: tag :: payload))) ++ bytesOf 2 w)) s =
      .next (s.onPort p fun q => { q with lastChar := s.clock, discards := min (q.discards + 1) 65535 })) ∧
  (∀ (s : State) (p : Port), s.running = true → (s.port p).receiver ≠ .hunt →
    exec (.framingError p) s =
      .next (s.onPort p fun q => { q with receiver := .hunt, discards := min (q.discards + 1) 65535 }) ∧
    (10 < elapsed (s.port p).lastChar s.clock →
      exec (.characterTimeout p) s =
        .next (s.onPort p fun q => { q with receiver := .hunt, discards := min (q.discards + 1) 65535 }))) ∧
  (∀ (s : State) (p : Port), (s.port p).receiver = .hunt →
    exec (.framingError p) s = .next s ∧ exec (.characterTimeout p) s = .next s) ∧
  (∀ (s : State) (p : Port) (n : Nat), s.running = true → (s.port p).receiver = .hunt → n < 65536 → n < 2 ∨ 252 < n →
    exec (.frameDeliver p (0x7E#8 :: bytesOf 2 n)) s =
      .next (s.onPort p fun q => { q with lastChar := s.clock, discards := min (q.discards + 1) 65535 }))

/-- A request delivered outside START makes its port ONLINE, restarts its silence interval and joins the request queue; when
four are held it is answered BUSY at once, or, where eight replies wait too, discarded and counted; a frame delivered in START
is discarded (R13, R166, R171). A PORT-RESTART without payload in SERVICE is not this case; one with a payload is, by log entry
43. -/
def Obligations.DeliveredRequestsQueueOrAreBusy : Prop :=
  (∀ (s : State) (p : Port) (kind tag : Byte) (payload : List Byte),
    s.part = .start → s.deliver p kind tag payload = s) ∧
  (∀ (s : State) (p : Port) (kind tag : Byte) (payload : List Byte),
    isReportKind kind = false → s.part = .commission ∨ (s.part = .service ∧ ¬ (kind = 0x29 ∧ payload = [])) →
    ((s.port p).requests.length < 4 →
      s.deliver p kind tag payload =
        s.onPort p fun q =>
          { q with
            silent := false
            lastHeard := s.clock
            requests := q.requests ++ [{ kind := kind, tag := tag, payload := payload, orphaned := false }] }) ∧
    (4 ≤ (s.port p).requests.length → (s.port p).replies.length < 8 →
      s.deliver p kind tag payload =
        s.onPort p fun q =>
          PortState.pump
            { q with
              silent := false
              lastHeard := s.clock
              replies := q.replies ++ [{ kind := replyKind kind, tag := tag, status := .busy, body := [] }] }) ∧
    (4 ≤ (s.port p).requests.length → 8 ≤ (s.port p).replies.length →
      s.deliver p kind tag payload =
        s.onPort p fun q =>
          PortState.pump { q with silent := false, lastHeard := s.clock, discards := min (q.discards + 1) 65535 }))

/-- The request and report payloads of Table 9-5 read back: a well-formed command's frame fits 250 bytes, and its kind and
payload are read as that command. A BOOK-WRITE is well formed where its record is as long as its entry's fields take (log entry
8). -/
def Obligations.RequestAndReportFramesReadBack : Prop :=
  ∀ (c : Instr) (p : Port), c.wf = true → c.port = some p →
    (∀ kind payload, encodeRequest c = some (kind, payload) →
      payload.length ≤ 250 ∧ isReportKind kind = false ∧ commandOf p kind payload = c) ∧
    (∀ kind payload, encodeReport c = some (kind, payload) →
      payload.length ≤ 250 ∧ isReportKind kind = true ∧ reportOf p kind payload = some c)

/-! ### Station ports: service (09) -/

/-- A request in service is examined for its form first: an unknown kind or an unfitting payload, or a READ-TALLY above 7, is
answered MALFORMED. Then in COMMISSION a request that is neither a read nor of the book's writing is answered NOT-IN-SERVICE,
and in SERVICE BOOK-WRITE and BOOK-ACCEPT are answered NOT-IN-COMMISSION (R16, R17, R167). -/
def Obligations.FormAndPartStateGateRequests : Prop :=
  ∀ (s : State) (p : Port) (r : Request), s.inService p = some r → s.part ≠ .start →
    let c := commandOf p r.kind r.payload
    (c = .unknownRequest p → exec c s = .next (s.answer p .malformed [])) ∧
    (r.kind = 0 ∨ 0x29 < r.kind.toNat → c = .unknownRequest p) ∧
    (∀ n, c = .readTally p n → 8 ≤ n → exec c s = .next (s.answer p .malformed [])) ∧
    (c ≠ .unknownRequest p → s.part = .commission → 0x13 ≤ r.kind.toNat →
      exec c s = .next (s.answer p .notInService [])) ∧
    (c ≠ .unknownRequest p → s.part = .service → r.kind = 0x03 ∨ r.kind = 0x04 →
      exec c s = .next (s.answer p .notInCommission []))

/-- In SERVICE a request that breaks the access table is answered DENIED with the breach's value, and the breach overwrites the
Access Fault Record: a role that may not send the request, a crane outside a CRANE port's set, an override flag from another
role than OFFICER, a SHORE STAGE of a live kind, and a tally hidden from the role (R130, R168, R169, R183). The recorded values
are log entry 41, that a CRANE port's read of a crane outside its set is one of these breaches log entry 45, and the value bytes
of a refusal body that carries no value log entry 52. BOOK-READ, BOOK-STATUS and PORT-STATUS, which any port may send, are in
`BookReadsAnswerTheStore` and `StationReadsAnswerTheRecords`; that every other request of an UNUSED port is denied is log entry
44. -/
def Obligations.AccessTableBreachIsDenied : Prop :=
  ∀ (s : State) (p : Port), s.part = .service →
    (∀ (c : Instr) (roles : List Role), s.serves p c = true → accessRoles c = some roles → s.role p ∉ roles →
      (∀ n, c = .readTally p n → n < 8) → exec c s = .next (s.deny p (.role, accessValue c))) ∧
    (∀ (c : Instr) (crane : Nat), s.serves p c = true → s.role p = .crane → s.ownsCrane p crane = false →
      (∃ lot d q, c = .clearRequest p crane lot d q) ∨ c = .clearCancel p crane ∨ (∃ a, c = .stopVoteSet p crane a) ∨
        c = .stopVoteRelease p crane ∨ c = .craneRead p crane →
      exec c s = .next (s.deny p (.craneNotOwn, .crane crane))) ∧
    (∀ group, s.serves p (.commit p group 1) = true → s.role p = .planner ∨ s.role p = .shore →
      exec (.commit p group 1) s = .next (s.deny p (.override, spaceValue (s.linkTarget group)))) ∧
    (∀ group am, s.serves p (.stage p group am) = true → s.role p = .shore → am.isLive = true →
      exec (.stage p group am) s =
        .next (s.deny p (.role, spaceValue ((s.linkTarget group).or am.carried)))) ∧
    (∀ n : Fin 8, s.serves p (.readTally p n.val) = true → s.role p ∈ usedRoles →
      roleIn s.vol.tallies[n.val].control.readable (s.role p) = false →
      exec (.readTally p n.val) s = .next (s.deny p (.tallyHidden, .tally n.val))) ∧
    (∀ (cause : Cause) (v : RefValue),
      let u : State :=
        { s with
          vol.accessFault := some { port := p, role := s.role p, kind := s.servedKind p, cause := cause, value := v } }
      s.deny p (cause, v) =
        ((((u.issue .accessFault 0
              ([.u8 p.val, .u8 (roleCode (s.role p)), .u8 (s.servedKind p).toNat, .u8 (causeCode cause)] ++
                faultVals v)).count
            { cls := .access, sub := 0, role := some (s.role p), group := none, amount := 1 }).answer p .denied
          (refVals v ++ [.u64 s.kept.generation])).settle))

/-- A reply ends the service of the request at the head of its port's queue: it joins the tail of the reply list, or is
discarded and counted when eight wait, or discarded when the request is orphaned; the line begins the oldest reply when it is
free; and no other port is touched (R165, R167, R175). -/
def Obligations.AnswerEndsTheService : Prop :=
  ∀ (s : State) (p : Port) (st : Status) (body : List Val) (r : Request) (rest : List Request),
    (s.port p).requests = r :: rest →
    (r.orphaned = true → (s.answer p st body).port p = { s.port p with requests := rest }) ∧
    (r.orphaned = false → (s.port p).replies.length < 8 →
      (s.answer p st body).port p =
        PortState.pump
          { s.port p with
            requests := rest
            replies := (s.port p).replies ++
              [{ kind := replyKind r.kind, tag := r.tag, status := st, body := body }] }) ∧
    (r.orphaned = false → 8 ≤ (s.port p).replies.length →
      (s.answer p st body).port p =
        PortState.pump { s.port p with requests := rest, discards := min ((s.port p).discards + 1) 65535 }) ∧
    (r.kind.toNat < 0x80 → (replyKind r.kind).toNat = r.kind.toNat + 0x80) ∧
    (∀ q, q ≠ p → (s.answer p st body).port q = s.port q) ∧
    s.answer p st body = { s with vol.ports := (s.answer p st body).vol.ports }

/-! ### Station ports: notices and lines (09) -/

/-- A notice that comes to a port is discarded when the port is SILENT or has not subscribed to its kind. A VERDICT,
PLAN-VERDICT, PERMIT or CHANNEL notice overwrites an undelivered one of its kind and subject in place; any other, or one that
finds none, joins the tail below sixteen; at sixteen it is dropped and the dropped flag set. A notice that is issued comes to
every port in SERVICE and to none outside it; one issued to a port alone, as LINK-TAKEN is, comes to that port and to no other
(R16, R128, R171, R173). -/
def Obligations.NoticesReplaceAppendOrDrop : Prop :=
  (∀ (q : PortState) (n : Notice),
    (q.silent = true ∨ q.subscription.getLsbD (noticeBit n.kind) = false → q.pushNotice n = q) ∧
    (q.silent = false → q.subscription.getLsbD (noticeBit n.kind) = true →
      let same := fun m : Notice => m.kind = n.kind ∧ m.subject = n.subject
      let once := n.kind = .verdict ∨ n.kind = .planVerdict ∨ n.kind = .permit ∨ n.kind = .channel
      (once → (∃ m ∈ q.notices, same m) →
        ∃ l, q.pushNotice n = { q with notices := l } ∧ l.length = q.notices.length ∧
          ∀ (i : Nat) (m : Notice), q.notices[i]? = some m →
            (same m → l[i]? = some n) ∧ (¬ same m → l[i]? = some m)) ∧
      (¬ once ∨ (∀ m ∈ q.notices, ¬ same m) → q.notices.length < 16 →
        q.pushNotice n = { q with notices := q.notices ++ [n] }) ∧
      (¬ once ∨ (∀ m ∈ q.notices, ¬ same m) → 16 ≤ q.notices.length →
        q.pushNotice n = { q with dropped := true }))) ∧
  (∀ (s : State) (kind : NoticeKind) (subject : Nat) (body : List Val),
    let n : Notice := { kind := kind, clock := s.clock, subject := subject, body := body }
    (s.part = .service → ∀ p, (s.issue kind subject body).port p = (s.port p).pushNotice n) ∧
    (s.part ≠ .service → s.issue kind subject body = s) ∧
    s.issue kind subject body = { s with vol.ports := (s.issue kind subject body).vol.ports }) ∧
  (∀ (s : State) (o : Port) (kind : NoticeKind) (subject : Nat) (body : List Val),
    let n : Notice := { kind := kind, clock := s.clock, subject := subject, body := body }
    (s.part = .service →
      ∀ p, (s.issueTo o kind subject body).port p = if p = o then (s.port p).pushNotice n else s.port p) ∧
    (s.part ≠ .service → s.issueTo o kind subject body = s) ∧
    s.issueTo o kind subject body = { s with vol.ports := (s.issueTo o kind subject body).vol.ports })

/-- A line that finishes its frame begins the oldest reply; when none waits, the notice at the head; when neither waits, it is
free. No other port is touched. The characters of the frame are the start character, the length, the kind, the tag, which is 0
for a notice, the payload and its CRC; a reply's payload is its status and body, a notice's the clock at its issue, its subject
and its fields. The fields follow one another, each in the bytes of its type, the most significant first and a signed number in
two's complement; a signed number beyond 32 bits has free bytes (log entry 47) (R164, R165, R175). -/
def Obligations.LinesSendRepliesFirst : Prop :=
  (∀ (s : State) (p : Port),
    (∀ r rest, (s.port p).replies = r :: rest →
      exec (.frameSent p) s = .next (s.onPort p fun q => { q with line := some (.reply r), replies := rest })) ∧
    (∀ n rest, (s.port p).replies = [] → (s.port p).notices = n :: rest →
      exec (.frameSent p) s = .next (s.onPort p fun q => { q with line := some (.notice n), notices := rest })) ∧
    ((s.port p).replies = [] → (s.port p).notices = [] →
      exec (.frameSent p) s = .next (s.onPort p fun q => { q with line := none })) ∧
    (∀ (t : State) (q : Port), t.pumpAll.port q = (t.port q).pump ∧
      (((t.port q).line ≠ none ∨ (t.port q).replies = [] ∧ (t.port q).notices = []) → (t.port q).pump = t.port q) ∧
      (∀ r rest, (t.port q).line = none → (t.port q).replies = r :: rest →
        (t.port q).pump = { t.port q with line := some (.reply r), replies := rest }) ∧
      (∀ n rest, (t.port q).line = none → (t.port q).replies = [] → (t.port q).notices = n :: rest →
        (t.port q).pump = { t.port q with line := some (.notice n), notices := rest }))) ∧
  (∀ (s : State) (p : Port),
    let frame := fun (kind tag : Byte) (payload : List Byte) =>
      let inner := bytesOf 2 (2 + payload.length) ++ (kind :: tag :: payload)
      (0x7E : Byte) :: (inner ++ bytesOf 2 (crc16 inner).toNat)
    ((s.port p).line = none → s.lineBytes p = []) ∧
    (∀ r, (s.port p).line = some (.reply r) →
      s.lineBytes p = frame r.kind r.tag (BitVec.ofNat 8 (statusCode r.status) :: encodeVals r.body)) ∧
    (∀ n, (s.port p).line = some (.notice n) →
      s.lineBytes p =
        frame (noticeKindByte n.kind) 0
          (bytesOf 4 n.clock.toNat ++ (BitVec.ofNat 8 n.subject :: encodeVals n.body)))) ∧
  (∀ vs : List Val, encodeVals vs = (vs.map encodeVal).flatten) ∧
  (∀ n : Nat, encodeVal (.u8 n) = bytesOf 1 n ∧ encodeVal (.u16 n) = bytesOf 2 n ∧ encodeVal (.u32 n) = bytesOf 4 n ∧
    encodeVal (.u64 n) = bytesOf 8 n) ∧
  (∀ text : List Byte, encodeVal (.text text) = BitVec.ofNat 8 text.length :: text) ∧
  (∀ k n : Nat, n < 256 ^ k →
    (bytesOf k n).length = k ∧ (bytesOf k n).foldl (fun (acc : Nat) (b : Byte) => acc * 256 + b.toNat) 0 = n) ∧
  (∀ z : Int,
    (0 ≤ z → z < 2147483648 → encodeVal (.i32 z) = bytesOf 4 z.toNat) ∧
    (-2147483648 ≤ z → z < 0 → encodeVal (.i32 z) = bytesOf 4 (z + 4294967296).toNat))

/-- An ONLINE port at which no frame has been delivered for 5 000 ms goes SILENT: in SERVICE its links are invalidated, its
waiting requests, replies and notices are gone and its request in service is orphaned; in COMMISSION its status alone changes.
Before the interval has passed, and at a SILENT port, nothing happens (R16, R137, R171). -/
def Obligations.SilenceShedsThePort : Prop :=
  ∀ (s : State) (p : Port),
    (s.part = .service → (s.port p).silent = false → 5000 ≤ elapsed (s.port p).lastHeard s.clock →
      ∃ t : State, exec (.portSilence p) s = .next t ∧ t = { s with vol.links := t.vol.links, vol.ports := t.vol.ports } ∧
        (∀ g : Group, t.link g = (s.link g).filter fun l => l.owner ≠ p) ∧
        t.port p =
          { s.port p with
            requests := ((s.port p).requests.take 1).map fun r => { r with orphaned := true }
            replies := []
            notices := []
            silent := true } ∧
        (∀ q, q ≠ p → t.port q = s.port q)) ∧
    (s.part = .commission → (s.port p).silent = false → 5000 ≤ elapsed (s.port p).lastHeard s.clock →
      exec (.portSilence p) s = .next (s.onPort p fun q => { q with silent := true })) ∧
    ((s.port p).silent = true ∨ elapsed (s.port p).lastHeard s.clock < 5000 ∨ s.part = .start →
      exec (.portSilence p) s = .next s)

/-- PORT-RESTART delivered in SERVICE from a role but UNUSED: the port's links are invalidated, its waiting requests, replies
and notices are gone, its request in service is orphaned, its subscription is its role's default, its dropped flag and discard
count are cleared, its silence interval restarts, and a DONE reply is placed. From an UNUSED port the breach is recorded and the
answer is DENIED, with nothing shed; the reply is discarded and counted where eight wait (R166, R168, R169, R172). One that
joined the queue in COMMISSION and is served in SERVICE sheds the same and leaves the queue empty (the model's choice, log entry
11). The two value bytes of DENIED, whose value class is 0, are sent as 0 (the model's choice, log entry 52). -/
def Obligations.RestartShedsThePort : Prop :=
  (∀ (s : State) (p : Port) (tag : Byte), exec (.portRestart p (some tag)) s = .next (s.deliver p 0x29 tag [])) ∧
  (∀ (s : State) (p : Port) (tag : Byte), s.part = .service → s.role p ∉ usedRoles →
    let u := (s.onPort p fun q => { q with silent := false, lastHeard := s.clock }).breach p 0x29 .role .none
    ((u.port p).replies.length < 8 →
      exec (.portRestart p (some tag)) s =
        .next (State.settle (u.onPort p fun q =>
          { q with
            replies := q.replies ++
              [{ kind := 0xA9, tag := tag, status := .denied, body := [.u8 0, .u16 0, .u64 s.kept.generation] }] }))) ∧
    (8 ≤ (u.port p).replies.length →
      exec (.portRestart p (some tag)) s =
        .next (State.settle (u.onPort p fun q => { q with discards := min (q.discards + 1) 65535 })))) ∧
  (∀ (s : State) (p : Port), s.part = .service → s.role p ∈ usedRoles →
    (∀ tag : Byte, ∃ u : State, exec (.portRestart p (some tag)) s = .next u.settle ∧
      u = { s with vol.links := u.vol.links, vol.ports := u.vol.ports } ∧
      (∀ g : Group, u.link g = (s.link g).filter fun l => l.owner ≠ p) ∧
      (∀ q, q ≠ p → u.port q = s.port q) ∧
      u.port p =
        { s.port p with
          requests := ((s.port p).requests.take 1).map fun r => { r with orphaned := true }
          replies := [{ kind := 0xA9, tag := tag, status := .done, body := [] }]
          notices := []
          dropped := false
          discards := 0
          silent := false
          lastHeard := s.clock
          subscription := defaultSubscription (s.role p) }) ∧
    (∀ r, s.inService p = some r → s.serves p (.portRestart p none) = true →
      ∃ u : State, exec (.portRestart p none) s = .next u.settle ∧
        u = { s with vol.links := u.vol.links, vol.ports := u.vol.ports } ∧
        (∀ g : Group, u.link g = (s.link g).filter fun l => l.owner ≠ p) ∧
        (∀ q, q ≠ p → u.port q = s.port q) ∧
        u.port p =
          { s.port p with
            requests := []
            replies := [{ kind := 0xA9, tag := r.tag, status := .done, body := [] }]
            notices := []
            dropped := false
            discards := 0
            silent := false
            lastHeard := s.clock
            subscription := defaultSubscription (s.role p) }))

/-! ### Reads -/

/-- A read that is let pass changes nothing but its own port, in COMMISSION and in SERVICE. In SERVICE a READ-TALLY is let pass
where its tally's readable-by mask holds the role, a CRANE-READ of a CRANE port where the crane is its own (log entry 45), and
BOOK-READ, BOOK-STATUS and PORT-STATUS from an UNUSED port too (log entry 44) (R1, R14, R16, R168, R183). -/
def Obligations.ReadsChangeOnlyTheirOwnPort : Prop :=
  ∀ (s : State) (p : Port) (c : Instr) (kind : Byte) (payload : List Byte),
    encodeRequest c = some (kind, payload) → kind.toNat ≤ 0x12 → kind ≠ 0x03 → kind ≠ 0x04 →
    (s.reads p c ∨
      (s.readsOpenly p c ∧ ((∃ sect entry, c = .bookRead p sect entry) ∨ c = .bookStatus p ∨ ∃ n, c = .portStatus p n))) →
    (∀ n, c = .readTally p n → s.part = .service → State.tallyGate n p s = none) →
    (∀ n, c = .craneRead p n → s.craneMayRead p n) →
    ∃ t : State, exec c s = .next t ∧ t = { s with vol.ports := t.vol.ports } ∧ (∀ q, q ≠ p → t.port q = s.port q) ∧
      (t.port p).requests = (s.port p).requests.tail

/-- BOOK-READ answers the record as stored, and MALFORMED where the section or entry is none of Table 1-1; BOOK-STATUS answers
the part state, the book status, the stored check word, NOT-ESTABLISHED and the acceptance result. Both are answered in
COMMISSION and in SERVICE, from any port whatever its role (R1). That R1 and not R168 governs an UNUSED port here is log
entry 44. The presence bytes of the check word and of the acceptance result are log entries 21 and 23. -/
def Obligations.BookReadsAnswerTheStore : Prop :=
  ∀ (s : State) (p : Port),
    let record := fun sect entry : Nat =>
      match s.book.read sect entry with
      | some vs => s.answer p .done vs
      | none => s.answer p .malformed []
    let status : State :=
      s.answer p .done
        ([.u8 (partCode s.part), .u8 (bookStatusCode s.bookStatus)] ++
          (match s.bookCheck with
           | none => [.u8 0]
           | some w => [.u8 1, .u32 w.toNat]) ++
          [.u8 s.kept.notEstablished.toNat] ++
          (match s.vol.acceptance with
           | .none => [.u8 0, .u8 0, .u8 0, .u8 0]
           | .passed => [.u8 1, .u8 0, .u8 0, .u8 0]
           | .failed sect entry code =>
             [.u8 2, .u8 1, .u8 sect, .u8 1, .u16 entry, .u8 1, .u8 (checkCodeByte code)]))
    (∀ sect entry, (s.book.read sect entry).isSome = true ↔ ∃ last, (sect, last) ∈ sectionEntries ∧ entry ≤ last) ∧
    (∀ sect entry, s.readsOpenly p (.bookRead p sect entry) →
      exec (.bookRead p sect entry) s = .next (record sect entry)) ∧
    (s.readsOpenly p (.bookStatus p) → exec (.bookStatus p) s = .next status)

/-- LOT-READ answers the record of a handle that is not free with its contributing weight and LCG, UNKNOWN-LOT for a free handle
and MALFORMED above 1023. SPACE-READ answers a space that exists with its book record, LIVE weight, PLAN weight, lot count,
generation, list length and the entries from the position on, and OUT-OF-SPACE otherwise. ASHORE-READ answers the length of the
ashore list and its entries from the position on. The LIVE weight of a space is the sum of the weights of the lots STOWED in it
and HOOKED (DISCHARGING) from it, the PLAN weight that of the lots STOWED in it for KEEP, HOOKED (LOADING) for it and PLANNED
for it, and the lot count the number of its lots but those ASHORE (R23, R25, R40, R41). -/
def Obligations.StowageReadsAnswerTheTable : Prop :=
  (∀ (s : State) (p : Port),
    (∀ h l, s.reads p (.lotRead p h) → h < 1024 → s.kept.lot h = some l →
      exec (.lotRead p h) s = .next (s.answer p .done (lotVals h l))) ∧
    (∀ h, s.reads p (.lotRead p h) → h < 1024 → s.kept.lot h = none →
      exec (.lotRead p h) s = .next (s.answer p .unknownLot [.u8 1, .u16 h, .u64 s.kept.generation])) ∧
    (∀ h, s.reads p (.lotRead p h) → 1024 ≤ h → exec (.lotRead p h) s = .next (s.answer p .malformed [])) ∧
    (∀ space pos b, s.reads p (.spaceRead p space pos) → space < s.book.spaceCount → s.book.spaces[space]? = some b →
      exec (.spaceRead p space pos) s =
        .next (s.answer p .done
          (listVals
            (b.vals ++ [.i32 (s.liveWeight space), .i32 (s.planWeight space), .u16 (s.lotCount space),
              .u64 s.kept.generation, .u16 (s.kept.stowList space).length])
            (((s.kept.stowList space).drop pos).map (stowEntryVals s.kept))))) ∧
    (∀ space pos, s.reads p (.spaceRead p space pos) → s.book.spaceCount ≤ space →
      exec (.spaceRead p space pos) s =
        .next (s.answer p .outOfSpace [.u8 2, .u16 space, .u64 s.kept.generation])) ∧
    (∀ pos, s.reads p (.ashoreRead p pos) →
      exec (.ashoreRead p pos) s =
        .next (s.answer p .done
          (listVals [.u16 s.kept.ashore.length] ((s.kept.ashore.drop pos).map (ashoreEntryVals s.kept)))))) ∧
  (∀ (s : State) (n : Nat), s.kept.lotsInv →
    let total := fun f : Lot → Int => ((List.range 1024).map fun h => ((s.kept.lot h).map f).getD 0).sum
    let here := fun (l : Lot) (z : Int) => if l.space = n then z else 0
    s.liveWeight n =
      total (fun l =>
        match l.state with
        | .stowed _ _ | .hookedDischarging _ _ => here l (l.verified.getD l.declared)
        | .planned | .hookedLoading _ | .ashore _ => 0) ∧
    s.planWeight n =
      total (fun l =>
        match l.state with
        | .stowed .keep _ | .hookedLoading _ | .planned => here l (l.verified.getD l.declared)
        | .stowed .discharge _ | .hookedDischarging _ _ | .ashore _ => 0) ∧
    (s.lotCount n : Int) =
      total (fun l =>
        match l.state with
        | .ashore _ => 0
        | .planned | .hookedLoading _ | .hookedDischarging _ _ | .stowed _ _ => here l 1))

/-- CHANNEL-READ answers a channel's fitted mark, state, counter, run, mode, awaiting mark, STALE flag, reference with its
doubtful mark, lost count, queue occupancy and level; above 38 it is MALFORMED. TANK-READ answers a tank that exists with its
fill record and its channel's state and STALE flag, and, on a VALID book, its current and planned contents and held mark;
otherwise it is MALFORMED (R72; the absences on an UNCHECKED book by R19). One presence byte for a whole reference and one for
the contents of a tank are log entry 21. -/
def Obligations.ChannelReadsAnswerTheRecords : Prop :=
  ∀ (s : State) (p : Port),
    (∀ ch : ChannelNo, s.reads p (.channelRead p ch.val) →
      exec (.channelRead p ch.val) s =
        .next (s.answer p .done
          ([.u8 (s.fitted ch).toNat, .u8 (channelStateCode (s.channelKept ch).state), .u16 (s.channelKept ch).counter,
            .u16 (s.channelKept ch).run, .u8 (modeCode (s.channelKept ch).mode), .u8 (s.channelKept ch).awaiting.toNat,
            .u8 (s.channelLive ch).stale.toNat] ++
            (match (s.channelLive ch).reference with
             | none => [.u8 0]
             | some r => .u8 1 :: (readingVals r.value ++ [.u32 r.arrival.toNat, .u8 r.doubtful.toNat])) ++
            [.u16 (s.channelLive ch).lost, .u16 s.vol.queue.length, .u8 s.vol.queueLevel]))) ∧
    (∀ n, s.reads p (.channelRead p n) → 39 ≤ n → exec (.channelRead p n) s = .next (s.answer p .malformed [])) ∧
    (∀ t : TankNo, s.reads p (.tankRead p t.val) → t.val < s.book.tankCount → s.bookStatus = .valid →
      exec (.tankRead p t.val) s =
        .next (s.answer p .done
          ([.i32 (s.tank t).applied, .u8 (sourceCode (s.tank t).source), .i32 (s.tank t).density] ++
            (match (s.tank t).planned with
             | none => [.u8 0]
             | some z => [.u8 1, .i32 z]) ++
            (.u8 1 :: (s.currentContents t).vals) ++ (.u8 1 :: (s.plannedContents t).vals) ++
            [.u8 (channelStateCode (s.channelKept (tankChannel t)).state),
             .u8 (s.channelLive (tankChannel t)).stale.toNat, .u8 1, .u8 (s.tankHeld t).toNat]))) ∧
    (∀ t : TankNo, s.reads p (.tankRead p t.val) → t.val < s.book.tankCount → s.bookStatus = .unchecked →
      exec (.tankRead p t.val) s =
        .next (s.answer p .done
          ([.i32 (s.tank t).applied, .u8 (sourceCode (s.tank t).source), .i32 (s.tank t).density] ++
            (match (s.tank t).planned with
             | none => [.u8 0]
             | some z => [.u8 1, .i32 z]) ++
            [.u8 0, .u8 0, .u8 (channelStateCode (s.channelKept (tankChannel t)).state),
             .u8 (s.channelLive (tankChannel t)).stale.toNat, .u8 0]))) ∧
    (∀ n, s.reads p (.tankRead p n) → 32 ≤ n ∨ s.book.tankCount ≤ n →
      exec (.tankRead p n) s = .next (s.answer p .malformed []))

/-- CAPTURE-READ answers DONE with the mode and the state and, when HOLDING, the captured set, the generation and the snapshot
clock, as the capture stands, in COMMISSION and in SERVICE from any role but UNUSED; it changes nothing but its own port (R124).
A presence byte for each of set, generation and clock is log entry 21. -/
def Obligations.CaptureReadShowsTheCapture : Prop :=
  ∀ (s : State) (p : Port), s.reads p (.captureRead p) →
    (s.vol.capture.held = none →
      exec (.captureRead p) s =
        .next (s.answer p .done [.u8 (captureModeCode s.vol.capture.mode), .u8 0, .u8 0, .u8 0, .u8 0])) ∧
    (∀ h, s.vol.capture.held = some h →
      exec (.captureRead p) s =
        .next (s.answer p .done
          [.u8 (captureModeCode s.vol.capture.mode), .u8 1, .u8 1, .u16 (criteriaMask h.fails), .u8 1, .u64 h.generation,
           .u8 1, .u32 h.clock.toNat]))

/-- VERDICT-READ answers the job state, the generation and the verdict record or its absence; LINK-READ the link of a hold group
with the generation; READ-JOURNAL the entries held from the generation on, or GONE with the oldest generation held below it;
FIXED-READ an item's values in force and in the book. A set, hold group or item that does not exist is MALFORMED (R119, R138,
R141, R142). The presence bytes, and the generation carried for an invalid link too, are log entry 21; the value bytes of GONE are log
entry 52. -/
def Obligations.RecordReadsAnswerTheRecords : Prop :=
  ∀ (s : State) (p : Port),
    (s.reads p (.verdictRead p 0) →
      exec (.verdictRead p 0) s =
        .next (s.answer p .done
          ([.u8 (jobState s.vol.livePending (s.isRunning .live)), .u64 s.kept.generation] ++
            (match s.vol.liveVerdict with
             | none => [.u8 0]
             | some v => .u8 1 :: verdictVals v)))) ∧
    (s.reads p (.verdictRead p 1) →
      exec (.verdictRead p 1) s =
        .next (s.answer p .done
          ([.u8 (jobState s.vol.planPending (s.isRunning .plan)), .u64 s.kept.generation] ++
            (match s.vol.planVerdict with
             | none => [.u8 0]
             | some v => .u8 1 :: verdictVals v)))) ∧
    (∀ n, s.reads p (.verdictRead p n) → 2 ≤ n → exec (.verdictRead p n) s = .next (s.answer p .malformed [])) ∧
    (∀ g : Group, s.reads p (.linkRead p (g.val + 1)) → s.link g = none →
      exec (.linkRead p (g.val + 1)) s =
        .next (s.answer p .done [.u8 0, .u8 0, .u8 0, .u8 0, .u8 0, .u64 s.kept.generation])) ∧
    (∀ (g : Group) (l : Link), s.reads p (.linkRead p (g.val + 1)) → s.link g = some l →
      exec (.linkRead p (g.val + 1)) s =
        .next (s.answer p .done
          ([.u8 1, .u8 1, .u8 l.owner.val, .u8 1, .u8 l.target] ++
            (match l.staged with
             | none => [.u8 0]
             | some am => [.u8 1, .u8 (journalKindCode am.journalKind)]) ++
            [.u8 1, .u8 l.committing.toNat, .u64 s.kept.generation]))) ∧
    (∀ n, s.reads p (.linkRead p n) → n = 0 ∨ 7 ≤ n → exec (.linkRead p n) s = .next (s.answer p .malformed [])) ∧
    (∀ gen, s.reads p (.readJournal p gen) → s.kept.generation ≤ 64 ∨ s.kept.generation - 63 ≤ gen →
      exec (.readJournal p gen) s =
        .next (s.answer p .done
          (listVals
            [.u64 s.kept.generation, .u16 (s.kept.journal.filter fun e => decide (gen ≤ e.generation)).length]
            ((s.kept.journal.filter fun e => decide (gen ≤ e.generation)).map journalVals)))) ∧
    (∀ gen, s.reads p (.readJournal p gen) → 64 < s.kept.generation → gen < s.kept.generation - 63 →
      exec (.readJournal p gen) s =
        .next (s.answer p .gone [.u8 0, .u16 0, .u64 s.kept.generation, .u64 (s.kept.generation - 63)])) ∧
    (∀ i : Fin 16, s.reads p (.fixedRead p i.val) → i.val < s.book.fixedCount →
      exec (.fixedRead p i.val) s =
        .next (s.answer p .done
          [.text s.book.fixed[i.val].label, .i32 s.kept.fixed[i.val].weight, .i32 s.kept.fixed[i.val].x,
           .i32 s.kept.fixed[i.val].z, .i32 s.kept.fixed[i.val].y, .u8 (presenceCode s.kept.fixed[i.val].presence),
           .i32 s.book.fixed[i.val].weight, .i32 s.book.fixed[i.val].x, .i32 s.book.fixed[i.val].z,
           .i32 s.book.fixed[i.val].y, .u8 s.book.fixed[i.val].presence])) ∧
    (∀ n, s.reads p (.fixedRead p n) → 16 ≤ n ∨ s.book.fixedCount ≤ n →
      exec (.fixedRead p n) s = .next (s.answer p .malformed []))

/-- CRANE-READ answers the record of a crane that exists and MALFORMED otherwise; FAULT-READ the Access Fault Record or its
absence; PORT-STATUS a port's book record, queues, flags, subscription and discard count with the part state and the book
status, clearing the requesting port's own dropped flag behind the reply; READ-TALLY, where it is let pass, a tally's value,
flag and control (R14, R162, R169, R176, R183). PORT-STATUS is answered to any port, an UNUSED one among them (log entry 44).
A CRANE port in SERVICE reads its own cranes here; that another crane is denied it is log entry 45 and stands in
`AccessTableBreachIsDenied`. FAULT-READ's single presence byte and the form of its value are log entries 21 and 22, the reasons
byte of a crane's record is log entry 9 and its presence bytes log entry 21. -/
def Obligations.StationReadsAnswerTheRecords : Prop :=
  ∀ (s : State) (p : Port),
    (∀ c : CraneNo, s.reads p (.craneRead p (c.val + 1)) → s.craneMayRead p (c.val + 1) → c.val + 1 ≤ s.book.craneCount →
      exec (.craneRead p (c.val + 1)) s = .next (s.answer p .done (s.craneVals c))) ∧
    (∀ n, s.reads p (.craneRead p n) → s.craneMayRead p n → n = 0 ∨ 5 ≤ n ∨ s.book.craneCount < n →
      exec (.craneRead p n) s = .next (s.answer p .malformed [])) ∧
    (s.reads p (.faultRead p) → s.vol.accessFault = none →
      exec (.faultRead p) s = .next (s.answer p .done [.u8 0])) ∧
    (∀ f, s.reads p (.faultRead p) → s.vol.accessFault = some f →
      exec (.faultRead p) s =
        .next (s.answer p .done
          ([.u8 1, .u8 f.port.val, .u8 (roleCode f.role), .u8 f.kind.toNat, .u8 (causeCode f.cause)] ++
            faultVals f.value))) ∧
    (∀ q : Port, s.readsOpenly p (.portStatus p q.val) →
      exec (.portStatus p q.val) s =
        .next ((if q = p then s.onPort p fun x => { x with dropped := false } else s).answer p .done
          [.u8 s.book.ports[q.val].role, .u8 s.book.ports[q.val].cranes, .u8 (s.port q).silent.toNat,
           .u16 (s.port q).requests.length, .u16 (s.port q).replies.length, .u16 (s.port q).notices.length,
           .u8 (s.port q).dropped.toNat, .u16 (s.port q).subscription.toNat, .u16 (s.port q).discards,
           .u8 (partCode s.part), .u8 (bookStatusCode s.bookStatus)])) ∧
    (∀ n, s.readsOpenly p (.portStatus p n) → 6 ≤ n → exec (.portStatus p n) s = .next (s.answer p .malformed [])) ∧
    (∀ i : Fin 8, s.reads p (.readTally p i.val) →
      (s.part = .service → roleIn s.vol.tallies[i.val].control.readable (s.role p) = true) →
      exec (.readTally p i.val) s =
        .next (s.answer p .done
          [.u32 s.vol.tallies[i.val].value, .u8 s.vol.tallies[i.val].overflow.toNat, .u8 s.vol.tallies[i.val].control.cls,
           .u8 s.vol.tallies[i.val].control.subevents.toNat, .u8 s.vol.tallies[i.val].control.roles.toNat,
           .u8 s.vol.tallies[i.val].control.groups.toNat, .u8 s.vol.tallies[i.val].control.inhibit.toNat,
           .u8 s.vol.tallies[i.val].control.notice.toNat, .u8 s.vol.tallies[i.val].control.readable.toNat]))

/-! ### The Vessel Book (01) -/

/-- In COMMISSION a BOOK-WRITE whose record fits its section and entry replaces that entry whole with the record as given,
erases the check word, makes the book UNCHECKED and is answered DONE; every other entry reads as before; one that fits no entry
is answered MALFORMED and changes nothing (R17). -/
def Obligations.BookWriteStoresTheRecord : Prop :=
  ∀ (s : State) (p : Port) (sect entry : Nat) (record : List Byte),
    s.commissions p (.bookWrite p sect entry record) →
    (∀ vs, recordVals sect entry record = some vs →
      encodeVals vs = record ∧
      exec (.bookWrite p sect entry record) s =
        .next (State.answer { s with book := s.book.write sect entry vs, bookCheck := none, bookStatus := .unchecked }
          p .done []) ∧
      (s.book.write sect entry vs).read sect entry = some vs ∧
      (∀ sect' entry', (sect', entry') ≠ (sect, entry) →
        (s.book.write sect entry vs).read sect' entry' = s.book.read sect' entry')) ∧
    (recordVals sect entry record = none →
      exec (.bookWrite p sect entry record) s = .next (s.answer p .malformed []))

/-- In COMMISSION a BOOK-ACCEPT of a book that fails a check answers BOOK-FAULT with section, entry and check code and keeps
them as the acceptance result; of a book that passes, it stores the check word, empties the condition, builds the sums, sets the
subscriptions by the accepted roles, answers BOOK-VALID and enters SERVICE (R18, R19, R73, R79). The reset of every crane's
volatile record is log entry 42, and a BOOK-FAULT without presence bytes log entry 23. -/
def Obligations.BookAcceptChecksAndEntersService : Prop :=
  ∀ (s : State) (p : Port), s.commissions p (.bookAccept p) →
    (∀ sect entry code, s.book.check = some (sect, entry, code) →
      exec (.bookAccept p) s =
        .next (State.answer { s with vol.acceptance := .failed sect entry code } p .bookFault
          [.u8 sect, .u16 entry, .u8 (checkCodeByte code)])) ∧
    (s.book.check = none →
      ∃ u : State, exec (.bookAccept p) s =
          .next (State.settle (State.answer u p .bookValid [.u32 s.book.word.toNat])) ∧
        u = { s with
          part := .service
          bookCheck := some s.book.word
          bookStatus := .valid
          kept := Kept.emptied s.book
          keptCheck := some (Kept.emptied s.book).word
          vol.acceptance := .passed
          vol.livePending := true
          vol.planPending := true
          vol.live := u.builtLive
          vol.plan := u.builtPlan
          vol.channels := Vector.replicate 39 ChannelLive.blank
          vol.cranes := Vector.replicate 4 CraneLive.blank
          vol.ports := Vector.ofFn fun q => { s.port q with subscription := defaultSubscription (s.role q) } })

/-- No command but a BOOK-WRITE served in COMMISSION changes a record of the book, and the reset or power loss that comes when a
BOOK-WRITE in service has replaced its entry (R1, R17; the operand of those two is the model's choice, log entry 13). -/
def Obligations.OnlyBookWriteChangesTheBook : Prop :=
  ∀ (c : Instr) (s t : State), exec c s = .next t →
    t.book = s.book ∨
    (s.part = .commission ∧
      ((∃ p sect entry record, c = .bookWrite p sect entry record) ∨
        ∃ p sect entry vs, (c = .resetAssert (some p) ∨ c = .powerLoss (some p)) ∧ s.writesBook p sect entry vs ∧
          t.book = s.book.write sect entry vs))

/-! ### The retained condition and its invariants (01, 02, 04, 07) -/

/-- Every change of the retained condition is written to its store with its check word, so that outside START the stored word is
that of the condition: every step keeps it (R19). -/
def Obligations.ConditionStaysStored : Prop :=
  ∀ s t : State, s.stored → step s = .next t → t.stored

/-- Every command but FRAME_DELIVER leaves the generation or advances it by one with an entry of that generation at the end of
the Journal, unless it empties the condition at START or BOOK-ACCEPT. A FRAME_DELIVER, which can carry several reports, leaves
the generation or advances it, each generation that it reaches with its entry, in order, among the newest 64 of the Journal
(R37, R139, R140). -/
def Obligations.GenerationAdvancesByOne : Prop :=
  (∀ (c : Instr) (s t : State), exec c s = .next t → (∀ p chars, c ≠ .frameDeliver p chars) →
    t.kept.generation = s.kept.generation ∨
    (t.kept.generation = s.kept.generation + 1 ∧
      t.kept.journal.getLast?.map JournalEntry.generation = some (s.kept.generation + 1)) ∨
    (t.kept = Kept.emptied s.book ∧ ((∃ high, c = .startChecksComplete high) ∨ ∃ p, c = .bookAccept p))) ∧
  (∀ (p : Port) (chars : List Byte) (s t : State), exec (.frameDeliver p chars) s = .next t →
    let all := s.kept.journal.map JournalEntry.generation ++
      List.range' (s.kept.generation + 1) (t.kept.generation - s.kept.generation)
    s.kept.generation ≤ t.kept.generation ∧ t.kept.generation ≤ s.kept.generation + chars.length ∧
    (t.kept.generation = s.kept.generation → t.kept.journal = s.kept.journal) ∧
    (s.kept.generation < t.kept.generation →
      t.kept.journal.map JournalEntry.generation = all.drop (all.length - 64)))

/-- The Journal holds the entries of the last 64 generations in ascending order: every step keeps it (R140). -/
def Obligations.JournalKeepsTheLastGenerations : Prop :=
  ∀ s t : State, s.kept.journalInv → step s = .next t → t.kept.journalInv

/-- The lot records, the stow sequence lists, the ashore list and the crane records agree: every step keeps it (R21, R25, R39,
R143, R145). -/
def Obligations.StowageTableStaysConsistent : Prop :=
  ∀ s t : State, s.kept.tableInv → step s = .next t → t.kept.tableInv

/-- Both sum sets are at every moment exactly the sums of the contributions of the items that the contributor table assigns to
them: every step keeps it, where the Stowage Table agrees with the crane records (R74, R75, R78, R79). -/
def Obligations.SumsStayExact : Prop :=
  ∀ s t : State, s.kept.tableInv → s.sumsInv → step s = .next t → t.sumsInv

/-- Four requests, eight replies, sixteen notices, a discard count of at most 65 535, at most 64 readings with no two of one
channel, and nothing waiting for a free line: every step keeps them (R52, R163, R166, R173, R175). -/
def Obligations.QueuesStayBoundedAndLinesBusy : Prop :=
  (∀ s t : State, s.portsBounded → step s = .next t → t.portsBounded) ∧
  (∀ s t : State, s.queueBounded → step s = .next t → t.queueBounded) ∧
  (∀ s t : State, s.linesInv → step s = .next t → t.linesInv)

/-- The LRU order stays an ordering of the six ports, and in SERVICE a free arbiter has no job waiting: every step keeps both
(R112, R114). -/
def Obligations.EvaluatorOrderAndArbiterHold : Prop :=
  ∀ s t : State, s.evaluatorInv → step s = .next t → t.evaluatorInv

/-! ### The Stowage Table's requests and the fixed items (02, 07) -/

/-- PURGE-ASHORE frees every ASHORE lot and empties the list as one applied change that touches neither sums nor pending marks,
and with an empty list changes nothing. FIXED-SET of an item that exists with values in range sets it as one applied change;
otherwise it is MALFORMED (R26, R142; a presence byte above 1 is out of range by log entry 31). -/
def Obligations.PurgeAndFixedSetApplyOneChange : Prop :=
  ∀ (s : State) (p : Port),
    (s.asks p (.purgeAshore p) [.officer] → s.kept.ashore = [] →
      exec (.purgeAshore p) s = .next (s.answer p .done [.u16 0, .u64 s.kept.generation])) ∧
    (s.asks p (.purgeAshore p) [.officer] → s.kept.ashore ≠ [] →
      ∃ u : State, exec (.purgeAshore p) s =
          .next (u.answer p .done [.u16 s.kept.ashore.length, .u64 (s.kept.generation + 1)]) ∧
        u = { s with kept := u.kept, keptCheck := u.keptCheck, vol.links := u.vol.links } ∧
        u.kept =
          { s.kept with lots := u.kept.lots, ashore := [], generation := u.kept.generation, journal := u.kept.journal } ∧
        (∀ h, u.kept.lot h = if h ∈ s.kept.ashore then none else s.kept.lot h) ∧
        s.appliesChange u
          { kind := .purgeAshore, handle := none, space := none, item := none, port := p, role := s.role p,
            overridden := false }
          (s.kept.ashore.filterMap fun h => (s.kept.lot h).map Lot.space) []) ∧
    (∀ (i : Fin 16) (w x z y : Int) (b : Nat),
      s.asks p (.fixedSet p i.val w x z y b) [.officer] → i.val < s.book.fixedCount → fixedOk s.book w x z y b = true →
      ∃ u : State, exec (.fixedSet p i.val w x z y b) s =
          .next (State.settle (u.answer p .done [.u64 (s.kept.generation + 1)])) ∧
        s.sameButChange u ∧
        u.kept =
          { s.kept with
            fixed := s.kept.fixed.set i.val { weight := w, x := x, z := z, y := y, presence := presenceOf b } i.isLt
            generation := u.kept.generation
            journal := u.kept.journal } ∧
        s.appliesChange u
          { kind := .fixedSet, handle := none, space := none, item := some i.val, port := p, role := s.role p,
            overridden := false } [] [.fixed i]) ∧
    (∀ (n : Nat) (w x z y : Int) (b : Nat), s.asks p (.fixedSet p n w x z y b) [.officer] →
      16 ≤ n ∨ s.book.fixedCount ≤ n ∨ fixedOk s.book w x z y b = false →
      exec (.fixedSet p n w x z y b) s = .next (s.answer p .malformed []))

/-! ### Tanks and channels (03) -/

/-- TANK-MANUAL sets a tank's applied sounding, clamped to 0 to depth, and its source MANUAL; TANK-DENSITY its density, clamped
to 6 000 to 20 000; TANK-PLAN its planned fill, clamped to 0 to depth, or none. The tank's contributions follow, a change of
source makes LIVE pending, TANK-PLAN leaves LIVE as it was, and a tank that does not exist is MALFORMED. The contents of a tank
are those of its sounding, brought within 0 to depth, in its table: an end point's or each value interpolated, the weight and
the free surface moment at the density in force, the moment 0 outside 2 to 98 per cent of the capacity; the current contents are
at the applied sounding, the planned ones at the planned fill or else the applied sounding (R7, R67 to R71, R107). -/
def Obligations.TankRequestsSetTheFill : Prop :=
  (∀ (s : State) (p : Port),
    (∀ (t : TankNo) (z : Int), s.asks p (.tankManual p t.val z) [.officer] → t.val < s.book.tankCount →
      ∃ u : State, exec (.tankManual p t.val z) s =
          .next (State.settle (u.answer p .done
            [.i32 (clamp 0 (s.tankBook t).consts.depth z), .i32 (u.currentContents t).weight])) ∧
        s.sameButCondition u ∧ s.resums u [.tank t] (decide ((s.tank t).source = .gauged)) ∧
        u.kept =
          { s.kept with
            tanks := s.kept.tanks.set t.val
              { s.tank t with applied := clamp 0 (s.tankBook t).consts.depth z, source := .manual } t.isLt }) ∧
    (∀ (t : TankNo) (d : Int), s.asks p (.tankDensity p t.val d) [.officer, .planner] → t.val < s.book.tankCount →
      ∃ u : State, exec (.tankDensity p t.val d) s =
          .next (State.settle (u.answer p .done [.i32 (clamp 6000 20000 d)])) ∧
        s.sameButCondition u ∧ s.resums u [.tank t] false ∧
        u.kept =
          { s.kept with
            tanks := s.kept.tanks.set t.val { s.tank t with density := clamp 6000 20000 d } t.isLt }) ∧
    (∀ (t : TankNo) (fill : Option Int), s.asks p (.tankPlan p t.val fill) [.officer, .planner] →
      t.val < s.book.tankCount →
      ∃ u : State, exec (.tankPlan p t.val fill) s =
          .next (State.settle (u.answer p .done
            (match fill with
             | none => [.u8 0]
             | some z => [.u8 1, .i32 (clamp 0 (s.tankBook t).consts.depth z)]))) ∧
        s.sameButCondition u ∧ s.resums u [.tank t] false ∧ u.vol.live = s.vol.live ∧
        u.vol.livePending = s.vol.livePending ∧
        u.kept =
          { s.kept with
            tanks := s.kept.tanks.set t.val
              { s.tank t with planned := fill.map (clamp 0 (s.tankBook t).consts.depth) } t.isLt }) ∧
    (∀ (n : Nat) (z : Int) (fill : Option Int), 32 ≤ n ∨ s.book.tankCount ≤ n →
      (s.asks p (.tankManual p n z) [.officer] → exec (.tankManual p n z) s = .next (s.answer p .malformed [])) ∧
      (s.asks p (.tankDensity p n z) [.officer, .planner] →
        exec (.tankDensity p n z) s = .next (s.answer p .malformed [])) ∧
      (s.asks p (.tankPlan p n fill) [.officer, .planner] →
        exec (.tankPlan p n fill) s = .next (s.answer p .malformed [])))) ∧
  (∀ (t : TankBook) (sounding density : Int),
    risingTable t.table SoundingPoint.sounding → 0 ≤ t.consts.depth → 0 < t.consts.refDensity →
    let x := t.contents sounding density
    ∃ (z : Int) (v : SoundingPoint), clampsTo 0 t.consts.depth sounding z ∧ t.readsAt z v ∧
      x.volume = v.volume ∧ x.lcg = v.lcg ∧ x.vcg = v.vcg ∧ x.tcg = v.tcg ∧ rounds (v.volume * density) 10000 x.weight ∧
      (20 * t.consts.capacity ≤ 1000 * v.volume ∧ 1000 * v.volume ≤ 980 * t.consts.capacity →
        rounds (v.fsm * density) t.consts.refDensity x.fsm) ∧
      (1000 * v.volume < 20 * t.consts.capacity ∨ 980 * t.consts.capacity < 1000 * v.volume → x.fsm = 0)) ∧
  (∀ (s : State) (t : TankNo),
    s.currentContents t = (s.tankBook t).contents (s.tank t).applied (s.tank t).density ∧
    ((s.tank t).planned = none → s.plannedContents t = s.currentContents t) ∧
    (∀ z, (s.tank t).planned = some z → s.plannedContents t = (s.tankBook t).contents z (s.tank t).density))

/-- CHANNEL-RESTORE sets a fitted channel ACTIVE with counter and run 0 and returns its tank to GAUGED, which makes LIVE pending
where the source changes, and changes nothing on an unfitted channel; CHANNEL-MODE sets a channel's recovery mode, or the
queue-high level, taken as 1 to 8, with QUEUE-HIGH where the occupancy stands at or above a changed threshold. A channel above
38 or a mode above 2 is MALFORMED (R50, R54, R61, R62, R70, R107; a level that does not change leaves the flag by log entry
15). -/
def Obligations.ChannelRequestsSetTheChannel : Prop :=
  ∀ (s : State) (p : Port),
    (∀ ch : ChannelNo, s.asks p (.channelRestore p ch.val) [.officer] → s.fitted ch = true →
      ∃ u : State, exec (.channelRestore p ch.val) s =
          .next (State.settle ((u.noteCondition (s.condition ch) ch).answer p .done [])) ∧
        u = { s with kept := u.kept, keptCheck := some u.kept.word, vol.livePending := u.vol.livePending } ∧
        u.kept =
          { s.kept with
            channels := s.kept.channels.set ch.val { s.channelKept ch with state := .active, counter := 0, run := 0 } ch.isLt
            tanks := u.kept.tanks } ∧
        (∀ t : TankNo, u.tank t = if channelKind ch = .tank t then { s.tank t with source := .gauged } else s.tank t) ∧
        (u.vol.livePending = true ↔
          s.vol.livePending = true ∨ ∃ t : TankNo, channelKind ch = .tank t ∧ (s.tank t).source = .manual)) ∧
    (∀ ch : ChannelNo, s.asks p (.channelRestore p ch.val) [.officer] → s.fitted ch = false →
      exec (.channelRestore p ch.val) s = .next (State.settle (s.answer p .done []))) ∧
    (∀ n, s.asks p (.channelRestore p n) [.officer] → 39 ≤ n →
      exec (.channelRestore p n) s = .next (s.answer p .malformed [])) ∧
    (∀ (ch : ChannelNo) (m : Nat), s.asks p (.channelModeChannel p ch.val m) [.officer] → m ≤ 2 →
      ∃ u : State, exec (.channelModeChannel p ch.val m) s =
          .next (State.settle ((u.noteCondition (s.condition ch) ch).answer p .done [.u8 m])) ∧
        u = { s with kept := u.kept, keptCheck := some u.kept.word } ∧
        u.kept =
          { s.kept with
            channels := s.kept.channels.set ch.val { s.channelKept ch with mode := modeOf m } ch.isLt }) ∧
    (∀ n m, s.asks p (.channelModeChannel p n m) [.officer] → 39 ≤ n ∨ 3 ≤ m →
      exec (.channelModeChannel p n m) s = .next (s.answer p .malformed [])) ∧
    (∀ n, s.asks p (.channelModeQueueLevel p n) [.officer] →
      let level := if n = 0 then 1 else min n 8
      let u : State := { s with vol.queueLevel := level, vol.highArmed := true }
      (level = s.vol.queueLevel →
        exec (.channelModeQueueLevel p n) s = .next (State.settle (s.answer p .done [.u8 level]))) ∧
      (level ≠ s.vol.queueLevel → s.vol.queue.length < level * 8 →
        exec (.channelModeQueueLevel p n) s = .next (State.settle (u.answer p .done [.u8 level]))) ∧
      (level ≠ s.vol.queueLevel → level * 8 ≤ s.vol.queue.length →
        exec (.channelModeQueueLevel p n) s =
          .next (State.settle (State.answer
            { u.issue .queueHigh 0 [.u16 s.vol.queue.length, .u8 level] with vol.highArmed := false }
            p .done [.u8 level]))))

/-- A reading report from a port that may send it replaces its channel's entry, joins the tail, with QUEUE-HIGH as the occupancy
reaches the threshold, or at 64 entries is lost, counted and announced; on an unfitted channel it is discarded. One of a wrong
form is counted as a discard, one that breaks the access table is recorded, and in COMMISSION a report has no effect but that
its port is heard (R16, R50 to R54, R168, R170). -/
def Obligations.ReadingReportsEnterTheQueue : Prop :=
  ∀ (s : State) (p : Port) (n : Nat) (v : ReadingValue),
    let u : State := s.onPort p fun q => { q with silent := false, lastHeard := s.clock }
    (s.part = .start → exec (.readingReport p n v) s = .next s) ∧
    (s.part = .commission → exec (.readingReport p n v) s = .next u) ∧
    (s.part = .service → 39 ≤ n ∨ readingFits n v = false →
      exec (.readingReport p n v) s = .next (u.onPort p fun q => { q with discards := min (q.discards + 1) 65535 })) ∧
    (s.part = .service → n < 39 → readingFits n v = true → s.role p ≠ .gauge → s.role p ≠ .crane →
      exec (.readingReport p n v) s = .next (State.settle (u.breach p 0x60 .role (.channel n)))) ∧
    (s.part = .service → n < 39 → readingFits n v = true →
      (s.role p = .gauge ∧ 35 ≤ n) ∨ (s.role p = .crane ∧ (n < 35 ∨ s.ownsCrane p (n - 34) = false)) →
      exec (.readingReport p n v) s = .next (State.settle (u.breach p 0x60 .channelNotOwn (.channel n)))) ∧
    (∀ ch : ChannelNo, ch.val = n → s.part = .service → readingFits n v = true →
      (s.role p = .gauge ∧ n < 35) ∨ (s.role p = .crane ∧ 35 ≤ n ∧ s.ownsCrane p (n - 34) = true) →
      let e : QueueEntry := { channel := ch, value := v, arrival := s.clock, port := p, role := s.role p }
      let found := s.vol.queue.find? fun x => decide (x.channel = ch)
      let event := fun (sub : Nat) (role : Role) =>
        ({ cls := .readings, sub := sub, role := some role, group := none, amount := 1 } : TallyEvent)
      (s.fitted ch = false → exec (.readingReport p n v) s = .next u.settle) ∧
      (s.fitted ch = true → ∀ old, found = some old →
        exec (.readingReport p n v) s =
          .next (State.settle (State.count
            { u with vol.queue := s.vol.queue.map fun (x : QueueEntry) => if x.channel = ch then e else x }
            (event 1 old.role)))) ∧
      (s.fitted ch = true → found = none → s.vol.queue.length < 64 →
        (s.vol.queue.length + 1 ≠ s.vol.queueLevel * 8 ∨ s.vol.highArmed = false) →
        exec (.readingReport p n v) s = .next (State.settle { u with vol.queue := s.vol.queue ++ [e] })) ∧
      (s.fitted ch = true → found = none → s.vol.queue.length < 64 →
        s.vol.queue.length + 1 = s.vol.queueLevel * 8 → s.vol.highArmed = true →
        exec (.readingReport p n v) s =
          .next (State.settle
            { State.issue { u with vol.queue := s.vol.queue ++ [e] } .queueHigh 0
                [.u16 (s.vol.queue.length + 1), .u8 s.vol.queueLevel] with
              vol.highArmed := false })) ∧
      (s.fitted ch = true → found = none → 64 ≤ s.vol.queue.length →
        exec (.readingReport p n v) s =
          .next (State.settle (State.count
            (State.issue (u.onChannelLive ch fun k => { k with lost := min (k.lost + 1) 255 }) .readingLost 0
              [.u8 n, .u16 (min ((s.channelLive ch).lost + 1) 255)])
            (event 2 (s.role p))))))

/-- The applier removes the head reading and applies it to its channel as one operation, and the high-armed flag is set as the
occupancy falls below the threshold. The channel steps. An accepted reading becomes the reference and clears STALE; the change
of the channel's condition is noted; the sounding goes to a GAUGED tank, clamped to 0 to depth, and moves the sums with their
pending marks; a draft or heel makes LIVE pending; a hook reading is handed to its crane as `HookReadingsAndStaleness` says; and
the acceptance is counted. A reading not accepted changes its channel and the notice of its condition alone, and counts where it
was implausible. A reading of an unfitted channel is discarded. Nothing is applied outside SERVICE, nor from an empty queue (log
entry 2) (R16, R50, R54, R55, R58, R64 to R66, R69, R153). -/
def Obligations.ApplierAppliesTheHeadReading : Prop :=
  (∀ s : State, s.part ≠ .service ∨ s.vol.queue = [] → exec .applyReading s = .next s) ∧
  (∀ (s : State) (e : QueueEntry) (rest : List QueueEntry), s.part = .service → s.vol.queue = e :: rest →
    let ch := e.channel
    let ok := s.plausible e
    let after := (s.channelKept ch).step ok
    let event := fun sub : Nat =>
      ({ cls := .readings, sub := sub, role := some e.role, group := none, amount := 1 } : TallyEvent)
    let u : State :=
      { s with
        vol.queue := rest
        vol.highArmed := s.vol.highArmed || decide (rest.length < s.vol.queueLevel * 8) }
    let stepped : State := u.setKept { s.kept with channels := s.kept.channels.set ch.val after.1 ch.isLt }
    let taken : State :=
      (stepped.onChannelLive ch fun k =>
        { k with
          stale := false
          reference := some { value := e.value, arrival := e.arrival, doubtful := decide (after.1.state = .doubtful) } }).noteCondition
        (s.condition ch) ch
    (s.fitted ch = false → exec .applyReading s = .next u.settle) ∧
    (s.fitted ch = true → after.2 = false → ok = true →
      exec .applyReading s = .next (State.settle (stepped.noteCondition (s.condition ch) ch))) ∧
    (s.fitted ch = true → ok = false →
      after.2 = false ∧
      exec .applyReading s = .next (State.settle ((stepped.noteCondition (s.condition ch) ch).count (event 3)))) ∧
    (s.fitted ch = true → after.2 = true →
      (∀ (n : TankNo) (v : Int), channelKind ch = .tank n → e.value = .level v →
        ((s.tank n).source = .manual → exec .applyReading s = .next (State.settle (taken.count (event 0)))) ∧
        ((s.tank n).source = .gauged →
          ∃ w : State, exec .applyReading s = .next (State.settle (w.count (event 0))) ∧
            taken.sameButCondition w ∧ taken.resums w [.tank n] false ∧
            w.kept =
              { taken.kept with
                tanks := s.kept.tanks.set n.val
                  { s.tank n with applied := clamp 0 (s.tankBook n).consts.depth v } n.isLt })) ∧
      (∀ v : Int, channelKind ch = .draft ∨ channelKind ch = .heel → e.value = .level v →
        exec .applyReading s = .next (State.settle ({ taken with vol.livePending := true }.count (event 0)))) ∧
      (∀ (c : CraneNo) (load : Nat) (x y z : Int), channelKind ch = .hook c → e.value = .hook load x y z →
        exec .applyReading s =
          .next (State.settle
            ((taken.hookReading c { load := load, head := { x := x, z := z, y := y }, arrival := e.arrival }).count
              (event 0))))))

/-- The error counter, the state and the acceptance follow R58 to R60 at each reading; and from counter 0 a run of n implausible
readings brings the counter to 8 n, held at 256, with the channel ACTIVE up to 95, DOUBTFUL up to 127, DISTRUSTED up to 255 and
ISOLATED at 256. -/
def Obligations.ChannelHealthFollowsTheCounter : Prop :=
  (∀ (k : ChannelKept) (ok : Bool), k.state ≠ .isolated →
    let n := if ok then k.counter - 1 else min (k.counter + 8) 256
    let st : ChannelState :=
      if n ≤ 95 then .active else if n ≤ 127 then .doubtful else if n ≤ 255 then .distrusted else .isolated
    (k.step ok).1 = { k with counter := n, state := st, run := if 256 ≤ n then 0 else k.run } ∧
    ((k.step ok).2 = true ↔ ok = true ∧ n ≤ 127)) ∧
  (∀ k : ChannelKept, k.state = .isolated →
    k.step false = ({ k with run := 0 }, false) ∧
    (31 ≤ k.run → k.mode = .automatic →
      k.step true = ({ k with counter := 0, state := .active, run := 0 }, true)) ∧
    (k.run < 31 ∨ k.mode ≠ .automatic → k.step true = ({ k with run := min (k.run + 1) 32 }, false))) ∧
  (∀ (m : RecoveryMode) (n : Nat),
    let k := Nat.repeat (fun x : ChannelKept => (x.step false).1) n { state := .active, counter := 0, run := 0, mode := m }
    k.counter = min (8 * n) 256 ∧ k.mode = m ∧
    (k.state = .active ↔ 8 * n ≤ 95) ∧ (k.state = .doubtful ↔ 95 < 8 * n ∧ 8 * n ≤ 127) ∧
    (k.state = .distrusted ↔ 127 < 8 * n ∧ 8 * n ≤ 255) ∧ (k.state = .isolated ↔ 256 ≤ 8 * n))

/-- A fitted channel whose freshness interval has expired, or without reference, becomes STALE in SERVICE. A change of a fitted
channel's condition issues a CHANNEL notice, and makes LIVE pending on channels 32 to 34 and where a GAUGED tank's value becomes
held or ceases to be. An expiry that is not due does nothing (R16, R63, R64, R69). The channel number of the notice stands in
its subject and not in its fields (log entry 20). -/
def Obligations.ChannelConditionsAreNotified : Prop :=
  (∀ (s : State) (ch : ChannelNo),
    (s.part = .service → s.fitted ch = true → (s.channelLive ch).stale = false →
      (∀ r, (s.channelLive ch).reference = some r → s.freshness ch < (elapsed r.arrival s.clock : Int)) →
      exec (.channelStaleExpiry ch) s =
        .next (State.settle ((s.onChannelLive ch fun k => { k with stale := true }).noteCondition (s.condition ch) ch))) ∧
    (s.part ≠ .service ∨ s.fitted ch = false ∨ (s.channelLive ch).stale = true ∨
      (∃ r, (s.channelLive ch).reference = some r ∧ (elapsed r.arrival s.clock : Int) ≤ s.freshness ch) →
      exec (.channelStaleExpiry ch) s = .next s)) ∧
  (∀ (s : State) (old : Condition) (ch : ChannelNo),
    (s.condition ch = old ∨ s.fitted ch = false → s.noteCondition old ch = s) ∧
    (s.condition ch ≠ old → s.fitted ch = true →
      s.noteCondition old ch =
        { s.issue .channel ch.val
            [.u8 (channelStateCode (s.channelKept ch).state), .u8 (s.channelLive ch).stale.toNat,
             .u8 (s.channelKept ch).awaiting.toNat, .u16 (s.channelKept ch).counter, .u16 (s.channelKept ch).run] with
          vol.livePending :=
            s.vol.livePending ||
            decide (32 ≤ ch.val ∧ ch.val ≤ 34 ∨
              ∃ t : TankNo, t.val = ch.val ∧ (s.tank t).source = .gauged ∧
                holds old.state old.stale ≠ holds (s.channelKept ch).state (s.channelLive ch).stale) }))

/-! ### The Evaluator (04, 06) -/

/-- A running LIVE pass completes: the LIVE verdict is replaced by the record of its snapshot, the capture is updated, the
Supervisor is handed the verdict in place of any earlier one, a VERDICT notice is issued where the replaced verdict is absent or
differs in a criterion's result or a flag, the events LIVE pass and, when NON-COMPLIANT, LIVE failing are counted, and the
arbiter is free to grant. A PLAN pass completes in the same way but for capture, Supervisor and event. Without such a pass
nothing happens (log entry 2). The figures of a pass over a snapshot of a positive weight, on a book whose tables rise and whose
divisors are positive, are those of its stages: centres, hydrostatics, GM, trim, drafts, list, levers, areas, strength,
criteria, observation flags and upright moment (R81 to R105, R116 to R118). -/
def Obligations.PassCompletionReplacesTheVerdict : Prop :=
  (∀ s : State,
    let event := fun sub : Nat =>
      ({ cls := .evaluations, sub := sub, role := none, group := none, amount := 1 } : TallyEvent)
    (∀ snap, s.vol.running = some { kind := .live, snap := snap } →
      let v : Verdict :=
        { set := .live, generation := snap.generation, clock := snap.clock, mode := snap.mode, fig := evaluate s.book snap }
      let u : State :=
        { s with vol.liveVerdict := some v, vol.capture := s.vol.capture.update v, vol.supervisor := some v,
                 vol.running := none }
      let es := if v.fig.failing then [event 0, event 1] else [event 0]
      (s.vol.liveVerdict = none ∨
          (∃ old, s.vol.liveVerdict = some old ∧ (old.fig.fails ≠ v.fig.fails ∨ old.fig.flags ≠ v.fig.flags)) →
        exec .livePassComplete s = .next (State.settle ((u.issue .verdict 0 (verdictNotice v)).countAll es))) ∧
      (∀ old, s.vol.liveVerdict = some old → old.fig.fails = v.fig.fails → old.fig.flags = v.fig.flags →
        exec .livePassComplete s = .next (State.settle (u.countAll es)))) ∧
    (∀ snap, s.vol.running = some { kind := .plan, snap := snap } →
      let v : Verdict :=
        { set := .plan, generation := snap.generation, clock := snap.clock, mode := snap.mode, fig := evaluate s.book snap }
      let u : State := { s with vol.planVerdict := some v, vol.running := none }
      (s.vol.planVerdict = none ∨
          (∃ old, s.vol.planVerdict = some old ∧ (old.fig.fails ≠ v.fig.fails ∨ old.fig.flags ≠ v.fig.flags)) →
        exec .planPassComplete s = .next (State.settle ((u.issue .planVerdict 0 (verdictNotice v)).count (event 3)))) ∧
      (∀ old, s.vol.planVerdict = some old → old.fig.fails = v.fig.fails → old.fig.flags = v.fig.flags →
        exec .planPassComplete s = .next (State.settle (u.count (event 3))))) ∧
    ((∀ snap, s.vol.running ≠ some { kind := .live, snap := snap }) → exec .livePassComplete s = .next s) ∧
    ((∀ snap, s.vol.running ≠ some { kind := .plan, snap := snap }) → exec .planPassComplete s = .next s)) ∧
  (∀ (b : Book) (snap : Snapshot), 0 < snap.sums.w → b.sound → (evaluate b snap).arePassOf b snap)

/-- The Exceedance Capture at the completion of a LIVE pass: a COMPLIANT pass leaves it; a NON-COMPLIANT one fills an EMPTY
capture with its failing set, generation and snapshot clock; in mode FIRST a HOLDING capture stands; in mode ALL its set becomes
the union and its generation and clock the pass's. PLAN passes and TRIALs do not reach it (R121, R122). -/
def Obligations.CaptureFollowsItsMode : Prop :=
  (∀ (s : State) (snap : Snapshot), s.vol.running = some { kind := .live, snap := snap } →
    let f := evaluate s.book snap
    ∃ t : State, exec .livePassComplete s = .next t ∧
      t.vol.capture.mode = s.vol.capture.mode ∧
      (f.failing = false → t.vol.capture.held = s.vol.capture.held) ∧
      (f.failing = true → s.vol.capture.held = none →
        t.vol.capture.held = some { fails := f.fails, generation := snap.generation, clock := snap.clock }) ∧
      (∀ h, f.failing = true → s.vol.capture.held = some h →
        (s.vol.capture.mode = .first → t.vol.capture.held = some h) ∧
        (s.vol.capture.mode = .all →
          ∃ h', t.vol.capture.held = some h' ∧ h'.generation = snap.generation ∧ h'.clock = snap.clock ∧
            ∀ k : Fin 12, h'.fails[k.val] = (h.fails[k.val] || f.fails[k.val])))) ∧
  (∀ s t : State,
    exec .planPassComplete s = .next t ∨ exec .commitTrialComplete s = .next t ∨
      exec .clearanceTrialComplete s = .next t →
    t.vol.capture = s.vol.capture)

/-- Each time the free arbiter grants in SERVICE, it takes the LIVE job when it is pending, otherwise the TRIAL of the waiting
port that stands earliest in the LRU order, which that port then leaves for its most-recent end, otherwise the PLAN job when it
is pending; the granted job's mark is cleared and the snapshot taken. Outside SERVICE and while a pass runs it grants nothing
(R80, R110, R112 to R114). -/
def Obligations.ArbiterGrantsInItsOrder : Prop :=
  ∀ s : State, s.settle = s.grant.pumpAll ∧
    (s.part ≠ .service ∨ s.vol.running ≠ none → s.grant = s) ∧
    (s.part = .service → s.vol.running = none →
      (s.vol.livePending = true →
        s.grant =
          { s with
            vol.running := some { kind := .live, snap := s.snapshot s.vol.live (some s.observe) }
            vol.livePending := false }) ∧
      (s.vol.livePending = false → s.lruOrder → ∀ before p after t, s.vol.lru = before ++ p :: after →
        (∀ q ∈ before, s.trial q = none) → s.trial p = some t →
        s.grant =
          { s with
            vol.running := some { kind := .trial p, snap := s.snapshot (s.proposedSums t.change) none }
            vol.lru := before ++ after ++ [p] }) ∧
      (s.vol.livePending = false → (∀ p, s.trial p = none) → s.vol.planPending = true →
        s.grant =
          { s with
            vol.running := some { kind := .plan, snap := s.snapshot s.vol.plan none }
            vol.planPending := false }) ∧
      (s.vol.livePending = false → (∀ p, s.trial p = none) → s.vol.planPending = false → s.grant = s))

/-- CAPTURE-CLEAR and CAPTURE-MODE empty the capture and answer what it held; FAULT-CLEAR empties the Access Fault Record and
answers it; SUBSCRIBE sets the mask without bit 15; TALLY-CONTROL replaces a tally's control, bits that name nothing clear;
TALLY-SET replaces a tally's value, clears its flag and answers the old ones; CONDITION-MODE and CONDITION-CONFIRM change the
condition, and pend both jobs, only where mode or flag differ. Fields out of range are MALFORMED (R20, R101, R123, R169, R174,
R181, R182; a flag byte above 1 by log entry 12). -/
def Obligations.RegisterRequestsSetAndShow : Prop :=
  ∀ (s : State) (p : Port),
    (s.asks p (.captureClear p) [.officer] →
      exec (.captureClear p) s =
        .next (State.answer { s with vol.capture := { mode := s.vol.capture.mode, held := none } } p .done
          (captureVals s.vol.capture.held))) ∧
    (∀ m : CaptureMode, s.asks p (.captureMode p (captureModeCode m)) [.officer] →
      exec (.captureMode p (captureModeCode m)) s =
        .next (State.answer { s with vol.capture := { mode := m, held := none } } p .done
          (.u8 (captureModeCode m) :: captureVals s.vol.capture.held))) ∧
    (∀ n, s.asks p (.captureMode p n) [.officer] → 2 ≤ n →
      exec (.captureMode p n) s = .next (s.answer p .malformed [])) ∧
    (s.asks p (.faultClear p) [.officer] →
      exec (.faultClear p) s =
        .next (State.answer { s with vol.accessFault := none } p .done (accessFaultVals s.vol.accessFault))) ∧
    (∀ mask, s.asks p (.subscribe p mask) usedRoles →
      exec (.subscribe p mask) s =
        .next ((s.onPort p fun q => { q with subscription := BitVec.ofNat 16 (mask % 32768) }).answer p .done
          [.u16 (mask % 32768)])) ∧
    (∀ (i : Fin 8) (c : ControlFields), s.asks p (.tallyControl p i.val c) [.officer] → c.cls ≤ 7 → c.inhibit ≤ 1 →
      c.notice ≤ 1 →
      let k : TallyControl :=
        { cls := c.cls
          subevents := BitVec.ofNat 8 c.subevents &&& subeventBits c.cls
          roles := BitVec.ofNat 8 (c.roles % 64)
          groups := BitVec.ofNat 8 (c.groups % 64)
          inhibit := decide (c.inhibit = 1)
          notice := decide (c.notice = 1)
          readable := BitVec.ofNat 8 (c.readable % 64) }
      exec (.tallyControl p i.val c) s =
        .next (State.answer
          { s with vol.tallies := s.vol.tallies.set i.val { s.vol.tallies[i.val] with control := k } i.isLt } p .done
          [.u8 k.cls, .u8 k.subevents.toNat, .u8 k.roles.toNat, .u8 k.groups.toNat, .u8 k.inhibit.toNat,
           .u8 k.notice.toNat, .u8 k.readable.toNat])) ∧
    (∀ n c, s.asks p (.tallyControl p n c) [.officer] → 8 ≤ n ∨ 8 ≤ c.cls ∨ 2 ≤ c.inhibit ∨ 2 ≤ c.notice →
      exec (.tallyControl p n c) s = .next (s.answer p .malformed [])) ∧
    (∀ (i : Fin 8) (v : Nat), s.asks p (.tallySet p i.val v) [.officer] →
      exec (.tallySet p i.val v) s =
        .next (State.answer
          { s with
            vol.tallies := s.vol.tallies.set i.val { s.vol.tallies[i.val] with value := v, overflow := false } i.isLt }
          p .done [.u32 s.vol.tallies[i.val].value, .u8 s.vol.tallies[i.val].overflow.toNat])) ∧
    (∀ n v, s.asks p (.tallySet p n v) [.officer] → 8 ≤ n →
      exec (.tallySet p n v) s = .next (s.answer p .malformed [])) ∧
    (∀ m : ConditionMode, s.asks p (.conditionMode p (conditionModeCode m)) [.officer] →
      (s.kept.mode = m →
        exec (.conditionMode p (conditionModeCode m)) s =
          .next (State.settle (s.answer p .done [.u8 (conditionModeCode m)]))) ∧
      (s.kept.mode ≠ m →
        let k : Kept := { s.kept with mode := m }
        exec (.conditionMode p (conditionModeCode m)) s =
          .next (State.settle (State.answer
            { s with kept := k, keptCheck := some k.word, vol.livePending := true, vol.planPending := true }
            p .done [.u8 (conditionModeCode m)])))) ∧
    (∀ n, s.asks p (.conditionMode p n) [.officer] → 2 ≤ n →
      exec (.conditionMode p n) s = .next (s.answer p .malformed [])) ∧
    (s.asks p (.conditionConfirm p) [.officer] →
      (s.kept.notEstablished = false →
        exec (.conditionConfirm p) s = .next (State.settle (s.answer p .done []))) ∧
      (s.kept.notEstablished = true →
        let k : Kept := { s.kept with notEstablished := false }
        exec (.conditionConfirm p) s =
          .next (State.settle (State.answer
            { s with kept := k, keptCheck := some k.word, vol.livePending := true, vol.planPending := true }
            p .done []))))

/-! ### Links (07) -/

/-- CLAIM of a space that exists answers its contents summary, tells an old owner that is another port by LINK-TAKEN, which
comes to no other port, and sets the link of the space's hold group with the space as target and nothing staged; of another
space it is OUT-OF-SPACE. RELEASE-LINK invalidates the requesting port's own link; any other is LINK-ABSENT and stands; a hold
group outside 1 to 6 is MALFORMED (R126, R128, R135). -/
def Obligations.ClaimTakesAndReleaseFreesTheLink : Prop :=
  ∀ (s : State) (p : Port),
    (∀ (space : Nat) (b : Space) (g : Group), s.asks p (.claim p space) [.officer, .planner, .shore] →
      space < s.book.spaceCount → s.book.spaces[space]? = some b → b.group = g.val + 1 →
      let summary : List Val :=
        [.u8 space, .u8 b.group, .i32 (s.liveWeight space), .i32 (s.planWeight space), .u16 (s.lotCount space),
         .u64 s.kept.generation]
      let link : Link := { owner := p, target := space, staged := none, committing := false, override := false }
      (∀ l, s.link g = some l → l.owner ≠ p →
        exec (.claim p space) s =
          .next (State.settle
            (((s.issueTo l.owner .linkTaken 0 [.u8 (g.val + 1), .u8 l.target, .u8 p.val]).setLink g (some link)).answer p
              .done summary))) ∧
      (s.link g = none ∨ (∃ l, s.link g = some l ∧ l.owner = p) →
        exec (.claim p space) s = .next (State.settle ((s.setLink g (some link)).answer p .done summary)))) ∧
    (∀ space, s.asks p (.claim p space) [.officer, .planner, .shore] → s.book.spaceCount ≤ space →
      exec (.claim p space) s = .next (s.answer p .outOfSpace [.u8 2, .u16 space, .u64 s.kept.generation])) ∧
    (∀ g : Group, s.asks p (.releaseLink p (g.val + 1)) [.officer, .planner, .shore] →
      (∀ l, s.link g = some l → l.owner = p →
        exec (.releaseLink p (g.val + 1)) s = .next ((s.setLink g none).answer p .done [])) ∧
      (s.link g = none ∨ (∃ l, s.link g = some l ∧ l.owner ≠ p) →
        exec (.releaseLink p (g.val + 1)) s = .next (s.answer p .linkAbsent []))) ∧
    (∀ n, s.asks p (.releaseLink p n) [.officer, .planner, .shore] → n = 0 ∨ 7 ≤ n →
      exec (.releaseLink p n) s = .next (s.answer p .malformed []))

/-- STAGE by the table of R129: on an invalid link or another port's it is STAGE-IGNORED and the link stands; where the
amendment's space is not the target, or something is staged already, the link is invalidated, the answer is LINK-LOST and one
link-lost event with the port's role and the hold group is counted; otherwise the amendment is stored as given and the answer is
DONE. A hold group outside 1 to 6 is MALFORMED, and so is a field outside its range (R127, R129). -/
def Obligations.StageFollowsItsTable : Prop :=
  ∀ (s : State) (p : Port) (n : Nat) (am : Amendment),
    s.asks p (.stage p n am) [.officer, .planner] ∨ (s.asks p (.stage p n am) [.shore] ∧ am.isLive = false) →
    (n = 0 ∨ 7 ≤ n ∨ amendmentOk s.book am = false →
      exec (.stage p n am) s = .next (s.answer p .malformed [])) ∧
    (∀ g : Group, n = g.val + 1 → amendmentOk s.book am = true →
      (s.link g = none ∨ (∃ l, s.link g = some l ∧ l.owner ≠ p) →
        exec (.stage p n am) s = .next (State.settle (s.answer p .stageIgnored []))) ∧
      (∀ l, s.link g = some l → l.owner = p →
        (s.amendSpace am ≠ some l.target ∨ l.staged ≠ none →
          exec (.stage p n am) s =
            .next (State.settle (((s.setLink g none).answer p .linkLost []).count
              { cls := .amendments, sub := 3, role := some (s.role p), group := some n, amount := 1 }))) ∧
        (s.amendSpace am = some l.target → l.staged = none →
          exec (.stage p n am) s =
            .next (State.settle ((s.setLink g (some { l with staged := some am })).answer p .done [])))))

/-- COMMIT: without a valid link of the port's own with an amendment staged it is LINK-ABSENT, and an own empty link is
invalidated; an amendment that the constraint check refuses invalidates the link and is answered the refusal; a plan-only one
that passes is applied at once and ACCEPTED with the new generation and a new lot's handle; a live one makes the link committing
with the override flag and a TRIAL, and stays in service. Each refusal and acceptance counts its event. An override byte above 1
is MALFORMED from every role that may commit (log entry 12). The constraint check answers the first of its steps that fails, by
the row of Table 2-3 of the amendment. An applied plan-only amendment has its effect on its lot, the handle taken or freed among
it, and changes no other lot and no list but the ashore list whose head it frees; the new handle stands in the reply without a
presence byte (log entry 48). That LINK-ABSENT answers a PLAN-CANCEL whose link a HOOK-ON broke is log entry 51 (R24,
R27 to R29, R42 to R46, R131, R132, R134). -/
def Obligations.CommitChecksAppliesOrTries : Prop :=
  (∀ (s : State) (p : Port) (n override : Nat),
    (s.asks p (.commit p n override) [.officer] ∧ override ≤ 1) ∨
      (s.asks p (.commit p n override) [.planner, .shore] ∧ override = 0) →
    let event := fun sub : Nat =>
      ({ cls := .amendments, sub := sub, role := some (s.role p), group := some n, amount := 1 } : TallyEvent)
    let gen : Val := .u64 s.kept.generation
    (n = 0 ∨ 7 ≤ n → exec (.commit p n override) s = .next (s.answer p .malformed [])) ∧
    (∀ g : Group, n = g.val + 1 →
      (s.link g = none ∨ (∃ l, s.link g = some l ∧ l.owner ≠ p) →
        exec (.commit p n override) s = .next (State.settle (s.answer p .linkAbsent [gen]))) ∧
      (∀ l, s.link g = some l → l.owner = p →
        (l.staged = none →
          exec (.commit p n override) s = .next (State.settle ((s.setLink g none).answer p .linkAbsent [gen]))) ∧
        (∀ am, l.staged = some am →
          (∀ st v, s.checkAmendment am = some (st, v) →
            exec (.commit p n override) s =
              .next (State.settle (((s.setLink g none).answer p st (refVals v ++ [gen])).count (event 4)))) ∧
          (s.checkAmendment am = none → am.isLive = false →
            ∃ u : State, s.amends u am p false ∧
              (s.kept.lotsInv → s.amendedTo u.kept (s.amendTarget am) am p (s.role p)) ∧
              exec (.commit p n override) s =
                .next (State.settle
                  ((u.answer p .accepted
                    (.u64 (s.kept.generation + 1) ::
                      (if am.handle = none then [.u16 (s.amendTarget am)] else []))).count (event 0)))) ∧
          (s.checkAmendment am = none → am.isLive = true →
            let u := s.setLink g (some { l with committing := true, override := decide (override = 1) })
            exec (.commit p n override) s =
              .next (State.settle
                { u with
                  vol.trials :=
                    s.vol.trials.set p.val (some { role := s.role p, change := .link g am }) p.isLt })))))) ∧
  (∀ (s : State) (p : Port) (n override : Nat), 2 ≤ override →
    s.asks p (.commit p n override) [.officer, .planner, .shore] →
    exec (.commit p n override) s = .next (s.answer p .malformed [])) ∧
  (∀ (s : State) (am : Amendment), s.kept.lotsInv → s.checksTo (s.amendmentTests am) (s.checkAmendment am))

/-- The completion of a link's TRIAL takes the first case that applies: LINK-LOST when the port's link no longer stands
committing; the refusal when the constraint check, run again, fails; ACCEPTED when the trial is COMPLIANT; ACCEPTED-OVERRIDDEN,
with the Journal entry so marked, when the override flag is set; otherwise REJECTED-LIMITS. Each reply carries the generation
and, but for the first two, the trial summary; each counts its event with the port's role and the hold group, and the TRIAL
event; the link is invalidated in cases 2 and 5 and an applied change breaks it in 3 and 4. The applied amendment has its effect
on its lot and the lists, and one that stows or removes a lot counts its move and its weight (R30 to R33, R37, R120, R133, R134,
R178). That the hold group of the TRIAL event is read before the decision is log entry 33, and that these cases alone decide, whatever
contributions the TRIAL was granted with, is log entry 53. -/
def Obligations.CommitTrialTakesTheFirstCase : Prop :=
  ∀ (s : State) (p : Port) (snap : Snapshot) (role : Role) (g : Group) (am : Amendment),
    s.vol.running = some { kind := .trial p, snap := snap } →
    s.trial p = some { role := role, change := .link g am } →
    let f := evaluate s.book snap
    let u : State := { s with vol.trials := s.vol.trials.set p.val none p.isLt, vol.running := none }
    let event := fun sub : Nat =>
      ({ cls := .amendments, sub := sub, role := some (s.role p), group := some (g.val + 1), amount := 1 } : TallyEvent)
    let trial : TallyEvent :=
      { cls := .evaluations, sub := 2, role := some role,
        group := (am.handle.bind s.kept.lot).map fun l => s.groupOf l.space, amount := 1 }
    let gen : Val := .u64 s.kept.generation
    let moves : List TallyEvent :=
      match am.handle.bind s.kept.lot with
      | none => []
      | some l =>
        let move := fun (cls : EventClass) (sub amount : Nat) =>
          ({ cls := cls, sub := sub, role := some (s.role p), group := some (s.groupOf l.space), amount := amount } :
            TallyEvent)
        match am with
        | .directStow _ => [move .lotMoves 4 1, move .tonnage 0 (l.verified.getD l.declared).toNat]
        | .directRemove _ => [move .lotMoves 5 1, move .tonnage 1 (l.verified.getD l.declared).toNat]
        | _ => []
    let stands := ∃ l, s.link g = some l ∧ l.owner = p ∧ l.committing = true
    (¬ stands →
      exec .commitTrialComplete s =
        .next (State.settle (((u.answer p .linkLost [gen]).count (event 3)).count trial))) ∧
    (stands → ∀ st v, s.checkAmendment am = some (st, v) →
      exec .commitTrialComplete s =
        .next (State.settle ((((u.setLink g none).answer p st (refVals v ++ [gen])).count (event 4)).count trial))) ∧
    (stands → s.checkAmendment am = none → f.failing = false →
      ∃ w : State, u.amends w am p false ∧
        (s.kept.lotsInv → s.amendedTo w.kept (s.amendTarget am) am p (s.role p)) ∧
        exec .commitTrialComplete s =
          .next (State.settle
            (((w.answer p .accepted (.u64 (s.kept.generation + 1) :: trialSummary f)).countAll
              (moves ++ [event 0])).count trial))) ∧
    (∀ l, s.link g = some l → l.owner = p → l.committing = true → s.checkAmendment am = none → f.failing = true →
      (l.override = true →
        ∃ w : State, u.amends w am p true ∧
          (s.kept.lotsInv → s.amendedTo w.kept (s.amendTarget am) am p (s.role p)) ∧
          exec .commitTrialComplete s =
            .next (State.settle
              (((w.answer p .acceptedOverridden (.u64 (s.kept.generation + 1) :: trialSummary f)).countAll
                (moves ++ [event 1])).count trial))) ∧
      (l.override = false →
        exec .commitTrialComplete s =
          .next (State.settle
            ((((u.setLink g none).answer p .rejectedLimits (gen :: trialSummary f)).count (event 2)).count trial))))

/-! ### Cranes (08) -/

/-- STOP-VOTE of a crane that exists sets or releases the requesting port's own vote and answers the votes then held: in IDLE no
state changes, in CHECKING a vote set marks the check, and in CLEARED, LIFTING and HALTED the reason VOTE stands while any vote
is held, the crane being HALTED exactly while it has a reason; a change of the reasons issues a PERMIT notice, and an entry to
HALTED counts one event. A vote already so changes nothing (R158, R161). STOP_VOTE_SET is the row of the action Set: another
action byte than 0 of such a request is MALFORMED (log entry 29), and so is a crane number outside 1 to 4 (R143). -/
def Obligations.StopVotesHaltAndRelease : Prop :=
  (∀ (s : State) (p : Port) (k : CraneNo) (held : Bool) (c : Instr),
    c = (if held then .stopVoteSet p (k.val + 1) 0 else .stopVoteRelease p (k.val + 1)) →
    s.asks p c [.officer, .planner] ∨ (s.asks p c [.crane] ∧ s.ownsCrane p (k.val + 1) = true) →
    (k.val + 1 ≤ s.book.craneCount →
      ∃ u : State, exec c s =
          .next (State.settle ((u.answer p .done [.u8 (portMask (u.craneLive k).votes)]).countAll (haltEvents s u))) ∧
        ((s.craneLive k).votes[p.val] = held → u = s) ∧
        ((s.craneLive k).votes[p.val] ≠ held →
          let votes := (s.craneLive k).votes.set p.val held p.isLt
          let v := s.onCrane k fun x => { x with votes := votes }
          let r := { (s.craneLive k).reasons with vote := votes.any id }
          (s.craneState k = .idle → u = v) ∧
          (∀ h d, s.craneState k = .checking h d →
            u = v.onCrane k fun x => { x with voteInCheck := held || x.voteInCheck }) ∧
          ((∀ h d, s.craneState k ≠ .checking h d) → s.craneState k ≠ .idle →
            (r = (s.craneLive k).reasons → u = v) ∧
            (r ≠ (s.craneLive k).reasons →
              ∃ w : State, u = w.permitNotice k ∧
                w = ((v.onCrane k fun x => { x with reasons := r }).setCrane k ((s.craneState k).under r)) ∧
                ∀ h d,
                  (s.craneState k = .cleared h d ∨ s.craneState k = .halted .cleared h d →
                    w.craneState k = if r.isEmpty then .cleared h d else .halted .cleared h d) ∧
                  (s.craneState k = .lifting h d ∨ s.craneState k = .halted .lifting h d →
                    w.craneState k = if r.isEmpty then .lifting h d else .halted .lifting h d))))) ∧
    (s.book.craneCount < k.val + 1 → exec c s = .next (s.answer p .malformed []))) ∧
  (∀ (s : State) (p : Port) (crane action : Nat), 2 ≤ action →
    s.asks p (.stopVoteSet p crane action) [.officer, .planner] ∨
      (s.asks p (.stopVoteSet p crane action) [.crane] ∧ s.ownsCrane p crane = true) →
    exec (.stopVoteSet p crane action) s = .next (s.answer p .malformed [])) ∧
  (∀ (s : State) (p : Port) (crane : Nat) (c : Instr), crane = 0 ∨ 5 ≤ crane →
    (∃ action, c = .stopVoteSet p crane action) ∨ c = .stopVoteRelease p crane → s.asks p c [.officer, .planner] →
    exec c s = .next (s.answer p .malformed []))

/-- CLEAR-REQUEST of a port's own crane: BUSY unless the crane is IDLE; then the first test that fails (constraint check, reach,
load, votes) answers and counts one denied event; otherwise the crane is CHECKING with lot, direction and worst boom head, a
PERMIT notice is issued and a TRIAL made. CLEAR-CANCEL returns a CLEARED crane, or one HALTED from CLEARED, to IDLE with a
PERMIT notice, answers DONE in IDLE, and BUSY otherwise. A crane that does not exist or a field out of range, the direction byte
among them, is MALFORMED, before BUSY and without a denied event (log entry 30). The constraint check answers the first of its
steps that fails, by the rows of Table 2-3 for a clearance (R42 to R46, R147, R151). -/
def Obligations.ClearanceRequestsTestAndTry : Prop :=
  (∀ (s : State) (p : Port) (k : CraneNo), s.ownsCrane p (k.val + 1) = true →
    (∀ (h : Nat) (d : Direction) (q : Point),
      let c : Instr := .clearRequest p (k.val + 1) h (directionCode d) q
      s.asks p c [.crane] →
      (s.book.craneCount < k.val + 1 ∨ 1024 ≤ h ∨ headOk s.book q = false →
        exec c s = .next (s.answer p .malformed [])) ∧
      (k.val + 1 ≤ s.book.craneCount → h < 1024 → headOk s.book q = true →
        (s.craneState k ≠ .idle → exec c s = .next (s.answer p .busy [])) ∧
        (∀ st v, s.craneState k = .idle → s.clearanceRefusal k h d = some (st, v) →
          exec c s =
            .next (State.settle ((s.answer p st (refVals v ++ [.u64 s.kept.generation])).count
              { cls := .clearances, sub := 1, role := some (s.role p), group := s.lotGroup h, amount := 1 }))) ∧
        (s.craneState k = .idle → s.clearanceRefusal k h d = none →
          let u := ((s.setCrane k (.checking h d)).onCrane k fun x =>
            { x with worst := some q, voteInCheck := false }).permitNotice k
          exec c s =
            .next (State.settle
              { u with
                vol.trials :=
                  s.vol.trials.set p.val (some { role := .crane, change := .crane k h d q }) p.isLt }))) ∧
      (∀ r, s.checkClearance k h d = some r → s.clearanceRefusal k h d = some r) ∧
      (∀ l, s.checkClearance k h d = none → s.kept.lot h = some l →
        s.clearanceRefusal k h d =
          if s.reaches k l = false then some (.outOfReach, .space l.space)
          else if s.book.cranes[k.val].swl < l.weight then some (.overSwl, .handle h)
          else if (s.craneLive k).votes.any id = true then some (.stopped, .ports (portMask (s.craneLive k).votes))
          else none)) ∧
    (s.asks p (.clearCancel p (k.val + 1)) [.crane] →
      let c : Instr := .clearCancel p (k.val + 1)
      (s.book.craneCount < k.val + 1 → exec c s = .next (s.answer p .malformed [])) ∧
      (k.val + 1 ≤ s.book.craneCount →
        (s.craneState k = .idle → exec c s = .next (s.answer p .done [])) ∧
        (∀ h d, s.craneState k = .cleared h d ∨ s.craneState k = .halted .cleared h d →
          ∃ u : State, exec c s = .next (State.settle ((u.permitNotice k).answer p .done [])) ∧
            u = (s.setCrane k .idle).onCrane k fun x =>
              { x with
                worst := none
                reasons := { vote := false, limit := false, stale := false }
                limitGen := none
                voteInCheck := false
                boom := none }) ∧
        (∀ h d, s.craneState k = .checking h d ∨ s.craneState k = .lifting h d ∨ s.craneState k = .halted .lifting h d →
          exec c s = .next (s.answer p .busy []))))) ∧
  (∀ (s : State) (p : Port) (crane lot direction : Nat) (q : Point), 2 ≤ direction → s.ownsCrane p crane = true →
    s.asks p (.clearRequest p crane lot direction q) [.crane] →
    exec (.clearRequest p crane lot direction q) s = .next (s.answer p .malformed [])) ∧
  (∀ (s : State) (k : CraneNo) (h : Nat) (d : Direction),
    s.kept.lotsInv → s.checksTo (s.clearanceTests k h d) (s.checkClearance k h d))

/-- A HOOK-ON from a port's own crane is discarded with UNKNOWN-LOT for a free handle or a lot HOOKED or ASHORE, and with
OUT-OF-ORDER while a lot hangs on the crane; otherwise it is accounted: the lot is HOOKED with its direction, the crane LIFTING
when CLEARED for that lot in its state and else HALTED from LIFTING with LIMIT and, while votes are held, VOTE; other cranes
that reserved the lot go IDLE; the generation advances with a HOOK-ON entry, the links on its space break, the sums follow, a
sum set that changes becomes pending, and one hooked event, and one halted event for an entry to HALTED, are counted. The
notices are, in this order, UNPERMITTED-LIFT at an unpermitted hook-on, OVERSTOW at one for discharging of an overstowed lot,
the PERMIT of each crane sent IDLE and the PERMIT of this crane (log entry 49), and no other. A crane HALTED from CLEARED that
becomes HALTED from LIFTING counts no halted event (log entry 32). In START the report is discarded, in COMMISSION it has no
effect but that its port is heard, a crane outside 1 to 4 is counted as a discard, and a breach of the access table is recorded
(R13, R16, R34, R37, R145, R152, R154, R160, R168, R170). -/
def Obligations.HookOnIsAccountedOrDiscarded : Prop :=
  (∀ (s : State) (p : Port) (k : CraneNo) (h : Nat),
    let u : State := s.onPort p fun q => { q with silent := false, lastHeard := s.clock }
    let c : Instr := .hookOn p (k.val + 1) h
    s.part = .service → s.role p = .crane → s.ownsCrane p (k.val + 1) = true →
    (s.kept.lot h = none ∨ (∃ l, s.kept.lot h = some l ∧ l.hooked k = none) →
      exec c s = .next (State.settle (u.issue .unknownLot 0 [.u8 (k.val + 1), .u16 h]))) ∧
    (∀ l, s.kept.lot h = some l → l.hooked k ≠ none → (s.craneState k).hanging ≠ none →
      exec c s = .next (State.settle (u.issue .outOfOrder 0 [.u8 (k.val + 1), .u8 0x61, .u16 h]))) ∧
    (∀ l l' d, s.kept.lot h = some l → l.hooked k = some (l', d) → (s.craneState k).hanging = none →
      let permitted := (s.craneState k).permitsHookOn h l
      let es : List TallyEvent :=
        { cls := .lotMoves, sub := (match d with | .loading => 0 | .discharging => 2), role := some .crane,
          group := some (s.groupOf l.space), amount := 1 } ::
          (if permitted = false ∧ (s.craneState k).isHalted = false then
            [{ cls := .clearances, sub := 2, role := none, group := some (s.groupOf l.space), amount := 1 }]
           else [])
      ∃ t : State, exec c s = .next t ∧
        (∀ j, t.kept.lot j = if j = h then some { l' with originPort := p, originRole := .crane } else s.kept.lot j) ∧
        t.kept =
          { s.kept with
            lots := t.kept.lots, cranes := t.kept.cranes, generation := s.kept.generation + 1, journal := t.kept.journal } ∧
        t.kept.journal.getLast? =
          some { generation := s.kept.generation + 1, kind := .hookOn, handle := some h, space := some l.space, item := none,
                 port := p, role := .crane, overridden := false } ∧
        t.keptCheck = some t.kept.word ∧
        (∀ g : Group, t.link g = (s.link g).filter fun x => x.target ≠ l.space) ∧
        t.craneState k = (if permitted then .lifting h d else .halted .lifting h d) ∧
        t.craneLive k =
          { s.craneLive k with
            worst := none
            voteInCheck := false
            freeReading := false
            sinceHookOn := false
            staleFrom := s.clock
            boom :=
              if permitted = true ∧ (s.craneLive k).sinceClearance = false then (s.craneLive k).worst
              else (s.craneLive k).hook.map HookReading.head
            reasons :=
              if permitted then (s.craneLive k).reasons
              else { vote := (s.craneLive k).votes.any id, limit := true, stale := false }
            limitGen := if permitted then (s.craneLive k).limitGen else some (s.kept.generation + 1) } ∧
        (∀ j : CraneNo, j ≠ k →
          t.craneState j = if (s.craneState j).reserves = some h then .idle else s.craneState j) ∧
        (∀ j : CraneNo, j ≠ k →
          t.craneLive j =
            if (s.craneState j).reserves = some h then
              { s.craneLive j with
                worst := none
                reasons := { vote := false, limit := false, stale := false }
                limitGen := none
                voteInCheck := false
                boom := none }
            else s.craneLive j) ∧
        t.vol.live =
          shiftSums s.vol.live [s.itemLive (.lot h), s.itemLive (.hook k)] [t.itemLive (.lot h), t.itemLive (.hook k)] ∧
        t.vol.plan = shiftSums s.vol.plan [s.itemPlan (.lot h)] [t.itemPlan (.lot h)] ∧
        (∀ i : Fin 8, t.vol.tallies[i.val] = es.foldl Tally.offered s.vol.tallies[i.val]) ∧
        ∃ overstow : List (NoticeKind × Nat × List Val),
          (d = .loading ∨ (∀ v, ¬ s.overstowedBy h v) → overstow = []) ∧
          (∀ v, d = .discharging → s.overstowedBy h v →
            overstow = [(.overstow, 0, [.u8 (k.val + 1), .u16 h] ++ refVals v)]) ∧
          let w : State :=
            { u with
              kept := t.kept
              keptCheck := t.keptCheck
              vol.links := t.vol.links
              vol.cranes := t.vol.cranes
              vol.live := t.vol.live
              vol.plan := t.vol.plan
              vol.livePending := s.vol.livePending || decide (t.vol.live ≠ s.vol.live)
              vol.planPending := s.vol.planPending || decide (t.vol.plan ≠ s.vol.plan) }
          let lift : List (NoticeKind × Nat × List Val) :=
            if permitted then [] else [(.unpermittedLift, 0, [.u8 (k.val + 1), .u16 h, .u8 (directionCode d)])]
          let permits : List (NoticeKind × Nat × List Val) :=
            (((List.finRange 4).filter fun j => decide (j ≠ k ∧ (s.craneState j).reserves = some h)) ++ [k]).map
              fun j => (.permit, j.val + 1, w.permitVals j)
          t = State.settle ((w.issues (lift ++ overstow ++ permits)).countAll es))) ∧
  (∀ (s : State) (p : Port) (n h : Nat),
    let u : State := s.onPort p fun q => { q with silent := false, lastHeard := s.clock }
    (s.part = .start → exec (.hookOn p n h) s = .next s) ∧
    (s.part = .commission → exec (.hookOn p n h) s = .next u) ∧
    (s.part = .service → n = 0 ∨ 5 ≤ n →
      exec (.hookOn p n h) s = .next (u.onPort p fun q => { q with discards := min (q.discards + 1) 65535 })) ∧
    (s.part = .service → 1 ≤ n → n ≤ 4 → s.role p ≠ .crane →
      exec (.hookOn p n h) s = .next (State.settle (u.breach p 0x61 .role (.crane n)))) ∧
    (s.part = .service → 1 ≤ n → n ≤ 4 → s.role p = .crane → s.ownsCrane p n = false →
      exec (.hookOn p n h) s = .next (State.settle (u.breach p 0x61 .craneNotOwn (.crane n)))))

/-- A LAND or LAND-BACK from a port's own crane is discarded unless the lot hangs on the crane, with OUT-OF-ORDER, or with
UNKNOWN-LOT where its handle is above 1023 (the model's choice between R170 and R155, log entry 46). LAND puts a lot of
direction LOADING, with the weighed load as verified weight when a reading of 1 or more came since the hook-on, at the tail of
its space's list STOWED with intent KEEP, and one of direction DISCHARGING at the tail of the ashore list ASHORE. LAND-BACK
returns it to PLANNED, or to STOWED with intent DISCHARGE in its place. Either ends the lift in IDLE, advances the generation
with its entry, breaks the links on the space, moves the sums, makes a sum set that changes pending and counts its events. The
notices are the PERMIT of the crane and, at a LAND for loading, WEIGHT-DISAGREE where the weighed load differs from the weight
before by more than the tolerance, then OVERLOAD where the LIVE weight of the space exceeds its maximum, and no other. In START
a report is discarded, in COMMISSION it has no effect but that its port is heard, a crane outside 1 to 4 is counted as a
discard, and a breach of the access table is recorded (R13, R16, R35 to R37, R155 to R157, R168, R170). -/
def Obligations.LandingsEndTheLift : Prop :=
  (∀ (s : State) (p : Port) (k : CraneNo) (h : Nat),
    let u : State := s.onPort p fun q => { q with silent := false, lastHeard := s.clock }
    s.part = .service → s.role p = .crane → s.ownsCrane p (k.val + 1) = true →
    ((∀ d, (s.craneState k).lift ≠ some (h, d)) ∨ s.kept.lot h = none →
      (h < 1024 →
        exec (.land p (k.val + 1) h) s = .next (State.settle (u.issue .outOfOrder 0 [.u8 (k.val + 1), .u8 0x62, .u16 h])) ∧
        exec (.landBack p (k.val + 1) h) s =
          .next (State.settle (u.issue .outOfOrder 0 [.u8 (k.val + 1), .u8 0x63, .u16 h]))) ∧
      (1024 ≤ h →
        exec (.land p (k.val + 1) h) s = .next (State.settle (u.issue .unknownLot 0 [.u8 (k.val + 1), .u16 h])) ∧
        exec (.landBack p (k.val + 1) h) s = .next (State.settle (u.issue .unknownLot 0 [.u8 (k.val + 1), .u16 h])))) ∧
    (∀ l d, (s.craneState k).lift = some (h, d) → s.kept.lot h = some l →
      let weighed : Option Int :=
        match (s.craneLive k).sinceHookOn, (s.craneLive k).hook with
        | true, some r => if 1 ≤ r.load then some (min r.load 60000 : Nat) else none
        | _, _ => none
      let landed : Lot :=
        match d with
        | .loading => { l with state := .stowed .keep s.clock, verified := weighed.or l.verified }
        | .discharging => { l with state := .ashore s.clock }
      let returned : Lot :=
        match d with
        | .loading => { l with state := .planned }
        | .discharging => { l with state := .stowed .discharge l.state.stowTime }
      let es : Bool → List TallyEvent := fun back =>
        if back then []
        else match d with
          | .loading =>
            [{ cls := .lotMoves, sub := 1, role := some .crane, group := some (s.groupOf l.space), amount := 1 },
             { cls := .tonnage, sub := 0, role := some .crane, group := some (s.groupOf l.space),
               amount := landed.weight.toNat }]
          | .discharging =>
            [{ cls := .lotMoves, sub := 3, role := some .crane, group := some (s.groupOf l.space), amount := 1 },
             { cls := .tonnage, sub := 1, role := some .crane, group := some (s.groupOf l.space),
               amount := l.weight.toNat }]
      ∀ (back : Bool), ∃ t : State,
        exec (if back then .landBack p (k.val + 1) h else .land p (k.val + 1) h) s = .next t ∧
        (∀ j, t.kept.lot j =
          if j = h then some { (if back then returned else landed) with originPort := p, originRole := .crane }
          else s.kept.lot j) ∧
        t.kept =
          { s.kept with
            lots := t.kept.lots
            stow := t.kept.stow
            ashore := if back = false ∧ d = .discharging then s.kept.ashore ++ [h] else s.kept.ashore
            cranes := s.kept.cranes.set k.val .idle k.isLt
            generation := s.kept.generation + 1
            journal := t.kept.journal } ∧
        (∀ n, n < 48 → t.kept.stowList n =
          if back = true ∨ n ≠ l.space then s.kept.stowList n
          else match d with
            | .loading => s.kept.stowList n ++ [h]
            | .discharging => (s.kept.stowList n).filter fun j => j ≠ h) ∧
        t.kept.journal.getLast? =
          some { generation := s.kept.generation + 1, kind := if back then .landBack else .land, handle := some h,
                 space := some l.space, item := none, port := p, role := .crane, overridden := false } ∧
        t.keptCheck = some t.kept.word ∧
        (∀ g : Group, t.link g = (s.link g).filter fun x => x.target ≠ l.space) ∧
        t.craneLive k =
          { s.craneLive k with
            worst := none
            reasons := { vote := false, limit := false, stale := false }
            limitGen := none
            voteInCheck := false
            boom := none
            freeReading := false } ∧
        (∀ j : CraneNo, j ≠ k → t.craneLive j = s.craneLive j) ∧
        t.vol.live =
          shiftSums s.vol.live [s.itemLive (.lot h), s.itemLive (.hook k)] [t.itemLive (.lot h), t.itemLive (.hook k)] ∧
        t.vol.plan = shiftSums s.vol.plan [s.itemPlan (.lot h)] [t.itemPlan (.lot h)] ∧
        (∀ i : Fin 8, t.vol.tallies[i.val] = (es back).foldl Tally.offered s.vol.tallies[i.val]) ∧
        let w : State :=
          { u with
            kept := t.kept
            keptCheck := t.keptCheck
            vol.links := t.vol.links
            vol.cranes := t.vol.cranes
            vol.live := t.vol.live
            vol.plan := t.vol.plan
            vol.livePending := s.vol.livePending || decide (t.vol.live ≠ s.vol.live)
            vol.planPending := s.vol.planPending || decide (t.vol.plan ≠ s.vol.plan) }
        let disagree : List (NoticeKind × Nat × List Val) :=
          match weighed with
          | some x =>
            if s.book.cranes[k.val].tolerance * l.weight < ((x - l.weight).natAbs : Int) * 1000 then
              [(.weightDisagree, 0, [.u8 (k.val + 1), .u16 h, .i32 l.weight, .i32 x])]
            else []
          | none => []
        let overload : List (NoticeKind × Nat × List Val) :=
          match s.spaceBook l.space with
          | some b =>
            if b.maxWeight < t.liveWeight l.space then
              [(.overload, 0, [.u8 (k.val + 1), .u16 h, .u8 l.space, .i32 (t.liveWeight l.space), .i32 b.maxWeight])]
            else []
          | none => []
        t = State.settle
          ((w.issues
              ((.permit, k.val + 1, w.permitVals k) ::
                (if back = false ∧ d = .loading then disagree ++ overload else []))).countAll (es back)))) ∧
  (∀ (s : State) (p : Port) (n h : Nat) (back : Bool),
    let u : State := s.onPort p fun q => { q with silent := false, lastHeard := s.clock }
    let c : Instr := if back then .landBack p n h else .land p n h
    let kind : Byte := if back then 0x63 else 0x62
    (s.part = .start → exec c s = .next s) ∧
    (s.part = .commission → exec c s = .next u) ∧
    (s.part = .service → n = 0 ∨ 5 ≤ n →
      exec c s = .next (u.onPort p fun q => { q with discards := min (q.discards + 1) 65535 })) ∧
    (s.part = .service → 1 ≤ n → n ≤ 4 → s.role p ≠ .crane →
      exec c s = .next (State.settle (u.breach p kind .role (.crane n)))) ∧
    (s.part = .service → 1 ≤ n → n ≤ 4 → s.role p = .crane → s.ownsCrane p n = false →
      exec c s = .next (State.settle (u.breach p kind .craneNotOwn (.crane n)))))

/-- The completion of a crane's TRIAL takes the first case that applies: CLEARANCE-LOST when the crane is not CHECKING that lot;
DENIED-STOPPED when a vote came during the check or is held; the refusal when the constraint check, run again, fails; CLEARED
when the trial's GM exceeds the crane's minimum, its list is within the heel limit and GM-NONPOS is clear; otherwise
DENIED-LIMITS. The crane becomes CLEARED in case 4 and IDLE in cases 2, 3 and 5, each with a PERMIT notice; one granted or
denied event and the TRIAL event are counted (R120, R150). That these cases alone decide, whatever contributions the TRIAL was
granted with, is log entry 53. -/
def Obligations.ClearanceTrialTakesTheFirstCase : Prop :=
  ∀ (s : State) (p : Port) (snap : Snapshot) (role : Role) (k : CraneNo) (h : Nat) (d : Direction) (q : Point),
    s.vol.running = some { kind := .trial p, snap := snap } →
    s.trial p = some { role := role, change := .crane k h d q } →
    let f := evaluate s.book snap
    let b := s.book.cranes[k.val]
    let u : State := { s with vol.trials := s.vol.trials.set p.val none p.isLt, vol.running := none }
    let event := fun sub : Nat =>
      ({ cls := .clearances, sub := sub, role := some role, group := (s.kept.lot h).map fun l => s.groupOf l.space,
         amount := 1 } : TallyEvent)
    let trial : TallyEvent :=
      { cls := .evaluations, sub := 2, role := some role, group := (s.kept.lot h).map fun l => s.groupOf l.space,
        amount := 1 }
    let idle := fun w : State =>
      ((w.setCrane k .idle).onCrane k fun x =>
        { x with
          worst := none
          reasons := { vote := false, limit := false, stale := false }
          limitGen := none
          voteInCheck := false
          boom := none }).permitNotice k
    let gen : Val := .u64 s.kept.generation
    let figures : List Val := [.i32 f.gm, .i32 f.list, .u8 (flagsByte f.flags), .i32 f.upright]
    let checking := ∃ d', s.craneState k = .checking h d'
    let voted := (s.craneLive k).voteInCheck = true ∨ ∃ i : Port, (s.craneLive k).votes[i.val] = true
    let allowed := b.gmMin < f.gm ∧ (f.list.natAbs : Int) ≤ b.heelLimit ∧ f.flags.gmNonpos = false
    (¬ checking →
      exec .clearanceTrialComplete s =
        .next (State.settle (((u.answer p .clearanceLost []).count (event 1)).count trial))) ∧
    (checking → voted →
      exec .clearanceTrialComplete s =
        .next (State.settle
          (((idle (u.answer p .deniedStopped [.u8 6, .u16 (portMask (s.craneLive k).votes), gen])).count (event 1)).count
            trial))) ∧
    (checking → ¬ voted → ∀ st v, s.checkClearance k h d = some (st, v) →
      exec .clearanceTrialComplete s =
        .next (State.settle (((idle (u.answer p st (refVals v ++ [gen]))).count (event 1)).count trial))) ∧
    (checking → ¬ voted → s.checkClearance k h d = none → allowed →
      exec .clearanceTrialComplete s =
        .next (State.settle
          ((((((u.answer p .cleared figures).setCrane k (.cleared h d)).onCrane k fun x =>
              { x with sinceClearance := false, voteInCheck := false }).permitNotice k).count (event 0)).count trial))) ∧
    (checking → ¬ voted → s.checkClearance k h d = none → ¬ allowed →
      exec .clearanceTrialComplete s =
        .next (State.settle (((idle (u.answer p .deniedLimits figures)).count (event 1)).count trial)))

/-- The Supervisor takes its pending verdict in SERVICE and tests each crane in CLEARED, LIFTING or HALTED: LIMIT is added when
the list exceeds the heel limit, GM lies below the minimum or GM-NONPOS is set, and a CLEARED or LIFTING crane is then HALTED;
it is removed, with the limit generation, when the list lies within the limit less the hysteresis, GM is at the minimum or
above, GM-NONPOS is clear and the verdict's generation is not below the limit generation, and a crane without reason then
returns. Cranes IDLE and CHECKING are not tested. Each change of a crane's reasons issues a PERMIT notice, in ascending order of
crane, and each entry to HALTED counts one halted event. A PERMIT notice shows the state, the halted-from state, the halt
reasons as the bits of log entry 9, lot and direction or their absence, and the level of the permit line, asserted in CLEARED
and LIFTING alone; the crane stands in its subject (log entry 20). Without a pending verdict, and outside SERVICE, nothing
happens (log entry 2) (R144, R159, R161, R173). -/
def Obligations.LimitEventTestsEveryCrane : Prop :=
  (∀ s : State, s.vol.supervisor = none ∨ s.part ≠ .service → exec .limitEvent s = .next s) ∧
  (∀ (s : State) (v : Verdict), s.part = .service → s.vol.supervisor = some v →
    ∃ u : State,
      exec .limitEvent s =
        .next (State.settle (u.countAll
          (((List.finRange 4).filter fun k => (u.craneState k).isHalted && !(s.craneState k).isHalted).map fun k =>
            { cls := .clearances, sub := 2, role := none
              group := (u.craneState k).named.bind fun n => (s.kept.lot n.1).map fun l => s.groupOf l.space
              amount := 1 }))) ∧
      u = { s with
        kept.cranes := u.kept.cranes
        keptCheck := u.keptCheck
        vol.supervisor := none
        vol.cranes := u.vol.cranes
        vol.ports := u.vol.ports } ∧
      (∀ p : Port, u.port p =
        ((List.finRange 4).filter fun k => decide ((u.craneLive k).reasons ≠ (s.craneLive k).reasons)).foldl
          (fun q k => q.pushNotice { kind := .permit, clock := s.clock, subject := k.val + 1, body := u.permitVals k })
          (s.port p)) ∧
      ∀ k : CraneNo,
        let b := s.book.cranes[k.val]
        let x := s.craneLive k
        let beyond :=
          b.heelLimit < (v.fig.list.natAbs : Int) ∨ v.fig.gm < b.gmMin ∨ v.fig.flags.gmNonpos = true
        let well :=
          (v.fig.list.natAbs : Int) ≤ b.heelLimit - b.hysteresis ∧ b.gmMin ≤ v.fig.gm ∧ v.fig.flags.gmNonpos = false ∧
            ∀ g, x.limitGen = some g → g ≤ v.generation
        let tested := s.craneState k ≠ .idle ∧ ∀ h d, s.craneState k ≠ .checking h d
        (tested → x.reasons.limit = false → beyond →
          u.craneLive k = { x with reasons := { x.reasons with limit := true } } ∧
          u.craneState k = (s.craneState k).under { x.reasons with limit := true }) ∧
        (tested → x.reasons.limit = true → well →
          u.craneLive k = { x with reasons := { x.reasons with limit := false }, limitGen := none } ∧
          u.craneState k = (s.craneState k).under { x.reasons with limit := false }) ∧
        (¬ tested ∨ (x.reasons.limit = false ∧ ¬ beyond) ∨ (x.reasons.limit = true ∧ ¬ well) →
          u.craneLive k = x ∧ u.craneState k = s.craneState k)) ∧
  (∀ (s : State) (k : CraneNo),
    let r := (s.craneLive k).reasons
    let reasons : Val := .u8 (r.vote.toNat + 2 * r.limit.toNat + 4 * r.stale.toNat)
    let level : Val :=
      .u8 (if s.supply = true ∧ s.part = .service ∧ k.val + 1 ≤ s.book.craneCount then 1 else 0)
    let named := fun (h : Nat) (d : Direction) => [Val.u8 1, .u16 h, .u8 1, .u8 (directionCode d)]
    s.permitVals k =
      match s.craneState k with
      | .idle => [.u8 0, .u8 0, reasons, .u8 0, .u8 0, .u8 0]
      | .checking h d => [.u8 1, .u8 0, reasons] ++ named h d ++ [.u8 0]
      | .cleared h d => [.u8 2, .u8 0, reasons] ++ named h d ++ [level]
      | .lifting h d => [.u8 3, .u8 0, reasons] ++ named h d ++ [level]
      | .halted .cleared h d => [.u8 4, .u8 1, .u8 0, reasons] ++ named h d ++ [.u8 0]
      | .halted .lifting h d => [.u8 4, .u8 1, .u8 1, reasons] ++ named h d ++ [.u8 0])

/-- A hook reading handed to a crane, as an applied reading of its hook channel is (`ApplierAppliesTheHeadReading`), becomes its
last hook reading and sets both reading marks. Where a lot hangs, the lot moves to the reading's boom head, the STALE interval
restarts and STALE is removed, with a PERMIT notice, the crane LIFTING when no reason is left; otherwise the free-reading mark is
set. The LIVE sums move, and LIVE becomes pending where they change; nothing else changes. In SERVICE the STALE interval of a
crane on which a lot hangs expires past its hook freshness limit: STALE is added, a LIFTING crane is HALTED, a PERMIT notice is
issued and an entry to HALTED counted; an expiry that is not due does nothing (R16, R66, R78, R153, R160, R161). That the
interval restarts at the hand-over and not at the reading's arrival is log entry 34. -/
def Obligations.HookReadingsAndStaleness : Prop :=
  (∀ (s : State) (k : CraneNo) (r : HookReading),
    let moves := fun (v : State) (item : Item) =>
      let live := shiftSums s.vol.live [s.itemLive item] [v.itemLive item]
      ({ v with vol.live := live, vol.livePending := s.vol.livePending || decide (live ≠ s.vol.live) } : State)
    (∀ h d, s.craneState k = .lifting h d ∨ s.craneState k = .halted .lifting h d →
      let reasons : Reasons := { (s.craneLive k).reasons with stale := false }
      let u : State :=
        moves
          (s.onCrane k fun x =>
            { x with
              hook := some r
              sinceClearance := true
              sinceHookOn := true
              boom := some r.head
              staleFrom := s.clock
              reasons := reasons })
          (.lot h)
      ((s.craneLive k).reasons.stale = false → s.hookReading k r = u) ∧
      ((s.craneLive k).reasons.stale = true →
        s.hookReading k r =
          (u.setCrane k (if reasons.vote = false ∧ reasons.limit = false then .lifting h d else .halted .lifting h d)).permitNotice
            k)) ∧
    ((∀ h d, s.craneState k ≠ .lifting h d ∧ s.craneState k ≠ .halted .lifting h d) →
      s.hookReading k r =
        moves
          (s.onCrane k fun x => { x with hook := some r, sinceClearance := true, sinceHookOn := true, freeReading := true })
          (.hook k))) ∧
  (∀ (s : State) (k : CraneNo),
    let due :=
      s.part = .service ∧ (s.craneState k).hanging ≠ none ∧ (s.craneLive k).reasons.stale = false ∧
        s.book.cranes[k.val].freshness < (elapsed (s.craneLive k).staleFrom s.clock : Int)
    let r := { (s.craneLive k).reasons with stale := true }
    (¬ due → exec (.hookStaleExpiry k) s = .next s) ∧
    (due →
      let u := ((s.onCrane k fun x => { x with reasons := r }).setCrane k ((s.craneState k).under r)).permitNotice k
      exec (.hookStaleExpiry k) s = .next (State.settle (u.countAll (haltEvents s u)))))

/-- No crane becomes CLEARED but by the completion of a TRIAL while it is CHECKING that lot, or by its return from HALTED from
CLEARED: whatever command is given, a crane that is CLEARED after it was CLEARED, HALTED from CLEARED, or CHECKING at a
CLEARANCE_TRIAL_COMPLETE (R144, R147, R150, R161). -/
def Obligations.CranesAreClearedOnlyByTrial : Prop :=
  ∀ (c : Instr) (s t : State) (k : CraneNo) (h : Nat) (d : Direction), exec c s = .next t →
    t.craneState k = .cleared h d →
    s.craneState k = .cleared h d ∨ s.craneState k = .halted .cleared h d ∨
      (c = .clearanceTrialComplete ∧ ∃ d', s.craneState k = .checking h d')

/-! ### Tallies and arithmetic (04, 10) -/

/-- An event is offered to all eight tallies: one that is not inhibited, of the event's class, with its subevent bit, and with
its role's and hold group's bits where the event carries them, adds the amount; past 2³² - 1 it wraps and sets its overflow
flag, and a wrap with notice-on-overflow set issues TALLY-OVERFLOW in SERVICE, in ascending order of tally (log entry 28).
Nothing else changes (R179, R180). -/
def Obligations.TalliesCountTheirEvents : Prop :=
  (∀ (y : Tally) (e : TallyEvent),
    y.matchesEvent e = true ↔
      y.control.inhibit = false ∧ y.control.cls = classCode e.cls ∧ y.control.subevents.getLsbD e.sub = true ∧
      (∀ r, e.role = some r → ∃ bit, roleBit r = some bit ∧ y.control.roles.getLsbD bit = true) ∧
      (∀ g, e.group = some g → 1 ≤ g ∧ y.control.groups.getLsbD (g - 1) = true)) ∧
  (∀ (y : Tally) (n : Nat),
    (y.value + n ≤ 4294967295 → y.add n = { y with value := y.value + n }) ∧
    (4294967295 < y.value + n → y.add n = { y with value := y.value + n - 4294967296, overflow := true })) ∧
  (∀ (s : State) (es : List TallyEvent),
    s.countAll es = { s with vol.tallies := (s.countAll es).vol.tallies, vol.ports := (s.countAll es).vol.ports } ∧
    ∀ i : Fin 8, (s.countAll es).vol.tallies[i.val] = es.foldl Tally.offered s.vol.tallies[i.val]) ∧
  (∀ (s : State) (e : TallyEvent) (p : Port),
    let wraps := fun i : Fin 8 =>
      s.vol.tallies[i.val].matchesEvent e && decide (4294967295 < s.vol.tallies[i.val].value + e.amount) &&
        s.vol.tallies[i.val].control.notice
    (s.part = .service →
      (s.count e).port p =
        ((List.finRange 8).filter wraps).foldl
          (fun q i => q.pushNotice
            { kind := .tallyOverflow, clock := s.clock, subject := 0,
              body := [.u8 i.val, .u8 s.vol.tallies[i.val].control.cls,
                       .u32 (s.vol.tallies[i.val].value + e.amount - 4294967296)] })
          (s.port p)) ∧
    (s.part ≠ .service → (s.count e).port p = s.port p))

/-- A lot contributes by its state to LIVE and to PLAN, at its stow position or at its crane's boom head; a tank that exists its
current contents to LIVE and its planned contents to PLAN over its bulkheads; a PRESENT fixed item a point to both; an
unidentified hook load a point to LIVE; and every other item nothing. A set built afresh is the lightship with all items, and a
change subtracts the old contributions and adds the new. The weight-aft contribution of an item follows the table of R77, lies
within 0 to its weight, and never decreases from aft to forward (R47, R69, R75 to R79, R146, R154). -/
def Obligations.WeightAftNeverDecreases : Prop :=
  (∀ w a f x x' : Int, 0 ≤ w → a ≤ f → x ≤ x' →
    weightAft w a f x ≤ weightAft w a f x' ∧ 0 ≤ weightAft w a f x ∧ weightAft w a f x ≤ w ∧
    (a = f → weightAft w a f x = if a < x then w else 0) ∧
    (a < f → x ≤ a → weightAft w a f x = 0) ∧ (a < f → f ≤ x → weightAft w a f x = w) ∧
    (a < x → x < f →
      2 * (f - a) * weightAft w a f x ≤ 2 * w * (x - a) + (f - a) ∧
      2 * w * (x - a) + (f - a) < 2 * (f - a) * weightAft w a f x + 2 * (f - a))) ∧
  (∀ (s : State) (h : Nat),
    (s.kept.lot h = none → s.itemLive (.lot h) = SumSet.zero ∧ s.itemPlan (.lot h) = SumSet.zero) ∧
    (∀ l, s.kept.lot h = some l →
      let live := s.itemLive (.lot h)
      let plan := s.itemPlan (.lot h)
      let hangs := fun c : CraneNo =>
        live.contributesPoint s.book (l.verified.getD l.declared)
          (match (s.craneLive c).boom with
           | some q => q
           | none => { x := s.book.cranes[c.val].pedestalX, z := l.pos.vcg, y := s.book.cranes[c.val].pedestalY })
      match l.state with
      | .planned => live = SumSet.zero ∧ plan.contributesStowed s.book l
      | .hookedLoading c => hangs c ∧ plan.contributesStowed s.book l
      | .hookedDischarging c _ => hangs c ∧ plan = SumSet.zero
      | .stowed .keep _ => live.contributesStowed s.book l ∧ plan.contributesStowed s.book l
      | .stowed .discharge _ => live.contributesStowed s.book l ∧ plan = SumSet.zero
      | .ashore _ => live = SumSet.zero ∧ plan = SumSet.zero)) ∧
  (∀ (s : State) (n : TankNo),
    let t := (s.tankBook n).consts
    let spans := fun (c : SumSet) (x : Contents) => c.contributes s.book x.weight x.lcg x.vcg x.tcg t.xAft t.xFore x.fsm
    (n.val < s.book.tankCount →
      spans (s.itemLive (.tank n)) (s.currentContents n) ∧ spans (s.itemPlan (.tank n)) (s.plannedContents n)) ∧
    (s.book.tankCount ≤ n.val → s.itemLive (.tank n) = SumSet.zero ∧ s.itemPlan (.tank n) = SumSet.zero)) ∧
  (∀ (s : State) (i : Fin 16),
    let f := s.kept.fixed[i.val]
    (i.val < s.book.fixedCount → f.presence = .present →
      (s.itemLive (.fixed i)).contributesPoint s.book f.weight { x := f.x, z := f.z, y := f.y } ∧
      (s.itemPlan (.fixed i)).contributesPoint s.book f.weight { x := f.x, z := f.z, y := f.y }) ∧
    (s.book.fixedCount ≤ i.val ∨ f.presence ≠ .present →
      s.itemLive (.fixed i) = SumSet.zero ∧ s.itemPlan (.fixed i) = SumSet.zero)) ∧
  (∀ (s : State) (k : CraneNo),
    let carried := fun r : HookReading =>
      k.val + 1 ≤ s.book.craneCount ∧ (s.craneState k).hanging = none ∧ (s.craneLive k).freeReading = true ∧
        (s.craneLive k).hook = some r ∧ s.book.cranes[k.val].threshold ≤ (r.load : Int)
    (∀ r, carried r → (s.itemLive (.hook k)).contributesPoint s.book r.load r.head) ∧
    ((∀ r, ¬ carried r) → s.itemLive (.hook k) = SumSet.zero) ∧ s.itemPlan (.hook k) = SumSet.zero) ∧
  (∀ s : State,
    let all := fun (part : SumSet → Int) (item : Item → SumSet) =>
      (s.kept.lots.map fun e => part (item (.lot e.1))).sum + ((List.finRange 32).map fun t => part (item (.tank t))).sum +
        ((List.finRange 16).map fun i => part (item (.fixed i))).sum +
        ((List.finRange 4).map fun k => part (item (.hook k))).sum
    let h := s.book.hull
    let builds := fun (sums : SumSet) (item : Item → SumSet) =>
      sums.w = h.weight + all SumSet.w item ∧ sums.ml = h.weight * h.lcg + all SumSet.ml item ∧
        sums.mv = h.weight * h.vcg + all SumSet.mv item ∧ sums.mt = h.weight * h.tcg + all SumSet.mt item ∧
        sums.fsm = all SumSet.fsm item ∧ ∀ k : Fin 21, sums.wa[k.val] = h.wa[k.val] + all (fun c => c.wa[k.val]) item
    builds s.builtLive s.itemLive ∧ builds s.builtPlan s.itemPlan) ∧
  (∀ (sums : SumSet) (olds news : List SumSet),
    let moved := fun part : SumSet → Int =>
      part (shiftSums sums olds news) = part sums - (olds.map part).sum + (news.map part).sum
    moved SumSet.w ∧ moved SumSet.ml ∧ moved SumSet.mv ∧ moved SumSet.mt ∧ moved SumSet.fsm ∧
      ∀ k : Fin 21, moved fun c => c.wa[k.val])
end

