-- ==== Sys2Proof/Laws/Arithmetic.lean ====
section
/-!
SUPPORT. What the arithmetic of the engine computes, in the terms of Safety: rounding, interpolation, table lookup, tank
conversion, and each stage of a pass.
-/
namespace Sys2Proof.Machine

/-- The quotient of a rounded division lies within half a divisor of the exact one (00 "Arithmetic"). -/
theorem roundDiv_bounds (m d : Int) (hm : 0 ≤ m) (hd : 0 < d) :
    -d < 2 * ((2 * m + d) / (2 * d) * d - m) ∧ 2 * ((2 * m + d) / (2 * d) * d - m) ≤ d ∧
      0 ≤ (2 * m + d) / (2 * d) * d := by
  have h1 := Int.mul_ediv_add_emod (2 * m + d) (2 * d)
  have h2 := Int.emod_nonneg (2 * m + d) (show (2 * d) ≠ 0 by omega)
  have h3 := Int.emod_lt_of_pos (2 * m + d) (show 0 < 2 * d by omega)
  generalize hq : (2 * m + d) / (2 * d) = q at *
  have h4 : 0 ≤ q := hq ▸ Int.ediv_nonneg (by omega) (by omega)
  have h5 : 2 * d * q = 2 * (q * d) := by rw [Int.mul_assoc, Int.mul_comm d q]
  have h6 : 0 ≤ q * d := Int.mul_nonneg h4 (by omega)
  omega

/-- A rounded division rounds to the nearest integer, halves away from zero (00 "Arithmetic"). -/
theorem roundDiv_rounds (n d : Int) (hd : 0 < d) : rounds n d (roundDiv n d) := by
  unfold rounds roundDiv
  split
  · have := roundDiv_bounds n d ‹_› hd
    omega
  · have := roundDiv_bounds (-n) d (by omega) hd
    rw [Int.neg_mul]
    omega

/-- An interpolated value is the first plus a rounded part of the difference (R67, R83). -/
theorem interpolate_interpolates (va vb num den : Int) (h : 0 < den) :
    interpolates va vb num den (interpolate va vb num den) := ⟨_, roundDiv_rounds _ _ h, rfl⟩

/-- The lowest two adjacent rows around a displacement are the rows of a lookup (R83). -/
theorem rowPair_lowest {α : Type} (disp : α → Int) (w : Int) (rows : List α) (k : Nat) (a b : α)
    (ha : rows[k]? = some a) (hb : rows[k + 1]? = some b) (h1 : disp a ≤ w) (h2 : w ≤ disp b)
    (h3 : ∀ (j : Nat) (c : α), j < k → rows[j + 1]? = some c → disp c < w) :
    rowPair disp w rows = some (a, b) := by
  induction k generalizing rows with
  | zero =>
    match rows, ha, hb with
    | x :: y :: rest, ha, hb =>
      simp only [List.getElem?_cons_zero, Option.some.injEq, List.getElem?_cons_succ] at ha hb
      subst ha hb
      simp [rowPair, h1, h2]
  | succ k ih =>
    match rows, ha, hb with
    | x :: y :: rest, ha, hb =>
      have hy := h3 0 y (by omega) (by simp)
      rw [rowPair, if_neg (by omega)]
      exact ih (y :: rest) (by simpa using ha) (by simpa using hb) fun j c hj hc =>
        h3 (j + 1) c (by omega) (by simpa using hc)
    | [x], ha, hb => simp at hb

/-- In a table that rises, a later row is not below an earlier one. -/
theorem rising_le {α : Type} (disp : α → Int) (rows : List α) (h : rows.Pairwise fun a b => disp a < disp b)
    (i j : Nat) (a b : α) (hij : i ≤ j) (ha : rows[i]? = some a) (hb : rows[j]? = some b) : disp a ≤ disp b := by
  rcases Nat.lt_or_eq_of_le hij with h' | rfl
  · rw [List.pairwise_iff_getElem] at h
    obtain ⟨hi, rfl⟩ := List.getElem?_eq_some_iff.mp ha
    obtain ⟨hj, rfl⟩ := List.getElem?_eq_some_iff.mp hb
    exact Int.le_of_lt (h i j hi hj h')
  · rw [ha] at hb; cases hb; exact Int.le_refl _

/-- A lookup in a table that rises gives the quantity that R83 gives. -/
theorem lookupRow_lookedUp {α : Type} [Inhabited α] (disp q : α → Int) (rows : List α) (w : Int)
    (h : rows.Pairwise fun a b => disp a < disp b) :
    lookedUp rows disp q w ((lookupRow disp rows w).value disp w q) := by
  match rows, h with
  | [], _ => exact ⟨by simp, by simp, by simp⟩
  | first :: rest, h =>
    have hlast : (first :: rest).getLast? = some ((first :: rest).getLast (by simp)) := List.getLast?_eq_some_getLast _
    generalize hl : (first :: rest).getLast (by simp) = last at hlast
    have hfl : disp first ≤ disp last := by
      rw [List.getLast?_eq_getElem?] at hlast
      exact rising_le disp _ h 0 _ first last (by omega) (by simp) hlast
    have val : ∀ r : α, Lookup.value { lo := r, hi := r, out := true } disp w q = q r := by
      intro r; simp [Lookup.value, interpolate, roundDiv]
    refine ⟨?_, ?_, ?_⟩
    · intro f hf hw
      simp only [List.head?_cons, Option.some.injEq] at hf
      subst hf
      simp only [lookupRow, if_pos hw, val]
    · intro l hl' hw
      rw [hlast] at hl'; cases hl'
      simp only [lookupRow, hl]
      rw [if_neg (by omega), if_pos hw, val]
    · intro k a b ha hb h1 h2 h3
      have hfa : disp first ≤ disp a := rising_le disp _ h 0 k first a (by omega) (by simp) ha
      have hbl : disp b ≤ disp last := by
        rw [List.getLast?_eq_getElem?] at hlast
        refine rising_le disp _ h (k + 1) _ b last ?_ hb hlast
        obtain ⟨hk, _⟩ := List.getElem?_eq_some_iff.mp hb
        omega
      have hab : disp a < disp b := by
        rw [List.pairwise_iff_getElem] at h
        obtain ⟨hi, rfl⟩ := List.getElem?_eq_some_iff.mp ha
        obtain ⟨hj, rfl⟩ := List.getElem?_eq_some_iff.mp hb
        exact h k (k + 1) hi hj (by omega)
      simp only [lookupRow, hl]
      rw [if_neg (by omega), if_neg (by omega), rowPair_lowest disp w _ k a b ha hb h1 h2 h3]
      exact interpolate_interpolates _ _ _ _ (by omega)

/-- The range flag of a lookup says that the displacement lies outside the table (R83). -/
theorem lookupRow_out {α : Type} [Inhabited α] (disp : α → Int) (rows : List α) (w : Int) (hn : rows ≠ []) :
    (lookupRow disp rows w).out = true ↔ outsideTable rows disp w := by
  match rows, hn with
  | first :: rest, _ =>
    have hlast : (first :: rest).getLast? = some ((first :: rest).getLast (by simp)) := List.getLast?_eq_some_getLast _
    unfold outsideTable
    simp only [hlast, List.head?_cons, Option.some.injEq, exists_eq_left']
    unfold lookupRow
    simp only
    split
    · simp_all
    · split
      · simp_all
      · split <;> simp_all

/-- A rounded division does not exceed an integer that its exact quotient does not exceed. -/
theorem roundDiv_le (n d k : Int) (hd : 0 < d) (h : n ≤ k * d) : roundDiv n d ≤ k := by
  have h1 := (roundDiv_rounds n d hd).1
  apply Int.not_lt.mp
  intro hk
  have h2 := Int.mul_le_mul_of_nonneg_right (show k + 1 ≤ roundDiv n d by omega) (Int.le_of_lt hd)
  rw [Int.add_mul, Int.one_mul] at h2
  omega

/-- A rounded division is not below an integer that its exact quotient is not below. -/
theorem le_roundDiv (n d k : Int) (hd : 0 < d) (h : k * d ≤ n) : k ≤ roundDiv n d := by
  have h1 := (roundDiv_rounds n d hd).1
  apply Int.not_lt.mp
  intro hk
  have h2 := Int.mul_le_mul_of_nonneg_right (show roundDiv n d ≤ k - 1 by omega) (Int.le_of_lt hd)
  rw [Int.sub_mul, Int.one_mul] at h2
  omega

/-- An interpolated value lies between the two it is interpolated between. -/
theorem interpolate_between (va vb num den : Int) (hd : 0 < den) (h0 : 0 ≤ num) (h1 : num ≤ den) :
    min va vb ≤ interpolate va vb num den ∧ interpolate va vb num den ≤ max va vb := by
  unfold interpolate
  rcases Int.le_total va vb with h | h
  · have a := le_roundDiv ((vb - va) * num) den 0 hd (by rw [Int.zero_mul]; exact Int.mul_nonneg (by omega) h0)
    have b := roundDiv_le ((vb - va) * num) den (vb - va) hd (Int.mul_le_mul_of_nonneg_left h1 (by omega))
    omega
  · have a := roundDiv_le ((vb - va) * num) den 0 hd (by
      rw [Int.zero_mul]; exact Int.mul_nonpos_of_nonpos_of_nonneg (by omega) h0)
    have b := le_roundDiv ((vb - va) * num) den (vb - va) hd (Int.mul_le_mul_of_nonpos_left (by omega) h1)
    omega

/-- The rows of a lookup are rows of the table around the displacement. -/
theorem rowPair_mem {α : Type} (disp : α → Int) (w : Int) (rows : List α) (a b : α) (h : rowPair disp w rows = some (a, b)) :
    a ∈ rows ∧ b ∈ rows ∧ disp a ≤ w ∧ w ≤ disp b := by
  induction rows with
  | nil => simp [rowPair] at h
  | cons x rest ih =>
    match rest, h, ih with
    | [], h, _ => simp [rowPair] at h
    | y :: rest, h, ih =>
      rw [rowPair] at h
      split at h
      · cases h; simp_all
      · have := ih h; simp_all

/-- A quantity that is positive in every row of a rising table is positive at every displacement. -/
theorem lookupRow_pos {α : Type} [Inhabited α] (disp q : α → Int) (rows : List α) (w : Int) (hn : rows ≠ [])
    (hq : ∀ r ∈ rows, 0 < q r) : 0 < (lookupRow disp rows w).value disp w q := by
  have val : ∀ (r : α) (o : Bool), Lookup.value { lo := r, hi := r, out := o } disp w q = q r := by
    intro r o; simp [Lookup.value, interpolate, roundDiv]
  match rows, hn with
  | first :: rest, _ =>
    have hl := hq _ (List.getLast_mem (show first :: rest ≠ [] by simp))
    have hf := hq first (by simp)
    unfold lookupRow
    simp only
    split
    · rw [val]; exact hf
    · split
      · rw [val]; exact hl
      · split
        · rename_i a b hab
          obtain ⟨ha, hb, h1, h2⟩ := rowPair_mem disp w _ a b hab
          have pa := hq a ha
          have pb := hq b hb
          simp only [Lookup.value]
          rcases Int.lt_or_eq_of_le (show disp a ≤ disp b by omega) with h | h
          · have := (interpolate_between (q a) (q b) (w - disp a) (disp b - disp a) (by omega) (by omega) (by omega)).1
            omega
          · have hw : w - disp a = 0 := by omega
            simp [interpolate, hw, roundDiv, show disp b - disp a = 0 by omega]; omega
        · rw [val]; exact hl

/-! ### The first of the largest -/

/-- The worst of the stations from `k` on is the best given, or the first station above it with the highest percentage. -/
theorem worstFrom_spec (ps : List Nat) (k : Nat) (best : Nat × Nat) :
    let r := worstFrom k best ps
    best.2 ≤ r.2 ∧ (∀ (j : Nat) (p : Nat), ps[j]? = some p → p ≤ r.2 ∧ (k + j < r.1 → r ≠ best → p < r.2)) ∧
    (r = best ∨ ∃ j, r.1 = k + j ∧ ps[j]? = some r.2 ∧ best.2 < r.2) := by
  induction ps generalizing k best with
  | nil => simp [worstFrom]
  | cons p ps ih =>
    simp only [worstFrom]
    by_cases h : best.2 < p
    · rw [if_pos h]
      obtain ⟨h1, h2, h3⟩ := ih (k + 1) (k, p)
      generalize hr : worstFrom (k + 1) (k, p) ps = r at *
      refine ⟨by simp at h1; omega, ?_, ?_⟩
      · intro j q hq
        match j, hq with
        | 0, hq =>
          simp only [List.getElem?_cons_zero, Option.some.injEq] at hq
          subst hq
          refine ⟨h1, fun hlt _ => ?_⟩
          rcases h3 with h3 | ⟨j, _, _, h3⟩
          · subst h3; simp at hlt
          · exact h3
        | j + 1, hq =>
          have := h2 j q (by simpa using hq)
          refine ⟨this.1, fun hlt _ => this.2 (by omega) ?_⟩
          rintro rfl
          exact absurd (show k + (j + 1) < k from hlt) (by omega)
      · rcases h3 with h3 | ⟨j, h3, h4, h5⟩
        · exact .inr ⟨0, by simp [h3], by simp [h3], by rw [h3]; exact h⟩
        · exact .inr ⟨j + 1, by omega, by simpa using h4, by simp at h5; omega⟩
    · rw [if_neg h]
      obtain ⟨h1, h2, h3⟩ := ih (k + 1) best
      generalize hr : worstFrom (k + 1) best ps = r at *
      refine ⟨h1, ?_, ?_⟩
      · intro j q hq
        match j, hq with
        | 0, hq =>
          simp only [List.getElem?_cons_zero, Option.some.injEq] at hq
          subst hq
          refine ⟨by omega, fun _ hne => ?_⟩
          rcases h3 with h3 | ⟨j, _, _, h3⟩
          · exact absurd h3 hne
          · omega
        | j + 1, hq =>
          have := h2 j q (by simpa using hq)
          exact ⟨this.1, fun hlt hne => this.2 (by omega) hne⟩
      · rcases h3 with h3 | ⟨j, h3, h4, h5⟩
        · exact .inl h3
        · exact .inr ⟨j + 1, by omega, by simpa using h4, h5⟩

/-- The worst station is the lowest of those with the highest percentage (R104). -/
theorem worst_spec (ps : List Nat) (hn : ps ≠ []) :
    let r := worst ps
    ps[r.1]? = some r.2 ∧ ∀ (j : Nat) (p : Nat), ps[j]? = some p → p ≤ r.2 ∧ (j < r.1 → p < r.2) := by
  match ps, hn with
  | p :: ps, _ =>
    obtain ⟨h1, h2, h3⟩ := worstFrom_spec ps 1 (0, p)
    simp only [worst]
    generalize worstFrom 1 (0, p) ps = r at *
    constructor
    · rcases h3 with h3 | ⟨j, h3, h4, h5⟩
      · simp [h3]
      · rw [h3, Nat.add_comm]; simpa using h4
    · intro j q hq
      match j, hq with
      | 0, hq =>
        simp only [List.getElem?_cons_zero, Option.some.injEq] at hq
        subst hq
        refine ⟨h1, fun hlt => ?_⟩
        rcases h3 with h3 | ⟨j, _, _, h3⟩
        · subst h3; simp at hlt
        · exact h3
      | j + 1, hq =>
        have := h2 j q (by simpa using hq)
        refine ⟨this.1, fun hlt => this.2 (by omega) ?_⟩
        rintro rfl
        simp at hlt

/-- The worst of the 21 stations is the worst in the sense of R104. -/
theorem worst_worstOf (ps : Vector Nat 21) : worstOf ps (worst ps.toList).1 (worst ps.toList).2 := by
  obtain ⟨h1, h2⟩ := worst_spec ps.toList (by
    intro h
    have := congrArg List.length h
    simp at this)
  obtain ⟨hk, he⟩ := List.getElem?_eq_some_iff.mp h1
  simp only [Vector.length_toList] at hk
  refine ⟨⟨_, hk⟩, rfl, by simpa using he.symm, fun j => ?_⟩
  have := h2 j.val ps[j.val] (by simp)
  have he' : ps[(worst ps.toList).1] = (worst ps.toList).2 := by simpa using he
  exact ⟨by simpa [he'] using this.1, fun hj => by simpa [he'] using this.2 hj⟩

/-- The best of a list of angles and levers: the start where no lever exceeds it, otherwise the first of the largest (R91). -/
theorem maxAngleFrom_spec (l : List (Int × Int)) (best : Int × Int) :
    let r := maxAngleFrom best l
    (r = best ∧ ∀ e ∈ l, e.2 ≤ best.2) ∨
      ∃ k, l[k]? = some r ∧ best.2 < r.2 ∧ ∀ (j : Nat) (e : Int × Int), l[j]? = some e → e.2 ≤ r.2 ∧ (j < k → e.2 < r.2) := by
  induction l generalizing best with
  | nil => simp [maxAngleFrom]
  | cons x l ih =>
    rw [show maxAngleFrom best (x :: l) = maxAngleFrom (if best.2 < x.2 then x else best) l from rfl]
    by_cases h : best.2 < x.2
    · rw [if_pos h]
      rcases ih x with ⟨h1, h2⟩ | ⟨k, h1, h2, h3⟩
      · refine .inr ⟨0, by simpa using h1.symm, by rw [h1]; exact h, fun j e he => ⟨?_, by omega⟩⟩
        rw [h1]
        match j, he with
        | 0, he => simp only [List.getElem?_cons_zero, Option.some.injEq] at he; subst he; omega
        | j + 1, he => exact h2 e (List.mem_of_getElem? (by simpa using he))
      · refine .inr ⟨k + 1, by simpa using h1, by omega, fun j e he => ?_⟩
        match j, he with
        | 0, he => simp only [List.getElem?_cons_zero, Option.some.injEq] at he; subst he; exact ⟨by omega, fun _ => h2⟩
        | j + 1, he =>
          have := h3 j e (by simpa using he)
          exact ⟨this.1, fun hj => this.2 (by omega)⟩
    · rw [if_neg h]
      rcases ih best with ⟨h1, h2⟩ | ⟨k, h1, h2, h3⟩
      · refine .inl ⟨h1, fun e he => ?_⟩
        rcases List.mem_cons.mp he with rfl | he
        · omega
        · exact h2 e he
      · refine .inr ⟨k + 1, by simpa using h1, h2, fun j e he => ?_⟩
        match j, he with
        | 0, he => simp only [List.getElem?_cons_zero, Option.some.injEq] at he; subst he; exact ⟨by omega, fun _ => by omega⟩
        | j + 1, he =>
          have := h3 j e (by simpa using he)
          exact ⟨this.1, fun hj => this.2 (by omega)⟩

/-- The angle of maximum GZ is the smallest of the table angles that share the largest lever (R91). -/
theorem maxAngle_spec (gz : Vector Int 9) :
    ∃ k : Fin 9, maxAngle gz = 100 * (#v[0, 5, 10, 15, 20, 30, 40, 50, 60] : Vector Int 9)[k.val] ∧
      ∀ j : Fin 9, gz[j.val] ≤ gz[k.val] ∧ (j < k → gz[j.val] < gz[k.val]) := by
  have table : ∀ i : Fin 9, angles[i.val]? = some (#v[0, 5, 10, 15, 20, 30, 40, 50, 60] : Vector Int 9)[i.val] := by decide
  have hz : ∀ (i : Nat) (hi : i < 9),
      (angles.zip gz.toList)[i]? = some ((#v[0, 5, 10, 15, 20, 30, 40, 50, 60] : Vector Int 9)[i], gz[i]) := by
    intro i hi
    rw [List.getElem?_zip_eq_some]
    refine ⟨?_, by simp [hi]⟩
    exact table ⟨i, hi⟩
  have hl : (angles.zip gz.toList).length = 9 := by simp [angles]
  match hc : angles.zip gz.toList with
  | [] => rw [hc] at hl; simp at hl
  | first :: rest =>
    rw [hc] at hz hl
    have h0 := hz 0 (by omega)
    simp only [List.getElem?_cons_zero, Option.some.injEq] at h0
    have hm : maxAngle gz = 100 * (maxAngleFrom first rest).1 := by simp only [maxAngle, hc]
    rw [hm]
    rcases maxAngleFrom_spec rest first with ⟨h1, h2⟩ | ⟨k, h1, h2, h3⟩
    · refine ⟨⟨0, by omega⟩, by rw [h1, h0], fun j => ⟨?_, fun hj => absurd hj (Nat.not_lt_zero _)⟩⟩
      match j with
      | ⟨0, _⟩ => exact Int.le_refl _
      | ⟨j + 1, hj⟩ =>
        have := h2 _ (List.mem_of_getElem? (by simpa using hz (j + 1) hj))
        rwa [h0] at this
    · have hk : k + 1 < 9 := by
        obtain ⟨hk, _⟩ := List.getElem?_eq_some_iff.mp h1
        simp only [List.length_cons] at hl
        omega
      have hr := hz (k + 1) hk
      simp only [List.getElem?_cons_succ, h1, Option.some.injEq] at hr
      refine ⟨⟨k + 1, hk⟩, by rw [hr], fun j => ?_⟩
      rw [hr] at h2 h3
      match j with
      | ⟨0, _⟩ => rw [h0] at h2; exact ⟨by simp only at h2 ⊢; omega, fun _ => h2⟩
      | ⟨j + 1, hj⟩ =>
        have := h3 j _ (by simpa using hz (j + 1) hj)
        exact ⟨this.1, fun hlt => this.2 (Nat.lt_of_succ_lt_succ hlt)⟩

/-! ### Tank conversion -/

/-- In a table that rises, the pair around a sounding is found (R67). -/
theorem soundingPair_between (s : Int) (rows : List SoundingPoint) (k : Nat) (a b : SoundingPoint)
    (h : rows.Pairwise fun a b => a.sounding < b.sounding)
    (ha : rows[k]? = some a) (hb : rows[k + 1]? = some b) (h1 : a.sounding ≤ s) (h2 : s < b.sounding) :
    soundingPair s rows = some (a, b) := by
  induction k generalizing rows with
  | zero =>
    match rows, ha, hb with
    | x :: y :: rest, ha, hb =>
      simp only [List.getElem?_cons_zero, Option.some.injEq, List.getElem?_cons_succ] at ha hb
      subst ha hb
      simp [soundingPair, h1, h2]
  | succ k ih =>
    match rows, ha, hb with
    | x :: y :: rest, ha, hb =>
      have hy := rising_le SoundingPoint.sounding _ h 1 (k + 1) y a (by omega) (by simp) ha
      rw [soundingPair, if_neg (by omega)]
      exact ih (y :: rest) (List.Pairwise.of_cons h) (by simpa using ha) (by simpa using hb)
    | [x], ha, hb => simp at hb

/-- A value brought within its bounds. -/
theorem clamp_clampsTo (lo hi z : Int) (h : lo ≤ hi) : clampsTo lo hi z (clamp lo hi z) := by
  unfold clampsTo clamp
  omega

/-- The conversion of a sounding reads the tank's table at the sounding brought within 0 to depth (R67). -/
theorem convert_readsAt (t : TankBook) (z : Int)
    (h : t.table.Pairwise fun a b => a.sounding < b.sounding) :
    t.readsAt (clamp 0 t.consts.depth z) (t.convert z) := by
  unfold TankBook.readsAt TankBook.convert
  generalize clamp 0 t.consts.depth z = s
  match ht : t.table, h with
  | [], _ => simp
  | first :: rest, h =>
    have hlast : (first :: rest).getLast? = some ((first :: rest).getLast (by simp)) := List.getLast?_eq_some_getLast _
    generalize hl : (first :: rest).getLast (by simp) = last at hlast
    simp only [List.head?_cons, Option.some.injEq, hlast, hl, forall_eq']
    refine ⟨fun hs => by rw [if_pos hs], ?_, ?_⟩
    · rintro _ _ rfl rfl h1 h2
      rw [if_neg (by omega), if_pos h2]
    · intro k a b ha hb h1 h2 h3
      have hbl : b.sounding ≤ last.sounding := by
        rw [List.getLast?_eq_getElem?] at hlast
        refine rising_le SoundingPoint.sounding _ h (k + 1) _ b last ?_ hb hlast
        obtain ⟨hk, _⟩ := List.getElem?_eq_some_iff.mp hb
        omega
      rw [if_neg (by omega), if_neg (by omega), soundingPair_between s _ k a b h ha hb h1 h2]
      have hd : 0 < b.sounding - a.sounding := by omega
      exact ⟨interpolate_interpolates _ _ _ _ hd, interpolate_interpolates _ _ _ _ hd, interpolate_interpolates _ _ _ _ hd,
        interpolate_interpolates _ _ _ _ hd, interpolate_interpolates _ _ _ _ hd⟩

/-! ### The bending moments -/

/-- One bending moment for each station forward of the first. -/
theorem bendingFrom_length (bm : Int) (l : List (Int × Int)) : (bendingFrom bm l).length = l.length - 1 := by
  induction l generalizing bm with
  | nil => simp [bendingFrom]
  | cons a l ih =>
    obtain ⟨x0, s0⟩ := a
    match l with
    | [] => simp [bendingFrom]
    | (x1, s1) :: rest =>
      simp only [bendingFrom, List.length_cons, ih]
      omega

/-- Each bending moment is the one aft of it and the trapezoid between them (R99). -/
theorem bendingFrom_step (bm : Int) (l : List (Int × Int)) (k : Nat) (x0 s0 x1 s1 : Int)
    (ha : l[k]? = some (x0, s0)) (hb : l[k + 1]? = some (x1, s1)) :
    ∃ m, (bm :: bendingFrom bm l)[k]? = some m ∧
      (bm :: bendingFrom bm l)[k + 1]? = some (m + roundDiv ((s0 + s1) * (x1 - x0)) 2) := by
  induction k generalizing bm l with
  | zero =>
    match l, ha, hb with
    | a :: b :: rest, ha, hb =>
      simp only [List.getElem?_cons_zero, Option.some.injEq, List.getElem?_cons_succ] at ha hb
      subst ha hb
      exact ⟨bm, by simp, by simp [bendingFrom]⟩
  | succ k ih =>
    match l, ha, hb with
    | (x, s) :: (y, s') :: rest, ha, hb =>
      obtain ⟨m, h1, h2⟩ := ih (bm + roundDiv ((s + s') * (y - x)) 2) ((y, s') :: rest) (by simpa using ha) (by simpa using hb)
      refine ⟨m, ?_, ?_⟩
      · rw [bendingFrom, List.getElem?_cons_succ]; exact h1
      · rw [bendingFrom, List.getElem?_cons_succ]; exact h2
    | [x], ha, hb => simp at hb

/-- The bending moments start at 0 and grow by the trapezoid between adjacent stations (R99). -/
theorem bendingMoments_spec (xs sfs : Vector Int 21) :
    ∃ bend : Vector Int 21, bendingMoments xs.toList sfs.toList = bend.toList ∧ bend[0] = 0 ∧
      ∀ s : Fin 20, bend[s.val + 1] =
        bend[s.val] + roundDiv ((sfs[s.val] + sfs[s.val + 1]) * (xs[s.val + 1] - xs[s.val])) 2 := by
  have hlen : (bendingMoments xs.toList sfs.toList).length = 21 := by
    simp [bendingMoments, bendingFrom_length]
  refine ⟨⟨(bendingMoments xs.toList sfs.toList).toArray, by simp [hlen]⟩, by simp [Vector.toList], ?_, fun s => ?_⟩
  · simp [bendingMoments]
  · have hz : ∀ (i : Nat) (hi : i < 21), (xs.toList.zip sfs.toList)[i]? = some (xs[i], sfs[i]) := by
      intro i hi
      rw [List.getElem?_zip_eq_some]
      simp [hi]
    obtain ⟨m, h1, h2⟩ := bendingFrom_step 0 _ s.val _ _ _ _ (hz s.val (by omega)) (hz (s.val + 1) (by omega))
    have e1 : (bendingMoments xs.toList sfs.toList)[s.val]'(by omega) = m :=
      (List.getElem?_eq_some_iff.mp h1).2
    have e2 := (List.getElem?_eq_some_iff.mp h2).2
    simp only [Vector.getElem_mk, List.getElem_toArray]
    rw [e1]
    exact e2

/-- A percentage is rounded and held at 999 (R102, R103). -/
theorem percentOf_percents (z limit : Int) (h : 0 < limit) : percents z limit (percentOf z limit) := by
  refine ⟨_, roundDiv_rounds _ _ h, ?_⟩
  have := le_roundDiv ((z.natAbs : Int) * 100) limit 0 h (by omega)
  unfold percentOf
  omega

/-- The list is rounded and held within 1 500, and is 1 500 to the side of the centre without a positive GM (R87). -/
theorem listOf_spec (tcg gm : Int) :
    (0 < gm → ∃ r, rounds (tcg * 5730) gm r ∧ clampsTo (-1500) 1500 r (listOf tcg gm).1 ∧
      ((listOf tcg gm).2.1 = true ↔ r < -1500 ∨ 1500 < r)) ∧
    (gm ≤ 0 → (listOf tcg gm).1 = (if 0 ≤ tcg then 1500 else -1500) ∧ (listOf tcg gm).2.1 = false) ∧
    ((listOf tcg gm).2.2 = true ↔ gm ≤ 0) := by
  refine ⟨fun h => ⟨_, roundDiv_rounds _ _ h, ?_⟩, fun h => ?_, ?_⟩
  · unfold listOf clampsTo
    rw [if_pos h]
    generalize roundDiv (tcg * 5730) gm = r
    simp only
    split
    · simp; omega
    · split
      · simp; omega
      · simp; omega
  · unfold listOf
    rw [if_neg (by omega)]
    split <;> simp
  · unfold listOf
    split
    · simp only
      split
      · simp; omega
      · split <;> (simp; omega)
    · split <;> (simp; omega)

/-- The worst of the shear percentages is taken over the 21 frame stations (R102, R104). -/
theorem strengthStage_shear (b : Book) (m : ConditionMode) (sums : SumSet) (bf : Vector Int 21) (trim : Int) :
    (strengthStage b m sums bf trim).shear =
      worst (Vector.ofFn fun k : Fin 21 =>
        shearPercent m b.stations[k.val] (shearForces sums bf b.trim trim)[k.val]).toList := by
  unfold strengthStage
  generalize shearForces sums bf b.trim trim = sf
  refine congrArg worst ?_
  apply List.ext_getElem
  · simp
  · intro i h1 h2
    simp

/-- The worst of the bending percentages is taken over the 21 frame stations, from the reported moments (R99, R103, R104). -/
theorem strengthStage_bend (b : Book) (m : ConditionMode) (sums : SumSet) (bf : Vector Int 21) (trim : Int)
    (bend : Vector Int 21)
    (h : bendingMoments (b.stations.map FrameStation.x).toList (shearForces sums bf b.trim trim).toList = bend.toList) :
    (strengthStage b m sums bf trim).bend =
      worst (Vector.ofFn fun k : Fin 21 => bendPercent m b.stations[k.val] (roundDiv bend[k.val] 10000)).toList := by
  rw [Vector.toList_map] at h
  unfold strengthStage
  simp only [h]
  refine congrArg worst ?_
  apply List.ext_getElem
  · simp
  · intro i h1 h2
    simp [reportedMoment]

/-- The percentages of shear and of bending against the limits of the mode in force (R102, R103). -/
theorem percents_spec (b : Book) (hb : b.sound) (m : ConditionMode) (s : Fin 21) (sf bm : Int) :
    percents sf (b.stations[s.val].shearLimit m) (shearPercent m b.stations[s.val] sf) ∧
    percents bm (b.stations[s.val].bendLimit m bm) (bendPercent m b.stations[s.val] bm) := by
  obtain ⟨p1, p2, p3, p4, p5, p6⟩ := hb.2.2.2.2 s
  unfold shearPercent bendPercent FrameStation.shearLimit FrameStation.bendLimit
  cases m <;> by_cases hz : 0 ≤ bm <;> simp only [hz, if_true, if_false] <;>
    exact ⟨percentOf_percents _ _ ‹_›, percentOf_percents _ _ ‹_›⟩

/-- The Bonjean figures at a displacement (R83). -/
def bonjean (b : Book) (w : Int) : Vector Int 21 :=
  Vector.ofFn fun k => (lookupRow HydroRow.disp b.hydroRows w).value HydroRow.disp w fun r => r.bf[k]

/-- The working figures of a pass: everything the stages compute, with the strength figures given. -/
def workingOf (b : Book) (snap : Snapshot) (bend : Vector Int 21) : Working :=
  let w := snap.sums.w
  let at' := (lookupRow HydroRow.disp b.hydroRows w).value HydroRow.disp w
  let shear := shearForces snap.sums (bonjean b w) b.trim (evaluate b snap).trim
  { lcg := roundDiv snap.sums.ml w, vcg := roundDiv snap.sums.mv w, tcg := roundDiv snap.sums.mt w
    tlcf := at' HydroRow.tlcf, kmt := at' HydroRow.kmt, lcb := at' HydroRow.lcb, lcf := at' HydroRow.lcf
    mctc := at' HydroRow.mctc, bf := bonjean b w
    kn := Vector.ofFn fun k => (lookupRow CrossRow.disp b.crossRows w).value CrossRow.disp w fun r => r.kn[k]
    shear := shear, bend := bend
    shearPct := Vector.ofFn fun k : Fin 21 => shearPercent snap.mode b.stations[k.val] shear[k.val]
    bendPct := Vector.ofFn fun k : Fin 21 => bendPercent snap.mode b.stations[k.val] (roundDiv bend[k.val] 10000) }

/-- The centres of a pass (R82). -/
theorem evaluate_centres (b : Book) (snap : Snapshot) (bend : Vector Int 21) (hw : 0 < snap.sums.w) :
    (workingOf b snap bend).centres snap.sums (evaluate b snap) :=
  ⟨roundDiv_rounds _ _ hw, roundDiv_rounds _ _ hw, roundDiv_rounds _ _ hw, roundDiv_rounds _ _ hw, rfl, rfl⟩

/-- The lookups of a pass (R83, R88). -/
theorem evaluate_tables (b : Book) (snap : Snapshot) (bend : Vector Int 21) (hb : b.sound) :
    (workingOf b snap bend).tables b (evaluate b snap) := by
  obtain ⟨⟨hy1, hy2⟩, ⟨hc1, hc2⟩, -⟩ := hb
  have hyn : b.hydroRows ≠ [] := by intro h; rw [h] at hy1; simp at hy1
  have hcn : b.crossRows ≠ [] := by intro h; rw [h] at hc1; simp at hc1
  refine ⟨lookupRow_lookedUp _ _ _ _ hy2, lookupRow_lookedUp _ _ _ _ hy2, lookupRow_lookedUp _ _ _ _ hy2,
    lookupRow_lookedUp _ _ _ _ hy2, lookupRow_lookedUp _ _ _ _ hy2, fun k => ?_, fun k => ?_, lookupRow_out _ _ _ hyn,
    lookupRow_out _ _ _ hcn⟩
  · simp only [workingOf, bonjean, Vector.getElem_ofFn]
    exact lookupRow_lookedUp HydroRow.disp (fun r => r.bf[k.val]) b.hydroRows snap.sums.w hy2
  · simp only [workingOf, Vector.getElem_ofFn]
    exact lookupRow_lookedUp CrossRow.disp (fun r => r.kn[k.val]) b.crossRows snap.sums.w hc2

/-- GM, trim, drafts and list of a pass (R84 to R87). -/
theorem evaluate_attitude (b : Book) (snap : Snapshot) (bend : Vector Int 21) (hb : b.sound) :
    (workingOf b snap bend).attitude b (evaluate b snap) := by
  obtain ⟨⟨hy1, -⟩, -, hl, hm, -⟩ := hb
  have hyn : b.hydroRows ≠ [] := by intro h; rw [h] at hy1; simp at hy1
  have mpos := lookupRow_pos HydroRow.disp HydroRow.mctc b.hydroRows snap.sums.w hyn hm
  have hlist := listOf_spec (workingOf b snap bend).tcg (evaluate b snap).gm
  exact ⟨rfl, roundDiv_rounds _ _ (Int.mul_pos (by omega) mpos), ⟨_, roundDiv_rounds _ _ hl, rfl⟩, rfl,
    roundDiv_rounds _ _ (by omega), hlist.1, hlist.2.1, hlist.2.2⟩

/-- The three areas are trapezoid sums over the table angles (R90). -/
theorem areaBetween_unfold (g : Vector Int 9) :
    let to30 := 5 * (g[0] + g[1]) + 5 * (g[1] + g[2]) + 5 * (g[2] + g[3]) + 5 * (g[3] + g[4]) + 10 * (g[4] + g[5])
    let to40 := 10 * (g[5] + g[6])
    areaBetween g 0 5 = areaOf to30 ∧ areaBetween g 5 6 = areaOf to40 ∧ areaBetween g 0 6 = areaOf (to30 + to40) := by
  have hg : g.toList = [g[0], g[1], g[2], g[3], g[4], g[5], g[6], g[7], g[8]] := by
    apply List.ext_getElem
    · simp
    · intro i h1 h2
      simp only [Vector.length_toList] at h1
      match i, h1 with
      | 0, _ | 1, _ | 2, _ | 3, _ | 4, _ | 5, _ | 6, _ | 7, _ | 8, _ => simp
  unfold areaBetween
  rw [hg]
  simp only [angles, List.zip_cons_cons, List.zip_nil_right, List.take_succ_cons, List.take_zero, List.drop_zero,
    List.drop_succ_cons, trapezoid]
  refine ⟨congrArg _ ?_, congrArg _ ?_, congrArg _ ?_⟩ <;> omega

/-- Levers, areas and the angle of maximum GZ of a pass (R89 to R91). -/
theorem evaluate_levers (b : Book) (snap : Snapshot) (bend : Vector Int 21) :
    (workingOf b snap bend).levers (evaluate b snap) := by
  obtain ⟨a1, a2, a3⟩ := areaBetween_unfold (evaluate b snap).gz
  refine ⟨fun k => ⟨_, _, roundDiv_rounds _ _ (by omega), roundDiv_rounds _ _ (by omega), ?_⟩, ?_, ?_, ?_, ?_⟩
  · rw [show (evaluate b snap).gz =
      levers (workingOf b snap bend).kn (evaluate b snap).kgc (workingOf b snap bend).tcg from rfl]
    simp only [levers, Vector.getElem_ofFn]
    rfl
  · rw [show (evaluate b snap).area30 = areaBetween (evaluate b snap).gz 0 5 from rfl, a1]
    exact roundDiv_rounds _ _ (by omega)
  · rw [show (evaluate b snap).area3040 = areaBetween (evaluate b snap).gz 5 6 from rfl, a2]
    exact roundDiv_rounds _ _ (by omega)
  · rw [show (evaluate b snap).area40 = areaBetween (evaluate b snap).gz 0 6 from rfl, a3]
    exact roundDiv_rounds _ _ (by omega)
  · exact maxAngle_spec (evaluate b snap).gz

/-- The strength stage of a pass (R97 to R104). -/
theorem evaluate_strength (b : Book) (snap : Snapshot) (hb : b.sound) :
    ∃ bend, (workingOf b snap bend).strength b snap (evaluate b snap) := by
  obtain ⟨bend, hbend, h0, hstep⟩ := bendingMoments_spec (b.stations.map FrameStation.x)
    (shearForces snap.sums (bonjean b snap.sums.w) b.trim (evaluate b snap).trim)
  let stage := strengthStage b snap.mode snap.sums (bonjean b snap.sums.w)
  refine ⟨bend, fun s => ⟨_, roundDiv_rounds _ _ (by omega), ?_⟩, h0, fun s => ⟨_, roundDiv_rounds _ _ (by omega), ?_⟩,
    fun s => ?_, ?_, ?_⟩
  · show (shearForces _ _ _ _)[s.val] = _
    unfold shearForces buoyancyAft
    rw [Vector.getElem_ofFn]
    rfl
  · have := hstep s
    rw [Vector.getElem_map, Vector.getElem_map] at this
    exact this
  · have h1 := percents_spec b hb snap.mode s (workingOf b snap bend).shear[s.val] (roundDiv bend[s.val] 10000)
    refine ⟨?_, _, roundDiv_rounds _ _ (by omega), ?_⟩
    · simpa only [workingOf, Vector.getElem_ofFn] using h1.1
    · simpa only [workingOf, Vector.getElem_ofFn] using h1.2
  · rw [show (evaluate b snap).shearStation = (stage (evaluate b snap).trim).shear.1 from rfl,
      show (evaluate b snap).shearPercent = (stage (evaluate b snap).trim).shear.2 from rfl,
      strengthStage_shear]
    exact worst_worstOf _
  · rw [show (evaluate b snap).bendStation = (stage (evaluate b snap).trim).bend.1 from rfl,
      show (evaluate b snap).bendPercent = (stage (evaluate b snap).trim).bend.2 from rfl,
      strengthStage_bend b _ _ _ _ bend hbend]
    exact worst_worstOf _

/-- The criteria of a pass (R92, R105). -/
theorem evaluate_criteria (b : Book) (snap : Snapshot) (hb : b.sound) :
    (evaluate b snap).criteria b snap.notEstablished := by
  have hlast : ∃ last, b.hydroRows.getLast? = some last ∧ b.lastHydro = last := by
    obtain ⟨⟨hy1, -⟩, -⟩ := hb
    unfold Book.lastHydro
    match b.hydroRows, hy1 with
    | x :: rest, _ =>
      exact ⟨_, List.getLast?_eq_some_getLast (by simp), by simp [List.getLastD_eq_getLast?, List.getLast?_eq_some_getLast]⟩
  obtain ⟨last, hl1, hl2⟩ := hlast
  refine ⟨fun k => ?_, ?_⟩
  · rw [show (evaluate b snap).fails = criteriaFails b snap.notEstablished (evaluate b snap).w (evaluate b snap).tmean
      (evaluate b snap).gm (evaluate b snap).list (evaluate b snap).gz (evaluate b snap).area30 (evaluate b snap).area40
      (evaluate b snap).area3040 (evaluate b snap).angle
      { shear := ((evaluate b snap).shearStation, (evaluate b snap).shearPercent)
        bend := ((evaluate b snap).bendStation, (evaluate b snap).bendPercent) } from rfl]
    generalize evaluate b snap = f
    unfold criteriaFails
    simp only [Vector.getElem_ofFn, Bool.and_eq_true, decide_eq_true_eq]
    refine and_congr Iff.rfl ?_
    rw [hl1, hl2]
    have neg : ∀ (P : Prop) [Decidable P], (!decide P) = true ↔ ¬ P := by simp
    refine k.cases (iff_of_eq (Bool.not_eq_false snap.notEstablished).symm) fun k => ?_
    iterate 10 refine k.cases (neg _) fun k => ?_
    exact k.cases ((neg _).trans (by simp)) fun k => k.elim0
  · simp only [Figures.failing, Vector.any_eq_true, id]
    constructor
    · rintro ⟨i, h, h'⟩; exact ⟨⟨i, h⟩, h'⟩
    · rintro ⟨k, h'⟩; exact ⟨k.val, k.isLt, h'⟩

/-- The two flags of disagreement with what the channels observe (R93). -/
theorem disagree_spec (b : ChannelsBook) (o : Observation) (tmean list : Int) :
    let sound := fun (c : ChannelView) => (c.state = .active ∨ c.state = .doubtful) ∧ c.stale = false
    (draftDisagree b o tmean = true ↔ sound o.forward ∧ sound o.aft ∧
      ∃ x y m, o.forward.value = some x ∧ o.aft.value = some y ∧ rounds (x + y) 2 m ∧
        b.draftTolerance < ((m - tmean).natAbs : Int)) ∧
    (heelDisagree b o list = true ↔ sound o.heel ∧
      ∃ h, o.heel.value = some h ∧ b.heelTolerance < ((h - list).natAbs : Int)) := by
  have ht : ∀ c : ChannelView, c.trusted = true ↔ (c.state = .active ∨ c.state = .doubtful) ∧ c.stale = false := by
    intro c; simp [ChannelView.trusted]
  have hu : ∀ n m : Int, rounds n 2 m ↔ m = roundDiv n 2 := by
    intro n m
    have h2 := roundDiv_rounds n 2 (by omega)
    constructor
    · intro h1
      unfold rounds at h1 h2
      omega
    · rintro rfl; exact h2
  intro sound
  constructor
  · unfold draftDisagree
    rw [Bool.and_eq_true, Bool.and_eq_true, ht, ht, and_assoc]
    refine and_congr Iff.rfl (and_congr Iff.rfl ?_)
    cases o.forward.value <;> cases o.aft.value <;> simp [hu]
  · unfold heelDisagree
    rw [Bool.and_eq_true, ht]
    refine and_congr Iff.rfl ?_
    cases o.heel.value <;> simp

/-- The observation flags and the upright moment of a pass (R93, R94). -/
theorem evaluate_observation (b : Book) (snap : Snapshot) : (evaluate b snap).observation b snap := by
  refine ⟨fun h => ?_, fun o h => ?_, roundDiv_rounds _ _ (by omega)⟩
  · refine ⟨?_, ?_, ?_⟩
    · show (match snap.observed with | some o => o.held | none => false) = _; rw [h]
    · show (match snap.observed with | some o => _ | none => false) = _; rw [h]
    · show (match snap.observed with | some o => _ | none => false) = _; rw [h]
  · have hd := disagree_spec b.channels o (evaluate b snap).tmean (evaluate b snap).list
    refine ⟨?_, ?_, ?_⟩
    · show (match snap.observed with | some o => o.held | none => false) = _; rw [h]
    · rw [← hd.1]
      show (match snap.observed with | some o => draftDisagree b.channels o (evaluate b snap).tmean | none => false) = _ ↔ _
      rw [h]
    · rw [← hd.2]
      show (match snap.observed with | some o => heelDisagree b.channels o (evaluate b snap).list | none => false) = _ ↔ _
      rw [h]

end Sys2Proof.Machine
end

