-- ==== Sys2Proof/Laws/State.lean ====
section
/-!
SUPPORT. One lemma for each field that each update of the state leaves alone or sets, so that no later proof unfolds a record
update.
-/
namespace Sys2Proof.Machine


/-! ### setKept -/
@[simp] theorem State.setKept_kept (s : State) (k : Kept) :
    (s.setKept k).kept = k := rfl
@[simp] theorem State.setKept_keptCheck (s : State) (k : Kept) :
    (s.setKept k).keptCheck = some k.word := rfl
@[simp] theorem State.setKept_supply (s : State) (k : Kept) : (s.setKept k).supply = s.supply := rfl
@[simp] theorem State.setKept_resetHeld (s : State) (k : Kept) : (s.setKept k).resetHeld = s.resetHeld := rfl
@[simp] theorem State.setKept_checking (s : State) (k : Kept) : (s.setKept k).checking = s.checking := rfl
@[simp] theorem State.setKept_part (s : State) (k : Kept) : (s.setKept k).part = s.part := rfl
@[simp] theorem State.setKept_clock (s : State) (k : Kept) : (s.setKept k).clock = s.clock := rfl
@[simp] theorem State.setKept_strap (s : State) (k : Kept) : (s.setKept k).strap = s.strap := rfl
@[simp] theorem State.setKept_book (s : State) (k : Kept) : (s.setKept k).book = s.book := rfl
@[simp] theorem State.setKept_bookCheck (s : State) (k : Kept) : (s.setKept k).bookCheck = s.bookCheck := rfl
@[simp] theorem State.setKept_bookStatus (s : State) (k : Kept) : (s.setKept k).bookStatus = s.bookStatus := rfl
@[simp] theorem State.setKept_pending (s : State) (k : Kept) : (s.setKept k).pending = s.pending := rfl
@[simp] theorem State.setKept_vol (s : State) (k : Kept) : (s.setKept k).vol = s.vol := rfl

/-! ### setCrane -/
@[simp] theorem State.setCrane_kept (s : State) (c : CraneNo) (k : CraneState) :
    (s.setCrane c k).kept = { s.kept with cranes := s.kept.cranes.set c.val k c.isLt } := rfl
@[simp] theorem State.setCrane_keptCheck (s : State) (c : CraneNo) (k : CraneState) :
    (s.setCrane c k).keptCheck = some (s.setCrane c k).kept.word := rfl
@[simp] theorem State.setCrane_supply (s : State) (c : CraneNo) (k : CraneState) : (s.setCrane c k).supply = s.supply := rfl
@[simp] theorem State.setCrane_resetHeld (s : State) (c : CraneNo) (k : CraneState) : (s.setCrane c k).resetHeld = s.resetHeld := rfl
@[simp] theorem State.setCrane_checking (s : State) (c : CraneNo) (k : CraneState) : (s.setCrane c k).checking = s.checking := rfl
@[simp] theorem State.setCrane_part (s : State) (c : CraneNo) (k : CraneState) : (s.setCrane c k).part = s.part := rfl
@[simp] theorem State.setCrane_clock (s : State) (c : CraneNo) (k : CraneState) : (s.setCrane c k).clock = s.clock := rfl
@[simp] theorem State.setCrane_strap (s : State) (c : CraneNo) (k : CraneState) : (s.setCrane c k).strap = s.strap := rfl
@[simp] theorem State.setCrane_book (s : State) (c : CraneNo) (k : CraneState) : (s.setCrane c k).book = s.book := rfl
@[simp] theorem State.setCrane_bookCheck (s : State) (c : CraneNo) (k : CraneState) : (s.setCrane c k).bookCheck = s.bookCheck := rfl
@[simp] theorem State.setCrane_bookStatus (s : State) (c : CraneNo) (k : CraneState) : (s.setCrane c k).bookStatus = s.bookStatus := rfl
@[simp] theorem State.setCrane_pending (s : State) (c : CraneNo) (k : CraneState) : (s.setCrane c k).pending = s.pending := rfl
@[simp] theorem State.setCrane_vol (s : State) (c : CraneNo) (k : CraneState) : (s.setCrane c k).vol = s.vol := rfl

/-! ### onChannelKept -/
@[simp] theorem State.onChannelKept_kept (s : State) (ch : ChannelNo) (f : ChannelKept → ChannelKept) :
    (s.onChannelKept ch f).kept = { s.kept with channels := updAt s.kept.channels ch f } := rfl
@[simp] theorem State.onChannelKept_keptCheck (s : State) (ch : ChannelNo) (f : ChannelKept → ChannelKept) :
    (s.onChannelKept ch f).keptCheck = some (s.onChannelKept ch f).kept.word := rfl
@[simp] theorem State.onChannelKept_supply (s : State) (ch : ChannelNo) (f : ChannelKept → ChannelKept) : (s.onChannelKept ch f).supply = s.supply := rfl
@[simp] theorem State.onChannelKept_resetHeld (s : State) (ch : ChannelNo) (f : ChannelKept → ChannelKept) : (s.onChannelKept ch f).resetHeld = s.resetHeld := rfl
@[simp] theorem State.onChannelKept_checking (s : State) (ch : ChannelNo) (f : ChannelKept → ChannelKept) : (s.onChannelKept ch f).checking = s.checking := rfl
@[simp] theorem State.onChannelKept_part (s : State) (ch : ChannelNo) (f : ChannelKept → ChannelKept) : (s.onChannelKept ch f).part = s.part := rfl
@[simp] theorem State.onChannelKept_clock (s : State) (ch : ChannelNo) (f : ChannelKept → ChannelKept) : (s.onChannelKept ch f).clock = s.clock := rfl
@[simp] theorem State.onChannelKept_strap (s : State) (ch : ChannelNo) (f : ChannelKept → ChannelKept) : (s.onChannelKept ch f).strap = s.strap := rfl
@[simp] theorem State.onChannelKept_book (s : State) (ch : ChannelNo) (f : ChannelKept → ChannelKept) : (s.onChannelKept ch f).book = s.book := rfl
@[simp] theorem State.onChannelKept_bookCheck (s : State) (ch : ChannelNo) (f : ChannelKept → ChannelKept) : (s.onChannelKept ch f).bookCheck = s.bookCheck := rfl
@[simp] theorem State.onChannelKept_bookStatus (s : State) (ch : ChannelNo) (f : ChannelKept → ChannelKept) : (s.onChannelKept ch f).bookStatus = s.bookStatus := rfl
@[simp] theorem State.onChannelKept_pending (s : State) (ch : ChannelNo) (f : ChannelKept → ChannelKept) : (s.onChannelKept ch f).pending = s.pending := rfl
@[simp] theorem State.onChannelKept_vol (s : State) (ch : ChannelNo) (f : ChannelKept → ChannelKept) : (s.onChannelKept ch f).vol = s.vol := rfl

/-! ### onTank -/
@[simp] theorem State.onTank_kept (s : State) (t : TankNo) (f : TankFill → TankFill) :
    (s.onTank t f).kept = { s.kept with tanks := updAt s.kept.tanks t f } := rfl
@[simp] theorem State.onTank_keptCheck (s : State) (t : TankNo) (f : TankFill → TankFill) :
    (s.onTank t f).keptCheck = some (s.onTank t f).kept.word := rfl
@[simp] theorem State.onTank_supply (s : State) (t : TankNo) (f : TankFill → TankFill) : (s.onTank t f).supply = s.supply := rfl
@[simp] theorem State.onTank_resetHeld (s : State) (t : TankNo) (f : TankFill → TankFill) : (s.onTank t f).resetHeld = s.resetHeld := rfl
@[simp] theorem State.onTank_checking (s : State) (t : TankNo) (f : TankFill → TankFill) : (s.onTank t f).checking = s.checking := rfl
@[simp] theorem State.onTank_part (s : State) (t : TankNo) (f : TankFill → TankFill) : (s.onTank t f).part = s.part := rfl
@[simp] theorem State.onTank_clock (s : State) (t : TankNo) (f : TankFill → TankFill) : (s.onTank t f).clock = s.clock := rfl
@[simp] theorem State.onTank_strap (s : State) (t : TankNo) (f : TankFill → TankFill) : (s.onTank t f).strap = s.strap := rfl
@[simp] theorem State.onTank_book (s : State) (t : TankNo) (f : TankFill → TankFill) : (s.onTank t f).book = s.book := rfl
@[simp] theorem State.onTank_bookCheck (s : State) (t : TankNo) (f : TankFill → TankFill) : (s.onTank t f).bookCheck = s.bookCheck := rfl
@[simp] theorem State.onTank_bookStatus (s : State) (t : TankNo) (f : TankFill → TankFill) : (s.onTank t f).bookStatus = s.bookStatus := rfl
@[simp] theorem State.onTank_pending (s : State) (t : TankNo) (f : TankFill → TankFill) : (s.onTank t f).pending = s.pending := rfl
@[simp] theorem State.onTank_vol (s : State) (t : TankNo) (f : TankFill → TankFill) : (s.onTank t f).vol = s.vol := rfl

/-! ### onChannelLive -/
@[simp] theorem State.onChannelLive_channels (s : State) (ch : ChannelNo) (f : ChannelLive → ChannelLive) :
    (s.onChannelLive ch f).vol.channels = updAt s.vol.channels ch f := rfl
@[simp] theorem State.onChannelLive_supply (s : State) (ch : ChannelNo) (f : ChannelLive → ChannelLive) : (s.onChannelLive ch f).supply = s.supply := rfl
@[simp] theorem State.onChannelLive_resetHeld (s : State) (ch : ChannelNo) (f : ChannelLive → ChannelLive) : (s.onChannelLive ch f).resetHeld = s.resetHeld := rfl
@[simp] theorem State.onChannelLive_checking (s : State) (ch : ChannelNo) (f : ChannelLive → ChannelLive) : (s.onChannelLive ch f).checking = s.checking := rfl
@[simp] theorem State.onChannelLive_part (s : State) (ch : ChannelNo) (f : ChannelLive → ChannelLive) : (s.onChannelLive ch f).part = s.part := rfl
@[simp] theorem State.onChannelLive_clock (s : State) (ch : ChannelNo) (f : ChannelLive → ChannelLive) : (s.onChannelLive ch f).clock = s.clock := rfl
@[simp] theorem State.onChannelLive_strap (s : State) (ch : ChannelNo) (f : ChannelLive → ChannelLive) : (s.onChannelLive ch f).strap = s.strap := rfl
@[simp] theorem State.onChannelLive_book (s : State) (ch : ChannelNo) (f : ChannelLive → ChannelLive) : (s.onChannelLive ch f).book = s.book := rfl
@[simp] theorem State.onChannelLive_bookCheck (s : State) (ch : ChannelNo) (f : ChannelLive → ChannelLive) : (s.onChannelLive ch f).bookCheck = s.bookCheck := rfl
@[simp] theorem State.onChannelLive_bookStatus (s : State) (ch : ChannelNo) (f : ChannelLive → ChannelLive) : (s.onChannelLive ch f).bookStatus = s.bookStatus := rfl
@[simp] theorem State.onChannelLive_kept (s : State) (ch : ChannelNo) (f : ChannelLive → ChannelLive) : (s.onChannelLive ch f).kept = s.kept := rfl
@[simp] theorem State.onChannelLive_keptCheck (s : State) (ch : ChannelNo) (f : ChannelLive → ChannelLive) : (s.onChannelLive ch f).keptCheck = s.keptCheck := rfl
@[simp] theorem State.onChannelLive_pending (s : State) (ch : ChannelNo) (f : ChannelLive → ChannelLive) : (s.onChannelLive ch f).pending = s.pending := rfl
@[simp] theorem State.onChannelLive_acceptance (s : State) (ch : ChannelNo) (f : ChannelLive → ChannelLive) : (s.onChannelLive ch f).vol.acceptance = s.vol.acceptance := rfl
@[simp] theorem State.onChannelLive_links (s : State) (ch : ChannelNo) (f : ChannelLive → ChannelLive) : (s.onChannelLive ch f).vol.links = s.vol.links := rfl
@[simp] theorem State.onChannelLive_queue (s : State) (ch : ChannelNo) (f : ChannelLive → ChannelLive) : (s.onChannelLive ch f).vol.queue = s.vol.queue := rfl
@[simp] theorem State.onChannelLive_queueLevel (s : State) (ch : ChannelNo) (f : ChannelLive → ChannelLive) : (s.onChannelLive ch f).vol.queueLevel = s.vol.queueLevel := rfl
@[simp] theorem State.onChannelLive_highArmed (s : State) (ch : ChannelNo) (f : ChannelLive → ChannelLive) : (s.onChannelLive ch f).vol.highArmed = s.vol.highArmed := rfl
@[simp] theorem State.onChannelLive_live (s : State) (ch : ChannelNo) (f : ChannelLive → ChannelLive) : (s.onChannelLive ch f).vol.live = s.vol.live := rfl
@[simp] theorem State.onChannelLive_plan (s : State) (ch : ChannelNo) (f : ChannelLive → ChannelLive) : (s.onChannelLive ch f).vol.plan = s.vol.plan := rfl
@[simp] theorem State.onChannelLive_livePending (s : State) (ch : ChannelNo) (f : ChannelLive → ChannelLive) : (s.onChannelLive ch f).vol.livePending = s.vol.livePending := rfl
@[simp] theorem State.onChannelLive_planPending (s : State) (ch : ChannelNo) (f : ChannelLive → ChannelLive) : (s.onChannelLive ch f).vol.planPending = s.vol.planPending := rfl
@[simp] theorem State.onChannelLive_running (s : State) (ch : ChannelNo) (f : ChannelLive → ChannelLive) : (s.onChannelLive ch f).vol.running = s.vol.running := rfl
@[simp] theorem State.onChannelLive_trials (s : State) (ch : ChannelNo) (f : ChannelLive → ChannelLive) : (s.onChannelLive ch f).vol.trials = s.vol.trials := rfl
@[simp] theorem State.onChannelLive_lru (s : State) (ch : ChannelNo) (f : ChannelLive → ChannelLive) : (s.onChannelLive ch f).vol.lru = s.vol.lru := rfl
@[simp] theorem State.onChannelLive_liveVerdict (s : State) (ch : ChannelNo) (f : ChannelLive → ChannelLive) : (s.onChannelLive ch f).vol.liveVerdict = s.vol.liveVerdict := rfl
@[simp] theorem State.onChannelLive_planVerdict (s : State) (ch : ChannelNo) (f : ChannelLive → ChannelLive) : (s.onChannelLive ch f).vol.planVerdict = s.vol.planVerdict := rfl
@[simp] theorem State.onChannelLive_capture (s : State) (ch : ChannelNo) (f : ChannelLive → ChannelLive) : (s.onChannelLive ch f).vol.capture = s.vol.capture := rfl
@[simp] theorem State.onChannelLive_supervisor (s : State) (ch : ChannelNo) (f : ChannelLive → ChannelLive) : (s.onChannelLive ch f).vol.supervisor = s.vol.supervisor := rfl
@[simp] theorem State.onChannelLive_cranes (s : State) (ch : ChannelNo) (f : ChannelLive → ChannelLive) : (s.onChannelLive ch f).vol.cranes = s.vol.cranes := rfl
@[simp] theorem State.onChannelLive_tallies (s : State) (ch : ChannelNo) (f : ChannelLive → ChannelLive) : (s.onChannelLive ch f).vol.tallies = s.vol.tallies := rfl
@[simp] theorem State.onChannelLive_accessFault (s : State) (ch : ChannelNo) (f : ChannelLive → ChannelLive) : (s.onChannelLive ch f).vol.accessFault = s.vol.accessFault := rfl
@[simp] theorem State.onChannelLive_ports (s : State) (ch : ChannelNo) (f : ChannelLive → ChannelLive) : (s.onChannelLive ch f).vol.ports = s.vol.ports := rfl

/-! ### onCrane -/
@[simp] theorem State.onCrane_cranes (s : State) (c : CraneNo) (f : CraneLive → CraneLive) :
    (s.onCrane c f).vol.cranes = updAt s.vol.cranes c f := rfl
@[simp] theorem State.onCrane_supply (s : State) (c : CraneNo) (f : CraneLive → CraneLive) : (s.onCrane c f).supply = s.supply := rfl
@[simp] theorem State.onCrane_resetHeld (s : State) (c : CraneNo) (f : CraneLive → CraneLive) : (s.onCrane c f).resetHeld = s.resetHeld := rfl
@[simp] theorem State.onCrane_checking (s : State) (c : CraneNo) (f : CraneLive → CraneLive) : (s.onCrane c f).checking = s.checking := rfl
@[simp] theorem State.onCrane_part (s : State) (c : CraneNo) (f : CraneLive → CraneLive) : (s.onCrane c f).part = s.part := rfl
@[simp] theorem State.onCrane_clock (s : State) (c : CraneNo) (f : CraneLive → CraneLive) : (s.onCrane c f).clock = s.clock := rfl
@[simp] theorem State.onCrane_strap (s : State) (c : CraneNo) (f : CraneLive → CraneLive) : (s.onCrane c f).strap = s.strap := rfl
@[simp] theorem State.onCrane_book (s : State) (c : CraneNo) (f : CraneLive → CraneLive) : (s.onCrane c f).book = s.book := rfl
@[simp] theorem State.onCrane_bookCheck (s : State) (c : CraneNo) (f : CraneLive → CraneLive) : (s.onCrane c f).bookCheck = s.bookCheck := rfl
@[simp] theorem State.onCrane_bookStatus (s : State) (c : CraneNo) (f : CraneLive → CraneLive) : (s.onCrane c f).bookStatus = s.bookStatus := rfl
@[simp] theorem State.onCrane_kept (s : State) (c : CraneNo) (f : CraneLive → CraneLive) : (s.onCrane c f).kept = s.kept := rfl
@[simp] theorem State.onCrane_keptCheck (s : State) (c : CraneNo) (f : CraneLive → CraneLive) : (s.onCrane c f).keptCheck = s.keptCheck := rfl
@[simp] theorem State.onCrane_pending (s : State) (c : CraneNo) (f : CraneLive → CraneLive) : (s.onCrane c f).pending = s.pending := rfl
@[simp] theorem State.onCrane_acceptance (s : State) (c : CraneNo) (f : CraneLive → CraneLive) : (s.onCrane c f).vol.acceptance = s.vol.acceptance := rfl
@[simp] theorem State.onCrane_links (s : State) (c : CraneNo) (f : CraneLive → CraneLive) : (s.onCrane c f).vol.links = s.vol.links := rfl
@[simp] theorem State.onCrane_queue (s : State) (c : CraneNo) (f : CraneLive → CraneLive) : (s.onCrane c f).vol.queue = s.vol.queue := rfl
@[simp] theorem State.onCrane_queueLevel (s : State) (c : CraneNo) (f : CraneLive → CraneLive) : (s.onCrane c f).vol.queueLevel = s.vol.queueLevel := rfl
@[simp] theorem State.onCrane_highArmed (s : State) (c : CraneNo) (f : CraneLive → CraneLive) : (s.onCrane c f).vol.highArmed = s.vol.highArmed := rfl
@[simp] theorem State.onCrane_channels (s : State) (c : CraneNo) (f : CraneLive → CraneLive) : (s.onCrane c f).vol.channels = s.vol.channels := rfl
@[simp] theorem State.onCrane_live (s : State) (c : CraneNo) (f : CraneLive → CraneLive) : (s.onCrane c f).vol.live = s.vol.live := rfl
@[simp] theorem State.onCrane_plan (s : State) (c : CraneNo) (f : CraneLive → CraneLive) : (s.onCrane c f).vol.plan = s.vol.plan := rfl
@[simp] theorem State.onCrane_livePending (s : State) (c : CraneNo) (f : CraneLive → CraneLive) : (s.onCrane c f).vol.livePending = s.vol.livePending := rfl
@[simp] theorem State.onCrane_planPending (s : State) (c : CraneNo) (f : CraneLive → CraneLive) : (s.onCrane c f).vol.planPending = s.vol.planPending := rfl
@[simp] theorem State.onCrane_running (s : State) (c : CraneNo) (f : CraneLive → CraneLive) : (s.onCrane c f).vol.running = s.vol.running := rfl
@[simp] theorem State.onCrane_trials (s : State) (c : CraneNo) (f : CraneLive → CraneLive) : (s.onCrane c f).vol.trials = s.vol.trials := rfl
@[simp] theorem State.onCrane_lru (s : State) (c : CraneNo) (f : CraneLive → CraneLive) : (s.onCrane c f).vol.lru = s.vol.lru := rfl
@[simp] theorem State.onCrane_liveVerdict (s : State) (c : CraneNo) (f : CraneLive → CraneLive) : (s.onCrane c f).vol.liveVerdict = s.vol.liveVerdict := rfl
@[simp] theorem State.onCrane_planVerdict (s : State) (c : CraneNo) (f : CraneLive → CraneLive) : (s.onCrane c f).vol.planVerdict = s.vol.planVerdict := rfl
@[simp] theorem State.onCrane_capture (s : State) (c : CraneNo) (f : CraneLive → CraneLive) : (s.onCrane c f).vol.capture = s.vol.capture := rfl
@[simp] theorem State.onCrane_supervisor (s : State) (c : CraneNo) (f : CraneLive → CraneLive) : (s.onCrane c f).vol.supervisor = s.vol.supervisor := rfl
@[simp] theorem State.onCrane_tallies (s : State) (c : CraneNo) (f : CraneLive → CraneLive) : (s.onCrane c f).vol.tallies = s.vol.tallies := rfl
@[simp] theorem State.onCrane_accessFault (s : State) (c : CraneNo) (f : CraneLive → CraneLive) : (s.onCrane c f).vol.accessFault = s.vol.accessFault := rfl
@[simp] theorem State.onCrane_ports (s : State) (c : CraneNo) (f : CraneLive → CraneLive) : (s.onCrane c f).vol.ports = s.vol.ports := rfl

/-! ### onPort -/
@[simp] theorem State.onPort_ports (s : State) (p : Port) (f : PortState → PortState) :
    (s.onPort p f).vol.ports = updAt s.vol.ports p f := rfl
@[simp] theorem State.onPort_supply (s : State) (p : Port) (f : PortState → PortState) : (s.onPort p f).supply = s.supply := rfl
@[simp] theorem State.onPort_resetHeld (s : State) (p : Port) (f : PortState → PortState) : (s.onPort p f).resetHeld = s.resetHeld := rfl
@[simp] theorem State.onPort_checking (s : State) (p : Port) (f : PortState → PortState) : (s.onPort p f).checking = s.checking := rfl
@[simp] theorem State.onPort_part (s : State) (p : Port) (f : PortState → PortState) : (s.onPort p f).part = s.part := rfl
@[simp] theorem State.onPort_clock (s : State) (p : Port) (f : PortState → PortState) : (s.onPort p f).clock = s.clock := rfl
@[simp] theorem State.onPort_strap (s : State) (p : Port) (f : PortState → PortState) : (s.onPort p f).strap = s.strap := rfl
@[simp] theorem State.onPort_book (s : State) (p : Port) (f : PortState → PortState) : (s.onPort p f).book = s.book := rfl
@[simp] theorem State.onPort_bookCheck (s : State) (p : Port) (f : PortState → PortState) : (s.onPort p f).bookCheck = s.bookCheck := rfl
@[simp] theorem State.onPort_bookStatus (s : State) (p : Port) (f : PortState → PortState) : (s.onPort p f).bookStatus = s.bookStatus := rfl
@[simp] theorem State.onPort_kept (s : State) (p : Port) (f : PortState → PortState) : (s.onPort p f).kept = s.kept := rfl
@[simp] theorem State.onPort_keptCheck (s : State) (p : Port) (f : PortState → PortState) : (s.onPort p f).keptCheck = s.keptCheck := rfl
@[simp] theorem State.onPort_pending (s : State) (p : Port) (f : PortState → PortState) : (s.onPort p f).pending = s.pending := rfl
@[simp] theorem State.onPort_acceptance (s : State) (p : Port) (f : PortState → PortState) : (s.onPort p f).vol.acceptance = s.vol.acceptance := rfl
@[simp] theorem State.onPort_links (s : State) (p : Port) (f : PortState → PortState) : (s.onPort p f).vol.links = s.vol.links := rfl
@[simp] theorem State.onPort_queue (s : State) (p : Port) (f : PortState → PortState) : (s.onPort p f).vol.queue = s.vol.queue := rfl
@[simp] theorem State.onPort_queueLevel (s : State) (p : Port) (f : PortState → PortState) : (s.onPort p f).vol.queueLevel = s.vol.queueLevel := rfl
@[simp] theorem State.onPort_highArmed (s : State) (p : Port) (f : PortState → PortState) : (s.onPort p f).vol.highArmed = s.vol.highArmed := rfl
@[simp] theorem State.onPort_channels (s : State) (p : Port) (f : PortState → PortState) : (s.onPort p f).vol.channels = s.vol.channels := rfl
@[simp] theorem State.onPort_live (s : State) (p : Port) (f : PortState → PortState) : (s.onPort p f).vol.live = s.vol.live := rfl
@[simp] theorem State.onPort_plan (s : State) (p : Port) (f : PortState → PortState) : (s.onPort p f).vol.plan = s.vol.plan := rfl
@[simp] theorem State.onPort_livePending (s : State) (p : Port) (f : PortState → PortState) : (s.onPort p f).vol.livePending = s.vol.livePending := rfl
@[simp] theorem State.onPort_planPending (s : State) (p : Port) (f : PortState → PortState) : (s.onPort p f).vol.planPending = s.vol.planPending := rfl
@[simp] theorem State.onPort_running (s : State) (p : Port) (f : PortState → PortState) : (s.onPort p f).vol.running = s.vol.running := rfl
@[simp] theorem State.onPort_trials (s : State) (p : Port) (f : PortState → PortState) : (s.onPort p f).vol.trials = s.vol.trials := rfl
@[simp] theorem State.onPort_lru (s : State) (p : Port) (f : PortState → PortState) : (s.onPort p f).vol.lru = s.vol.lru := rfl
@[simp] theorem State.onPort_liveVerdict (s : State) (p : Port) (f : PortState → PortState) : (s.onPort p f).vol.liveVerdict = s.vol.liveVerdict := rfl
@[simp] theorem State.onPort_planVerdict (s : State) (p : Port) (f : PortState → PortState) : (s.onPort p f).vol.planVerdict = s.vol.planVerdict := rfl
@[simp] theorem State.onPort_capture (s : State) (p : Port) (f : PortState → PortState) : (s.onPort p f).vol.capture = s.vol.capture := rfl
@[simp] theorem State.onPort_supervisor (s : State) (p : Port) (f : PortState → PortState) : (s.onPort p f).vol.supervisor = s.vol.supervisor := rfl
@[simp] theorem State.onPort_cranes (s : State) (p : Port) (f : PortState → PortState) : (s.onPort p f).vol.cranes = s.vol.cranes := rfl
@[simp] theorem State.onPort_tallies (s : State) (p : Port) (f : PortState → PortState) : (s.onPort p f).vol.tallies = s.vol.tallies := rfl
@[simp] theorem State.onPort_accessFault (s : State) (p : Port) (f : PortState → PortState) : (s.onPort p f).vol.accessFault = s.vol.accessFault := rfl

/-! ### pumpAll -/
@[simp] theorem State.pumpAll_ports (s : State) :
    s.pumpAll.vol.ports = s.vol.ports.map PortState.pump := rfl
@[simp] theorem State.pumpAll_supply (s : State) : (s.pumpAll).supply = s.supply := rfl
@[simp] theorem State.pumpAll_resetHeld (s : State) : (s.pumpAll).resetHeld = s.resetHeld := rfl
@[simp] theorem State.pumpAll_checking (s : State) : (s.pumpAll).checking = s.checking := rfl
@[simp] theorem State.pumpAll_part (s : State) : (s.pumpAll).part = s.part := rfl
@[simp] theorem State.pumpAll_clock (s : State) : (s.pumpAll).clock = s.clock := rfl
@[simp] theorem State.pumpAll_strap (s : State) : (s.pumpAll).strap = s.strap := rfl
@[simp] theorem State.pumpAll_book (s : State) : (s.pumpAll).book = s.book := rfl
@[simp] theorem State.pumpAll_bookCheck (s : State) : (s.pumpAll).bookCheck = s.bookCheck := rfl
@[simp] theorem State.pumpAll_bookStatus (s : State) : (s.pumpAll).bookStatus = s.bookStatus := rfl
@[simp] theorem State.pumpAll_kept (s : State) : (s.pumpAll).kept = s.kept := rfl
@[simp] theorem State.pumpAll_keptCheck (s : State) : (s.pumpAll).keptCheck = s.keptCheck := rfl
@[simp] theorem State.pumpAll_pending (s : State) : (s.pumpAll).pending = s.pending := rfl
@[simp] theorem State.pumpAll_acceptance (s : State) : (s.pumpAll).vol.acceptance = s.vol.acceptance := rfl
@[simp] theorem State.pumpAll_links (s : State) : (s.pumpAll).vol.links = s.vol.links := rfl
@[simp] theorem State.pumpAll_queue (s : State) : (s.pumpAll).vol.queue = s.vol.queue := rfl
@[simp] theorem State.pumpAll_queueLevel (s : State) : (s.pumpAll).vol.queueLevel = s.vol.queueLevel := rfl
@[simp] theorem State.pumpAll_highArmed (s : State) : (s.pumpAll).vol.highArmed = s.vol.highArmed := rfl
@[simp] theorem State.pumpAll_channels (s : State) : (s.pumpAll).vol.channels = s.vol.channels := rfl
@[simp] theorem State.pumpAll_live (s : State) : (s.pumpAll).vol.live = s.vol.live := rfl
@[simp] theorem State.pumpAll_plan (s : State) : (s.pumpAll).vol.plan = s.vol.plan := rfl
@[simp] theorem State.pumpAll_livePending (s : State) : (s.pumpAll).vol.livePending = s.vol.livePending := rfl
@[simp] theorem State.pumpAll_planPending (s : State) : (s.pumpAll).vol.planPending = s.vol.planPending := rfl
@[simp] theorem State.pumpAll_running (s : State) : (s.pumpAll).vol.running = s.vol.running := rfl
@[simp] theorem State.pumpAll_trials (s : State) : (s.pumpAll).vol.trials = s.vol.trials := rfl
@[simp] theorem State.pumpAll_lru (s : State) : (s.pumpAll).vol.lru = s.vol.lru := rfl
@[simp] theorem State.pumpAll_liveVerdict (s : State) : (s.pumpAll).vol.liveVerdict = s.vol.liveVerdict := rfl
@[simp] theorem State.pumpAll_planVerdict (s : State) : (s.pumpAll).vol.planVerdict = s.vol.planVerdict := rfl
@[simp] theorem State.pumpAll_capture (s : State) : (s.pumpAll).vol.capture = s.vol.capture := rfl
@[simp] theorem State.pumpAll_supervisor (s : State) : (s.pumpAll).vol.supervisor = s.vol.supervisor := rfl
@[simp] theorem State.pumpAll_cranes (s : State) : (s.pumpAll).vol.cranes = s.vol.cranes := rfl
@[simp] theorem State.pumpAll_tallies (s : State) : (s.pumpAll).vol.tallies = s.vol.tallies := rfl
@[simp] theorem State.pumpAll_accessFault (s : State) : (s.pumpAll).vol.accessFault = s.vol.accessFault := rfl

/-! ### setLink -/
@[simp] theorem State.setLink_links (s : State) (g : Group) (l : Option Link) :
    (s.setLink g l).vol.links = s.vol.links.set g.val l g.isLt := rfl
@[simp] theorem State.setLink_supply (s : State) (g : Group) (l : Option Link) : (s.setLink g l).supply = s.supply := rfl
@[simp] theorem State.setLink_resetHeld (s : State) (g : Group) (l : Option Link) : (s.setLink g l).resetHeld = s.resetHeld := rfl
@[simp] theorem State.setLink_checking (s : State) (g : Group) (l : Option Link) : (s.setLink g l).checking = s.checking := rfl
@[simp] theorem State.setLink_part (s : State) (g : Group) (l : Option Link) : (s.setLink g l).part = s.part := rfl
@[simp] theorem State.setLink_clock (s : State) (g : Group) (l : Option Link) : (s.setLink g l).clock = s.clock := rfl
@[simp] theorem State.setLink_strap (s : State) (g : Group) (l : Option Link) : (s.setLink g l).strap = s.strap := rfl
@[simp] theorem State.setLink_book (s : State) (g : Group) (l : Option Link) : (s.setLink g l).book = s.book := rfl
@[simp] theorem State.setLink_bookCheck (s : State) (g : Group) (l : Option Link) : (s.setLink g l).bookCheck = s.bookCheck := rfl
@[simp] theorem State.setLink_bookStatus (s : State) (g : Group) (l : Option Link) : (s.setLink g l).bookStatus = s.bookStatus := rfl
@[simp] theorem State.setLink_kept (s : State) (g : Group) (l : Option Link) : (s.setLink g l).kept = s.kept := rfl
@[simp] theorem State.setLink_keptCheck (s : State) (g : Group) (l : Option Link) : (s.setLink g l).keptCheck = s.keptCheck := rfl
@[simp] theorem State.setLink_pending (s : State) (g : Group) (l : Option Link) : (s.setLink g l).pending = s.pending := rfl
@[simp] theorem State.setLink_acceptance (s : State) (g : Group) (l : Option Link) : (s.setLink g l).vol.acceptance = s.vol.acceptance := rfl
@[simp] theorem State.setLink_queue (s : State) (g : Group) (l : Option Link) : (s.setLink g l).vol.queue = s.vol.queue := rfl
@[simp] theorem State.setLink_queueLevel (s : State) (g : Group) (l : Option Link) : (s.setLink g l).vol.queueLevel = s.vol.queueLevel := rfl
@[simp] theorem State.setLink_highArmed (s : State) (g : Group) (l : Option Link) : (s.setLink g l).vol.highArmed = s.vol.highArmed := rfl
@[simp] theorem State.setLink_channels (s : State) (g : Group) (l : Option Link) : (s.setLink g l).vol.channels = s.vol.channels := rfl
@[simp] theorem State.setLink_live (s : State) (g : Group) (l : Option Link) : (s.setLink g l).vol.live = s.vol.live := rfl
@[simp] theorem State.setLink_plan (s : State) (g : Group) (l : Option Link) : (s.setLink g l).vol.plan = s.vol.plan := rfl
@[simp] theorem State.setLink_livePending (s : State) (g : Group) (l : Option Link) : (s.setLink g l).vol.livePending = s.vol.livePending := rfl
@[simp] theorem State.setLink_planPending (s : State) (g : Group) (l : Option Link) : (s.setLink g l).vol.planPending = s.vol.planPending := rfl
@[simp] theorem State.setLink_running (s : State) (g : Group) (l : Option Link) : (s.setLink g l).vol.running = s.vol.running := rfl
@[simp] theorem State.setLink_trials (s : State) (g : Group) (l : Option Link) : (s.setLink g l).vol.trials = s.vol.trials := rfl
@[simp] theorem State.setLink_lru (s : State) (g : Group) (l : Option Link) : (s.setLink g l).vol.lru = s.vol.lru := rfl
@[simp] theorem State.setLink_liveVerdict (s : State) (g : Group) (l : Option Link) : (s.setLink g l).vol.liveVerdict = s.vol.liveVerdict := rfl
@[simp] theorem State.setLink_planVerdict (s : State) (g : Group) (l : Option Link) : (s.setLink g l).vol.planVerdict = s.vol.planVerdict := rfl
@[simp] theorem State.setLink_capture (s : State) (g : Group) (l : Option Link) : (s.setLink g l).vol.capture = s.vol.capture := rfl
@[simp] theorem State.setLink_supervisor (s : State) (g : Group) (l : Option Link) : (s.setLink g l).vol.supervisor = s.vol.supervisor := rfl
@[simp] theorem State.setLink_cranes (s : State) (g : Group) (l : Option Link) : (s.setLink g l).vol.cranes = s.vol.cranes := rfl
@[simp] theorem State.setLink_tallies (s : State) (g : Group) (l : Option Link) : (s.setLink g l).vol.tallies = s.vol.tallies := rfl
@[simp] theorem State.setLink_accessFault (s : State) (g : Group) (l : Option Link) : (s.setLink g l).vol.accessFault = s.vol.accessFault := rfl
@[simp] theorem State.setLink_ports (s : State) (g : Group) (l : Option Link) : (s.setLink g l).vol.ports = s.vol.ports := rfl

/-! ### breakLinks -/
@[simp] theorem State.breakLinks_links (s : State) (test : Link → Bool) :
    (s.breakLinks test).vol.links = s.vol.links.map fun o => o.bind fun l => if test l then none else some l := rfl
@[simp] theorem State.breakLinks_supply (s : State) (test : Link → Bool) : (s.breakLinks test).supply = s.supply := rfl
@[simp] theorem State.breakLinks_resetHeld (s : State) (test : Link → Bool) : (s.breakLinks test).resetHeld = s.resetHeld := rfl
@[simp] theorem State.breakLinks_checking (s : State) (test : Link → Bool) : (s.breakLinks test).checking = s.checking := rfl
@[simp] theorem State.breakLinks_part (s : State) (test : Link → Bool) : (s.breakLinks test).part = s.part := rfl
@[simp] theorem State.breakLinks_clock (s : State) (test : Link → Bool) : (s.breakLinks test).clock = s.clock := rfl
@[simp] theorem State.breakLinks_strap (s : State) (test : Link → Bool) : (s.breakLinks test).strap = s.strap := rfl
@[simp] theorem State.breakLinks_book (s : State) (test : Link → Bool) : (s.breakLinks test).book = s.book := rfl
@[simp] theorem State.breakLinks_bookCheck (s : State) (test : Link → Bool) : (s.breakLinks test).bookCheck = s.bookCheck := rfl
@[simp] theorem State.breakLinks_bookStatus (s : State) (test : Link → Bool) : (s.breakLinks test).bookStatus = s.bookStatus := rfl
@[simp] theorem State.breakLinks_kept (s : State) (test : Link → Bool) : (s.breakLinks test).kept = s.kept := rfl
@[simp] theorem State.breakLinks_keptCheck (s : State) (test : Link → Bool) : (s.breakLinks test).keptCheck = s.keptCheck := rfl
@[simp] theorem State.breakLinks_pending (s : State) (test : Link → Bool) : (s.breakLinks test).pending = s.pending := rfl
@[simp] theorem State.breakLinks_acceptance (s : State) (test : Link → Bool) : (s.breakLinks test).vol.acceptance = s.vol.acceptance := rfl
@[simp] theorem State.breakLinks_queue (s : State) (test : Link → Bool) : (s.breakLinks test).vol.queue = s.vol.queue := rfl
@[simp] theorem State.breakLinks_queueLevel (s : State) (test : Link → Bool) : (s.breakLinks test).vol.queueLevel = s.vol.queueLevel := rfl
@[simp] theorem State.breakLinks_highArmed (s : State) (test : Link → Bool) : (s.breakLinks test).vol.highArmed = s.vol.highArmed := rfl
@[simp] theorem State.breakLinks_channels (s : State) (test : Link → Bool) : (s.breakLinks test).vol.channels = s.vol.channels := rfl
@[simp] theorem State.breakLinks_live (s : State) (test : Link → Bool) : (s.breakLinks test).vol.live = s.vol.live := rfl
@[simp] theorem State.breakLinks_plan (s : State) (test : Link → Bool) : (s.breakLinks test).vol.plan = s.vol.plan := rfl
@[simp] theorem State.breakLinks_livePending (s : State) (test : Link → Bool) : (s.breakLinks test).vol.livePending = s.vol.livePending := rfl
@[simp] theorem State.breakLinks_planPending (s : State) (test : Link → Bool) : (s.breakLinks test).vol.planPending = s.vol.planPending := rfl
@[simp] theorem State.breakLinks_running (s : State) (test : Link → Bool) : (s.breakLinks test).vol.running = s.vol.running := rfl
@[simp] theorem State.breakLinks_trials (s : State) (test : Link → Bool) : (s.breakLinks test).vol.trials = s.vol.trials := rfl
@[simp] theorem State.breakLinks_lru (s : State) (test : Link → Bool) : (s.breakLinks test).vol.lru = s.vol.lru := rfl
@[simp] theorem State.breakLinks_liveVerdict (s : State) (test : Link → Bool) : (s.breakLinks test).vol.liveVerdict = s.vol.liveVerdict := rfl
@[simp] theorem State.breakLinks_planVerdict (s : State) (test : Link → Bool) : (s.breakLinks test).vol.planVerdict = s.vol.planVerdict := rfl
@[simp] theorem State.breakLinks_capture (s : State) (test : Link → Bool) : (s.breakLinks test).vol.capture = s.vol.capture := rfl
@[simp] theorem State.breakLinks_supervisor (s : State) (test : Link → Bool) : (s.breakLinks test).vol.supervisor = s.vol.supervisor := rfl
@[simp] theorem State.breakLinks_cranes (s : State) (test : Link → Bool) : (s.breakLinks test).vol.cranes = s.vol.cranes := rfl
@[simp] theorem State.breakLinks_tallies (s : State) (test : Link → Bool) : (s.breakLinks test).vol.tallies = s.vol.tallies := rfl
@[simp] theorem State.breakLinks_accessFault (s : State) (test : Link → Bool) : (s.breakLinks test).vol.accessFault = s.vol.accessFault := rfl
@[simp] theorem State.breakLinks_ports (s : State) (test : Link → Bool) : (s.breakLinks test).vol.ports = s.vol.ports := rfl

/-! ### pendLive -/
@[simp] theorem State.pendLive_livePending (s : State) :
    s.pendLive.vol.livePending = true := rfl
@[simp] theorem State.pendLive_supply (s : State) : (s.pendLive).supply = s.supply := rfl
@[simp] theorem State.pendLive_resetHeld (s : State) : (s.pendLive).resetHeld = s.resetHeld := rfl
@[simp] theorem State.pendLive_checking (s : State) : (s.pendLive).checking = s.checking := rfl
@[simp] theorem State.pendLive_part (s : State) : (s.pendLive).part = s.part := rfl
@[simp] theorem State.pendLive_clock (s : State) : (s.pendLive).clock = s.clock := rfl
@[simp] theorem State.pendLive_strap (s : State) : (s.pendLive).strap = s.strap := rfl
@[simp] theorem State.pendLive_book (s : State) : (s.pendLive).book = s.book := rfl
@[simp] theorem State.pendLive_bookCheck (s : State) : (s.pendLive).bookCheck = s.bookCheck := rfl
@[simp] theorem State.pendLive_bookStatus (s : State) : (s.pendLive).bookStatus = s.bookStatus := rfl
@[simp] theorem State.pendLive_kept (s : State) : (s.pendLive).kept = s.kept := rfl
@[simp] theorem State.pendLive_keptCheck (s : State) : (s.pendLive).keptCheck = s.keptCheck := rfl
@[simp] theorem State.pendLive_pending (s : State) : (s.pendLive).pending = s.pending := rfl
@[simp] theorem State.pendLive_acceptance (s : State) : (s.pendLive).vol.acceptance = s.vol.acceptance := rfl
@[simp] theorem State.pendLive_links (s : State) : (s.pendLive).vol.links = s.vol.links := rfl
@[simp] theorem State.pendLive_queue (s : State) : (s.pendLive).vol.queue = s.vol.queue := rfl
@[simp] theorem State.pendLive_queueLevel (s : State) : (s.pendLive).vol.queueLevel = s.vol.queueLevel := rfl
@[simp] theorem State.pendLive_highArmed (s : State) : (s.pendLive).vol.highArmed = s.vol.highArmed := rfl
@[simp] theorem State.pendLive_channels (s : State) : (s.pendLive).vol.channels = s.vol.channels := rfl
@[simp] theorem State.pendLive_live (s : State) : (s.pendLive).vol.live = s.vol.live := rfl
@[simp] theorem State.pendLive_plan (s : State) : (s.pendLive).vol.plan = s.vol.plan := rfl
@[simp] theorem State.pendLive_planPending (s : State) : (s.pendLive).vol.planPending = s.vol.planPending := rfl
@[simp] theorem State.pendLive_running (s : State) : (s.pendLive).vol.running = s.vol.running := rfl
@[simp] theorem State.pendLive_trials (s : State) : (s.pendLive).vol.trials = s.vol.trials := rfl
@[simp] theorem State.pendLive_lru (s : State) : (s.pendLive).vol.lru = s.vol.lru := rfl
@[simp] theorem State.pendLive_liveVerdict (s : State) : (s.pendLive).vol.liveVerdict = s.vol.liveVerdict := rfl
@[simp] theorem State.pendLive_planVerdict (s : State) : (s.pendLive).vol.planVerdict = s.vol.planVerdict := rfl
@[simp] theorem State.pendLive_capture (s : State) : (s.pendLive).vol.capture = s.vol.capture := rfl
@[simp] theorem State.pendLive_supervisor (s : State) : (s.pendLive).vol.supervisor = s.vol.supervisor := rfl
@[simp] theorem State.pendLive_cranes (s : State) : (s.pendLive).vol.cranes = s.vol.cranes := rfl
@[simp] theorem State.pendLive_tallies (s : State) : (s.pendLive).vol.tallies = s.vol.tallies := rfl
@[simp] theorem State.pendLive_accessFault (s : State) : (s.pendLive).vol.accessFault = s.vol.accessFault := rfl
@[simp] theorem State.pendLive_ports (s : State) : (s.pendLive).vol.ports = s.vol.ports := rfl

/-! ### pendPlan -/
@[simp] theorem State.pendPlan_planPending (s : State) :
    s.pendPlan.vol.planPending = true := rfl
@[simp] theorem State.pendPlan_supply (s : State) : (s.pendPlan).supply = s.supply := rfl
@[simp] theorem State.pendPlan_resetHeld (s : State) : (s.pendPlan).resetHeld = s.resetHeld := rfl
@[simp] theorem State.pendPlan_checking (s : State) : (s.pendPlan).checking = s.checking := rfl
@[simp] theorem State.pendPlan_part (s : State) : (s.pendPlan).part = s.part := rfl
@[simp] theorem State.pendPlan_clock (s : State) : (s.pendPlan).clock = s.clock := rfl
@[simp] theorem State.pendPlan_strap (s : State) : (s.pendPlan).strap = s.strap := rfl
@[simp] theorem State.pendPlan_book (s : State) : (s.pendPlan).book = s.book := rfl
@[simp] theorem State.pendPlan_bookCheck (s : State) : (s.pendPlan).bookCheck = s.bookCheck := rfl
@[simp] theorem State.pendPlan_bookStatus (s : State) : (s.pendPlan).bookStatus = s.bookStatus := rfl
@[simp] theorem State.pendPlan_kept (s : State) : (s.pendPlan).kept = s.kept := rfl
@[simp] theorem State.pendPlan_keptCheck (s : State) : (s.pendPlan).keptCheck = s.keptCheck := rfl
@[simp] theorem State.pendPlan_pending (s : State) : (s.pendPlan).pending = s.pending := rfl
@[simp] theorem State.pendPlan_acceptance (s : State) : (s.pendPlan).vol.acceptance = s.vol.acceptance := rfl
@[simp] theorem State.pendPlan_links (s : State) : (s.pendPlan).vol.links = s.vol.links := rfl
@[simp] theorem State.pendPlan_queue (s : State) : (s.pendPlan).vol.queue = s.vol.queue := rfl
@[simp] theorem State.pendPlan_queueLevel (s : State) : (s.pendPlan).vol.queueLevel = s.vol.queueLevel := rfl
@[simp] theorem State.pendPlan_highArmed (s : State) : (s.pendPlan).vol.highArmed = s.vol.highArmed := rfl
@[simp] theorem State.pendPlan_channels (s : State) : (s.pendPlan).vol.channels = s.vol.channels := rfl
@[simp] theorem State.pendPlan_live (s : State) : (s.pendPlan).vol.live = s.vol.live := rfl
@[simp] theorem State.pendPlan_plan (s : State) : (s.pendPlan).vol.plan = s.vol.plan := rfl
@[simp] theorem State.pendPlan_livePending (s : State) : (s.pendPlan).vol.livePending = s.vol.livePending := rfl
@[simp] theorem State.pendPlan_running (s : State) : (s.pendPlan).vol.running = s.vol.running := rfl
@[simp] theorem State.pendPlan_trials (s : State) : (s.pendPlan).vol.trials = s.vol.trials := rfl
@[simp] theorem State.pendPlan_lru (s : State) : (s.pendPlan).vol.lru = s.vol.lru := rfl
@[simp] theorem State.pendPlan_liveVerdict (s : State) : (s.pendPlan).vol.liveVerdict = s.vol.liveVerdict := rfl
@[simp] theorem State.pendPlan_planVerdict (s : State) : (s.pendPlan).vol.planVerdict = s.vol.planVerdict := rfl
@[simp] theorem State.pendPlan_capture (s : State) : (s.pendPlan).vol.capture = s.vol.capture := rfl
@[simp] theorem State.pendPlan_supervisor (s : State) : (s.pendPlan).vol.supervisor = s.vol.supervisor := rfl
@[simp] theorem State.pendPlan_cranes (s : State) : (s.pendPlan).vol.cranes = s.vol.cranes := rfl
@[simp] theorem State.pendPlan_tallies (s : State) : (s.pendPlan).vol.tallies = s.vol.tallies := rfl
@[simp] theorem State.pendPlan_accessFault (s : State) : (s.pendPlan).vol.accessFault = s.vol.accessFault := rfl
@[simp] theorem State.pendPlan_ports (s : State) : (s.pendPlan).vol.ports = s.vol.ports := rfl

/-! ### endTrial -/
@[simp] theorem State.endTrial_trials (s : State) (p : Port) :
    (s.endTrial p).vol.trials = s.vol.trials.set p.val none p.isLt := rfl
@[simp] theorem State.endTrial_running (s : State) (p : Port) :
    (s.endTrial p).vol.running = none := rfl
@[simp] theorem State.endTrial_supply (s : State) (p : Port) : (s.endTrial p).supply = s.supply := rfl
@[simp] theorem State.endTrial_resetHeld (s : State) (p : Port) : (s.endTrial p).resetHeld = s.resetHeld := rfl
@[simp] theorem State.endTrial_checking (s : State) (p : Port) : (s.endTrial p).checking = s.checking := rfl
@[simp] theorem State.endTrial_part (s : State) (p : Port) : (s.endTrial p).part = s.part := rfl
@[simp] theorem State.endTrial_clock (s : State) (p : Port) : (s.endTrial p).clock = s.clock := rfl
@[simp] theorem State.endTrial_strap (s : State) (p : Port) : (s.endTrial p).strap = s.strap := rfl
@[simp] theorem State.endTrial_book (s : State) (p : Port) : (s.endTrial p).book = s.book := rfl
@[simp] theorem State.endTrial_bookCheck (s : State) (p : Port) : (s.endTrial p).bookCheck = s.bookCheck := rfl
@[simp] theorem State.endTrial_bookStatus (s : State) (p : Port) : (s.endTrial p).bookStatus = s.bookStatus := rfl
@[simp] theorem State.endTrial_kept (s : State) (p : Port) : (s.endTrial p).kept = s.kept := rfl
@[simp] theorem State.endTrial_keptCheck (s : State) (p : Port) : (s.endTrial p).keptCheck = s.keptCheck := rfl
@[simp] theorem State.endTrial_pending (s : State) (p : Port) : (s.endTrial p).pending = s.pending := rfl
@[simp] theorem State.endTrial_acceptance (s : State) (p : Port) : (s.endTrial p).vol.acceptance = s.vol.acceptance := rfl
@[simp] theorem State.endTrial_links (s : State) (p : Port) : (s.endTrial p).vol.links = s.vol.links := rfl
@[simp] theorem State.endTrial_queue (s : State) (p : Port) : (s.endTrial p).vol.queue = s.vol.queue := rfl
@[simp] theorem State.endTrial_queueLevel (s : State) (p : Port) : (s.endTrial p).vol.queueLevel = s.vol.queueLevel := rfl
@[simp] theorem State.endTrial_highArmed (s : State) (p : Port) : (s.endTrial p).vol.highArmed = s.vol.highArmed := rfl
@[simp] theorem State.endTrial_channels (s : State) (p : Port) : (s.endTrial p).vol.channels = s.vol.channels := rfl
@[simp] theorem State.endTrial_live (s : State) (p : Port) : (s.endTrial p).vol.live = s.vol.live := rfl
@[simp] theorem State.endTrial_plan (s : State) (p : Port) : (s.endTrial p).vol.plan = s.vol.plan := rfl
@[simp] theorem State.endTrial_livePending (s : State) (p : Port) : (s.endTrial p).vol.livePending = s.vol.livePending := rfl
@[simp] theorem State.endTrial_planPending (s : State) (p : Port) : (s.endTrial p).vol.planPending = s.vol.planPending := rfl
@[simp] theorem State.endTrial_lru (s : State) (p : Port) : (s.endTrial p).vol.lru = s.vol.lru := rfl
@[simp] theorem State.endTrial_liveVerdict (s : State) (p : Port) : (s.endTrial p).vol.liveVerdict = s.vol.liveVerdict := rfl
@[simp] theorem State.endTrial_planVerdict (s : State) (p : Port) : (s.endTrial p).vol.planVerdict = s.vol.planVerdict := rfl
@[simp] theorem State.endTrial_capture (s : State) (p : Port) : (s.endTrial p).vol.capture = s.vol.capture := rfl
@[simp] theorem State.endTrial_supervisor (s : State) (p : Port) : (s.endTrial p).vol.supervisor = s.vol.supervisor := rfl
@[simp] theorem State.endTrial_cranes (s : State) (p : Port) : (s.endTrial p).vol.cranes = s.vol.cranes := rfl
@[simp] theorem State.endTrial_tallies (s : State) (p : Port) : (s.endTrial p).vol.tallies = s.vol.tallies := rfl
@[simp] theorem State.endTrial_accessFault (s : State) (p : Port) : (s.endTrial p).vol.accessFault = s.vol.accessFault := rfl
@[simp] theorem State.endTrial_ports (s : State) (p : Port) : (s.endTrial p).vol.ports = s.vol.ports := rfl

/-! ### accumulate -/
@[simp] theorem State.accumulate_live (s old : State) (items : List Item) :
    (s.accumulate old items).vol.live = shiftSums s.vol.live (items.map old.itemLive) (items.map s.itemLive) := rfl
@[simp] theorem State.accumulate_plan (s old : State) (items : List Item) :
    (s.accumulate old items).vol.plan = shiftSums s.vol.plan (items.map old.itemPlan) (items.map s.itemPlan) := rfl
@[simp] theorem State.accumulate_supply (s old : State) (items : List Item) : (s.accumulate old items).supply = s.supply := rfl
@[simp] theorem State.accumulate_resetHeld (s old : State) (items : List Item) : (s.accumulate old items).resetHeld = s.resetHeld := rfl
@[simp] theorem State.accumulate_checking (s old : State) (items : List Item) : (s.accumulate old items).checking = s.checking := rfl
@[simp] theorem State.accumulate_part (s old : State) (items : List Item) : (s.accumulate old items).part = s.part := rfl
@[simp] theorem State.accumulate_clock (s old : State) (items : List Item) : (s.accumulate old items).clock = s.clock := rfl
@[simp] theorem State.accumulate_strap (s old : State) (items : List Item) : (s.accumulate old items).strap = s.strap := rfl
@[simp] theorem State.accumulate_book (s old : State) (items : List Item) : (s.accumulate old items).book = s.book := rfl
@[simp] theorem State.accumulate_bookCheck (s old : State) (items : List Item) : (s.accumulate old items).bookCheck = s.bookCheck := rfl
@[simp] theorem State.accumulate_bookStatus (s old : State) (items : List Item) : (s.accumulate old items).bookStatus = s.bookStatus := rfl
@[simp] theorem State.accumulate_kept (s old : State) (items : List Item) : (s.accumulate old items).kept = s.kept := rfl
@[simp] theorem State.accumulate_keptCheck (s old : State) (items : List Item) : (s.accumulate old items).keptCheck = s.keptCheck := rfl
@[simp] theorem State.accumulate_pending (s old : State) (items : List Item) : (s.accumulate old items).pending = s.pending := rfl
@[simp] theorem State.accumulate_acceptance (s old : State) (items : List Item) : (s.accumulate old items).vol.acceptance = s.vol.acceptance := rfl
@[simp] theorem State.accumulate_links (s old : State) (items : List Item) : (s.accumulate old items).vol.links = s.vol.links := rfl
@[simp] theorem State.accumulate_queue (s old : State) (items : List Item) : (s.accumulate old items).vol.queue = s.vol.queue := rfl
@[simp] theorem State.accumulate_queueLevel (s old : State) (items : List Item) : (s.accumulate old items).vol.queueLevel = s.vol.queueLevel := rfl
@[simp] theorem State.accumulate_highArmed (s old : State) (items : List Item) : (s.accumulate old items).vol.highArmed = s.vol.highArmed := rfl
@[simp] theorem State.accumulate_channels (s old : State) (items : List Item) : (s.accumulate old items).vol.channels = s.vol.channels := rfl
@[simp] theorem State.accumulate_running (s old : State) (items : List Item) : (s.accumulate old items).vol.running = s.vol.running := rfl
@[simp] theorem State.accumulate_trials (s old : State) (items : List Item) : (s.accumulate old items).vol.trials = s.vol.trials := rfl
@[simp] theorem State.accumulate_lru (s old : State) (items : List Item) : (s.accumulate old items).vol.lru = s.vol.lru := rfl
@[simp] theorem State.accumulate_liveVerdict (s old : State) (items : List Item) : (s.accumulate old items).vol.liveVerdict = s.vol.liveVerdict := rfl
@[simp] theorem State.accumulate_planVerdict (s old : State) (items : List Item) : (s.accumulate old items).vol.planVerdict = s.vol.planVerdict := rfl
@[simp] theorem State.accumulate_capture (s old : State) (items : List Item) : (s.accumulate old items).vol.capture = s.vol.capture := rfl
@[simp] theorem State.accumulate_supervisor (s old : State) (items : List Item) : (s.accumulate old items).vol.supervisor = s.vol.supervisor := rfl
@[simp] theorem State.accumulate_cranes (s old : State) (items : List Item) : (s.accumulate old items).vol.cranes = s.vol.cranes := rfl
@[simp] theorem State.accumulate_tallies (s old : State) (items : List Item) : (s.accumulate old items).vol.tallies = s.vol.tallies := rfl
@[simp] theorem State.accumulate_accessFault (s old : State) (items : List Item) : (s.accumulate old items).vol.accessFault = s.vol.accessFault := rfl
@[simp] theorem State.accumulate_ports (s old : State) (items : List Item) : (s.accumulate old items).vol.ports = s.vol.ports := rfl

/-! ### buildSums -/
@[simp] theorem State.buildSums_live (s : State) :
    s.buildSums.vol.live = s.builtLive := rfl
@[simp] theorem State.buildSums_plan (s : State) :
    s.buildSums.vol.plan = s.builtPlan := rfl
@[simp] theorem State.buildSums_supply (s : State) : (s.buildSums).supply = s.supply := rfl
@[simp] theorem State.buildSums_resetHeld (s : State) : (s.buildSums).resetHeld = s.resetHeld := rfl
@[simp] theorem State.buildSums_checking (s : State) : (s.buildSums).checking = s.checking := rfl
@[simp] theorem State.buildSums_part (s : State) : (s.buildSums).part = s.part := rfl
@[simp] theorem State.buildSums_clock (s : State) : (s.buildSums).clock = s.clock := rfl
@[simp] theorem State.buildSums_strap (s : State) : (s.buildSums).strap = s.strap := rfl
@[simp] theorem State.buildSums_book (s : State) : (s.buildSums).book = s.book := rfl
@[simp] theorem State.buildSums_bookCheck (s : State) : (s.buildSums).bookCheck = s.bookCheck := rfl
@[simp] theorem State.buildSums_bookStatus (s : State) : (s.buildSums).bookStatus = s.bookStatus := rfl
@[simp] theorem State.buildSums_kept (s : State) : (s.buildSums).kept = s.kept := rfl
@[simp] theorem State.buildSums_keptCheck (s : State) : (s.buildSums).keptCheck = s.keptCheck := rfl
@[simp] theorem State.buildSums_pending (s : State) : (s.buildSums).pending = s.pending := rfl
@[simp] theorem State.buildSums_acceptance (s : State) : (s.buildSums).vol.acceptance = s.vol.acceptance := rfl
@[simp] theorem State.buildSums_links (s : State) : (s.buildSums).vol.links = s.vol.links := rfl
@[simp] theorem State.buildSums_queue (s : State) : (s.buildSums).vol.queue = s.vol.queue := rfl
@[simp] theorem State.buildSums_queueLevel (s : State) : (s.buildSums).vol.queueLevel = s.vol.queueLevel := rfl
@[simp] theorem State.buildSums_highArmed (s : State) : (s.buildSums).vol.highArmed = s.vol.highArmed := rfl
@[simp] theorem State.buildSums_channels (s : State) : (s.buildSums).vol.channels = s.vol.channels := rfl
@[simp] theorem State.buildSums_livePending (s : State) : (s.buildSums).vol.livePending = s.vol.livePending := rfl
@[simp] theorem State.buildSums_planPending (s : State) : (s.buildSums).vol.planPending = s.vol.planPending := rfl
@[simp] theorem State.buildSums_running (s : State) : (s.buildSums).vol.running = s.vol.running := rfl
@[simp] theorem State.buildSums_trials (s : State) : (s.buildSums).vol.trials = s.vol.trials := rfl
@[simp] theorem State.buildSums_lru (s : State) : (s.buildSums).vol.lru = s.vol.lru := rfl
@[simp] theorem State.buildSums_liveVerdict (s : State) : (s.buildSums).vol.liveVerdict = s.vol.liveVerdict := rfl
@[simp] theorem State.buildSums_planVerdict (s : State) : (s.buildSums).vol.planVerdict = s.vol.planVerdict := rfl
@[simp] theorem State.buildSums_capture (s : State) : (s.buildSums).vol.capture = s.vol.capture := rfl
@[simp] theorem State.buildSums_supervisor (s : State) : (s.buildSums).vol.supervisor = s.vol.supervisor := rfl
@[simp] theorem State.buildSums_cranes (s : State) : (s.buildSums).vol.cranes = s.vol.cranes := rfl
@[simp] theorem State.buildSums_tallies (s : State) : (s.buildSums).vol.tallies = s.vol.tallies := rfl
@[simp] theorem State.buildSums_accessFault (s : State) : (s.buildSums).vol.accessFault = s.vol.accessFault := rfl
@[simp] theorem State.buildSums_ports (s : State) : (s.buildSums).vol.ports = s.vol.ports := rfl

/-! ### answer -/
@[simp] theorem State.answer_ports (s : State) (p : Port) (st : Status) (body : List Val) :
    (s.answer p st body).vol.ports = updAt s.vol.ports p fun q => q.answer st body := rfl
@[simp] theorem State.answer_supply (s : State) (p : Port) (st : Status) (body : List Val) : (s.answer p st body).supply = s.supply := rfl
@[simp] theorem State.answer_resetHeld (s : State) (p : Port) (st : Status) (body : List Val) : (s.answer p st body).resetHeld = s.resetHeld := rfl
@[simp] theorem State.answer_checking (s : State) (p : Port) (st : Status) (body : List Val) : (s.answer p st body).checking = s.checking := rfl
@[simp] theorem State.answer_part (s : State) (p : Port) (st : Status) (body : List Val) : (s.answer p st body).part = s.part := rfl
@[simp] theorem State.answer_clock (s : State) (p : Port) (st : Status) (body : List Val) : (s.answer p st body).clock = s.clock := rfl
@[simp] theorem State.answer_strap (s : State) (p : Port) (st : Status) (body : List Val) : (s.answer p st body).strap = s.strap := rfl
@[simp] theorem State.answer_book (s : State) (p : Port) (st : Status) (body : List Val) : (s.answer p st body).book = s.book := rfl
@[simp] theorem State.answer_bookCheck (s : State) (p : Port) (st : Status) (body : List Val) : (s.answer p st body).bookCheck = s.bookCheck := rfl
@[simp] theorem State.answer_bookStatus (s : State) (p : Port) (st : Status) (body : List Val) : (s.answer p st body).bookStatus = s.bookStatus := rfl
@[simp] theorem State.answer_kept (s : State) (p : Port) (st : Status) (body : List Val) : (s.answer p st body).kept = s.kept := rfl
@[simp] theorem State.answer_keptCheck (s : State) (p : Port) (st : Status) (body : List Val) : (s.answer p st body).keptCheck = s.keptCheck := rfl
@[simp] theorem State.answer_pending (s : State) (p : Port) (st : Status) (body : List Val) : (s.answer p st body).pending = s.pending := rfl
@[simp] theorem State.answer_acceptance (s : State) (p : Port) (st : Status) (body : List Val) : (s.answer p st body).vol.acceptance = s.vol.acceptance := rfl
@[simp] theorem State.answer_links (s : State) (p : Port) (st : Status) (body : List Val) : (s.answer p st body).vol.links = s.vol.links := rfl
@[simp] theorem State.answer_queue (s : State) (p : Port) (st : Status) (body : List Val) : (s.answer p st body).vol.queue = s.vol.queue := rfl
@[simp] theorem State.answer_queueLevel (s : State) (p : Port) (st : Status) (body : List Val) : (s.answer p st body).vol.queueLevel = s.vol.queueLevel := rfl
@[simp] theorem State.answer_highArmed (s : State) (p : Port) (st : Status) (body : List Val) : (s.answer p st body).vol.highArmed = s.vol.highArmed := rfl
@[simp] theorem State.answer_channels (s : State) (p : Port) (st : Status) (body : List Val) : (s.answer p st body).vol.channels = s.vol.channels := rfl
@[simp] theorem State.answer_live (s : State) (p : Port) (st : Status) (body : List Val) : (s.answer p st body).vol.live = s.vol.live := rfl
@[simp] theorem State.answer_plan (s : State) (p : Port) (st : Status) (body : List Val) : (s.answer p st body).vol.plan = s.vol.plan := rfl
@[simp] theorem State.answer_livePending (s : State) (p : Port) (st : Status) (body : List Val) : (s.answer p st body).vol.livePending = s.vol.livePending := rfl
@[simp] theorem State.answer_planPending (s : State) (p : Port) (st : Status) (body : List Val) : (s.answer p st body).vol.planPending = s.vol.planPending := rfl
@[simp] theorem State.answer_running (s : State) (p : Port) (st : Status) (body : List Val) : (s.answer p st body).vol.running = s.vol.running := rfl
@[simp] theorem State.answer_trials (s : State) (p : Port) (st : Status) (body : List Val) : (s.answer p st body).vol.trials = s.vol.trials := rfl
@[simp] theorem State.answer_lru (s : State) (p : Port) (st : Status) (body : List Val) : (s.answer p st body).vol.lru = s.vol.lru := rfl
@[simp] theorem State.answer_liveVerdict (s : State) (p : Port) (st : Status) (body : List Val) : (s.answer p st body).vol.liveVerdict = s.vol.liveVerdict := rfl
@[simp] theorem State.answer_planVerdict (s : State) (p : Port) (st : Status) (body : List Val) : (s.answer p st body).vol.planVerdict = s.vol.planVerdict := rfl
@[simp] theorem State.answer_capture (s : State) (p : Port) (st : Status) (body : List Val) : (s.answer p st body).vol.capture = s.vol.capture := rfl
@[simp] theorem State.answer_supervisor (s : State) (p : Port) (st : Status) (body : List Val) : (s.answer p st body).vol.supervisor = s.vol.supervisor := rfl
@[simp] theorem State.answer_cranes (s : State) (p : Port) (st : Status) (body : List Val) : (s.answer p st body).vol.cranes = s.vol.cranes := rfl
@[simp] theorem State.answer_tallies (s : State) (p : Port) (st : Status) (body : List Val) : (s.answer p st body).vol.tallies = s.vol.tallies := rfl
@[simp] theorem State.answer_accessFault (s : State) (p : Port) (st : Status) (body : List Val) : (s.answer p st body).vol.accessFault = s.vol.accessFault := rfl

/-! ### discardAt -/
@[simp] theorem State.discardAt_supply (s : State) (p : Port) : (s.discardAt p).supply = s.supply := rfl
@[simp] theorem State.discardAt_resetHeld (s : State) (p : Port) : (s.discardAt p).resetHeld = s.resetHeld := rfl
@[simp] theorem State.discardAt_checking (s : State) (p : Port) : (s.discardAt p).checking = s.checking := rfl
@[simp] theorem State.discardAt_part (s : State) (p : Port) : (s.discardAt p).part = s.part := rfl
@[simp] theorem State.discardAt_clock (s : State) (p : Port) : (s.discardAt p).clock = s.clock := rfl
@[simp] theorem State.discardAt_strap (s : State) (p : Port) : (s.discardAt p).strap = s.strap := rfl
@[simp] theorem State.discardAt_book (s : State) (p : Port) : (s.discardAt p).book = s.book := rfl
@[simp] theorem State.discardAt_bookCheck (s : State) (p : Port) : (s.discardAt p).bookCheck = s.bookCheck := rfl
@[simp] theorem State.discardAt_bookStatus (s : State) (p : Port) : (s.discardAt p).bookStatus = s.bookStatus := rfl
@[simp] theorem State.discardAt_kept (s : State) (p : Port) : (s.discardAt p).kept = s.kept := rfl
@[simp] theorem State.discardAt_keptCheck (s : State) (p : Port) : (s.discardAt p).keptCheck = s.keptCheck := rfl
@[simp] theorem State.discardAt_pending (s : State) (p : Port) : (s.discardAt p).pending = s.pending := rfl
@[simp] theorem State.discardAt_acceptance (s : State) (p : Port) : (s.discardAt p).vol.acceptance = s.vol.acceptance := rfl
@[simp] theorem State.discardAt_links (s : State) (p : Port) : (s.discardAt p).vol.links = s.vol.links := rfl
@[simp] theorem State.discardAt_queue (s : State) (p : Port) : (s.discardAt p).vol.queue = s.vol.queue := rfl
@[simp] theorem State.discardAt_queueLevel (s : State) (p : Port) : (s.discardAt p).vol.queueLevel = s.vol.queueLevel := rfl
@[simp] theorem State.discardAt_highArmed (s : State) (p : Port) : (s.discardAt p).vol.highArmed = s.vol.highArmed := rfl
@[simp] theorem State.discardAt_channels (s : State) (p : Port) : (s.discardAt p).vol.channels = s.vol.channels := rfl
@[simp] theorem State.discardAt_live (s : State) (p : Port) : (s.discardAt p).vol.live = s.vol.live := rfl
@[simp] theorem State.discardAt_plan (s : State) (p : Port) : (s.discardAt p).vol.plan = s.vol.plan := rfl
@[simp] theorem State.discardAt_livePending (s : State) (p : Port) : (s.discardAt p).vol.livePending = s.vol.livePending := rfl
@[simp] theorem State.discardAt_planPending (s : State) (p : Port) : (s.discardAt p).vol.planPending = s.vol.planPending := rfl
@[simp] theorem State.discardAt_running (s : State) (p : Port) : (s.discardAt p).vol.running = s.vol.running := rfl
@[simp] theorem State.discardAt_trials (s : State) (p : Port) : (s.discardAt p).vol.trials = s.vol.trials := rfl
@[simp] theorem State.discardAt_lru (s : State) (p : Port) : (s.discardAt p).vol.lru = s.vol.lru := rfl
@[simp] theorem State.discardAt_liveVerdict (s : State) (p : Port) : (s.discardAt p).vol.liveVerdict = s.vol.liveVerdict := rfl
@[simp] theorem State.discardAt_planVerdict (s : State) (p : Port) : (s.discardAt p).vol.planVerdict = s.vol.planVerdict := rfl
@[simp] theorem State.discardAt_capture (s : State) (p : Port) : (s.discardAt p).vol.capture = s.vol.capture := rfl
@[simp] theorem State.discardAt_supervisor (s : State) (p : Port) : (s.discardAt p).vol.supervisor = s.vol.supervisor := rfl
@[simp] theorem State.discardAt_cranes (s : State) (p : Port) : (s.discardAt p).vol.cranes = s.vol.cranes := rfl
@[simp] theorem State.discardAt_tallies (s : State) (p : Port) : (s.discardAt p).vol.tallies = s.vol.tallies := rfl
@[simp] theorem State.discardAt_accessFault (s : State) (p : Port) : (s.discardAt p).vol.accessFault = s.vol.accessFault := rfl

/-! ### hear -/
@[simp] theorem State.hear_supply (s : State) (p : Port) : (s.hear p).supply = s.supply := rfl
@[simp] theorem State.hear_resetHeld (s : State) (p : Port) : (s.hear p).resetHeld = s.resetHeld := rfl
@[simp] theorem State.hear_checking (s : State) (p : Port) : (s.hear p).checking = s.checking := rfl
@[simp] theorem State.hear_part (s : State) (p : Port) : (s.hear p).part = s.part := rfl
@[simp] theorem State.hear_clock (s : State) (p : Port) : (s.hear p).clock = s.clock := rfl
@[simp] theorem State.hear_strap (s : State) (p : Port) : (s.hear p).strap = s.strap := rfl
@[simp] theorem State.hear_book (s : State) (p : Port) : (s.hear p).book = s.book := rfl
@[simp] theorem State.hear_bookCheck (s : State) (p : Port) : (s.hear p).bookCheck = s.bookCheck := rfl
@[simp] theorem State.hear_bookStatus (s : State) (p : Port) : (s.hear p).bookStatus = s.bookStatus := rfl
@[simp] theorem State.hear_kept (s : State) (p : Port) : (s.hear p).kept = s.kept := rfl
@[simp] theorem State.hear_keptCheck (s : State) (p : Port) : (s.hear p).keptCheck = s.keptCheck := rfl
@[simp] theorem State.hear_pending (s : State) (p : Port) : (s.hear p).pending = s.pending := rfl
@[simp] theorem State.hear_acceptance (s : State) (p : Port) : (s.hear p).vol.acceptance = s.vol.acceptance := rfl
@[simp] theorem State.hear_links (s : State) (p : Port) : (s.hear p).vol.links = s.vol.links := rfl
@[simp] theorem State.hear_queue (s : State) (p : Port) : (s.hear p).vol.queue = s.vol.queue := rfl
@[simp] theorem State.hear_queueLevel (s : State) (p : Port) : (s.hear p).vol.queueLevel = s.vol.queueLevel := rfl
@[simp] theorem State.hear_highArmed (s : State) (p : Port) : (s.hear p).vol.highArmed = s.vol.highArmed := rfl
@[simp] theorem State.hear_channels (s : State) (p : Port) : (s.hear p).vol.channels = s.vol.channels := rfl
@[simp] theorem State.hear_live (s : State) (p : Port) : (s.hear p).vol.live = s.vol.live := rfl
@[simp] theorem State.hear_plan (s : State) (p : Port) : (s.hear p).vol.plan = s.vol.plan := rfl
@[simp] theorem State.hear_livePending (s : State) (p : Port) : (s.hear p).vol.livePending = s.vol.livePending := rfl
@[simp] theorem State.hear_planPending (s : State) (p : Port) : (s.hear p).vol.planPending = s.vol.planPending := rfl
@[simp] theorem State.hear_running (s : State) (p : Port) : (s.hear p).vol.running = s.vol.running := rfl
@[simp] theorem State.hear_trials (s : State) (p : Port) : (s.hear p).vol.trials = s.vol.trials := rfl
@[simp] theorem State.hear_lru (s : State) (p : Port) : (s.hear p).vol.lru = s.vol.lru := rfl
@[simp] theorem State.hear_liveVerdict (s : State) (p : Port) : (s.hear p).vol.liveVerdict = s.vol.liveVerdict := rfl
@[simp] theorem State.hear_planVerdict (s : State) (p : Port) : (s.hear p).vol.planVerdict = s.vol.planVerdict := rfl
@[simp] theorem State.hear_capture (s : State) (p : Port) : (s.hear p).vol.capture = s.vol.capture := rfl
@[simp] theorem State.hear_supervisor (s : State) (p : Port) : (s.hear p).vol.supervisor = s.vol.supervisor := rfl
@[simp] theorem State.hear_cranes (s : State) (p : Port) : (s.hear p).vol.cranes = s.vol.cranes := rfl
@[simp] theorem State.hear_tallies (s : State) (p : Port) : (s.hear p).vol.tallies = s.vol.tallies := rfl
@[simp] theorem State.hear_accessFault (s : State) (p : Port) : (s.hear p).vol.accessFault = s.vol.accessFault := rfl

/-! ### setReference -/
@[simp] theorem State.setReference_supply (s : State) (e : QueueEntry) : (s.setReference e).supply = s.supply := rfl
@[simp] theorem State.setReference_resetHeld (s : State) (e : QueueEntry) : (s.setReference e).resetHeld = s.resetHeld := rfl
@[simp] theorem State.setReference_checking (s : State) (e : QueueEntry) : (s.setReference e).checking = s.checking := rfl
@[simp] theorem State.setReference_part (s : State) (e : QueueEntry) : (s.setReference e).part = s.part := rfl
@[simp] theorem State.setReference_clock (s : State) (e : QueueEntry) : (s.setReference e).clock = s.clock := rfl
@[simp] theorem State.setReference_strap (s : State) (e : QueueEntry) : (s.setReference e).strap = s.strap := rfl
@[simp] theorem State.setReference_book (s : State) (e : QueueEntry) : (s.setReference e).book = s.book := rfl
@[simp] theorem State.setReference_bookCheck (s : State) (e : QueueEntry) : (s.setReference e).bookCheck = s.bookCheck := rfl
@[simp] theorem State.setReference_bookStatus (s : State) (e : QueueEntry) : (s.setReference e).bookStatus = s.bookStatus := rfl
@[simp] theorem State.setReference_kept (s : State) (e : QueueEntry) : (s.setReference e).kept = s.kept := rfl
@[simp] theorem State.setReference_keptCheck (s : State) (e : QueueEntry) : (s.setReference e).keptCheck = s.keptCheck := rfl
@[simp] theorem State.setReference_pending (s : State) (e : QueueEntry) : (s.setReference e).pending = s.pending := rfl
@[simp] theorem State.setReference_acceptance (s : State) (e : QueueEntry) : (s.setReference e).vol.acceptance = s.vol.acceptance := rfl
@[simp] theorem State.setReference_links (s : State) (e : QueueEntry) : (s.setReference e).vol.links = s.vol.links := rfl
@[simp] theorem State.setReference_queue (s : State) (e : QueueEntry) : (s.setReference e).vol.queue = s.vol.queue := rfl
@[simp] theorem State.setReference_queueLevel (s : State) (e : QueueEntry) : (s.setReference e).vol.queueLevel = s.vol.queueLevel := rfl
@[simp] theorem State.setReference_highArmed (s : State) (e : QueueEntry) : (s.setReference e).vol.highArmed = s.vol.highArmed := rfl
@[simp] theorem State.setReference_live (s : State) (e : QueueEntry) : (s.setReference e).vol.live = s.vol.live := rfl
@[simp] theorem State.setReference_plan (s : State) (e : QueueEntry) : (s.setReference e).vol.plan = s.vol.plan := rfl
@[simp] theorem State.setReference_livePending (s : State) (e : QueueEntry) : (s.setReference e).vol.livePending = s.vol.livePending := rfl
@[simp] theorem State.setReference_planPending (s : State) (e : QueueEntry) : (s.setReference e).vol.planPending = s.vol.planPending := rfl
@[simp] theorem State.setReference_running (s : State) (e : QueueEntry) : (s.setReference e).vol.running = s.vol.running := rfl
@[simp] theorem State.setReference_trials (s : State) (e : QueueEntry) : (s.setReference e).vol.trials = s.vol.trials := rfl
@[simp] theorem State.setReference_lru (s : State) (e : QueueEntry) : (s.setReference e).vol.lru = s.vol.lru := rfl
@[simp] theorem State.setReference_liveVerdict (s : State) (e : QueueEntry) : (s.setReference e).vol.liveVerdict = s.vol.liveVerdict := rfl
@[simp] theorem State.setReference_planVerdict (s : State) (e : QueueEntry) : (s.setReference e).vol.planVerdict = s.vol.planVerdict := rfl
@[simp] theorem State.setReference_capture (s : State) (e : QueueEntry) : (s.setReference e).vol.capture = s.vol.capture := rfl
@[simp] theorem State.setReference_supervisor (s : State) (e : QueueEntry) : (s.setReference e).vol.supervisor = s.vol.supervisor := rfl
@[simp] theorem State.setReference_cranes (s : State) (e : QueueEntry) : (s.setReference e).vol.cranes = s.vol.cranes := rfl
@[simp] theorem State.setReference_tallies (s : State) (e : QueueEntry) : (s.setReference e).vol.tallies = s.vol.tallies := rfl
@[simp] theorem State.setReference_accessFault (s : State) (e : QueueEntry) : (s.setReference e).vol.accessFault = s.vol.accessFault := rfl
@[simp] theorem State.setReference_ports (s : State) (e : QueueEntry) : (s.setReference e).vol.ports = s.vol.ports := rfl

/-! ### removeHead -/
@[simp] theorem State.removeHead_queue (s : State) (rest : List QueueEntry) :
    (s.removeHead rest).vol.queue = rest := rfl
@[simp] theorem State.removeHead_supply (s : State) (rest : List QueueEntry) : (s.removeHead rest).supply = s.supply := rfl
@[simp] theorem State.removeHead_resetHeld (s : State) (rest : List QueueEntry) : (s.removeHead rest).resetHeld = s.resetHeld := rfl
@[simp] theorem State.removeHead_checking (s : State) (rest : List QueueEntry) : (s.removeHead rest).checking = s.checking := rfl
@[simp] theorem State.removeHead_part (s : State) (rest : List QueueEntry) : (s.removeHead rest).part = s.part := rfl
@[simp] theorem State.removeHead_clock (s : State) (rest : List QueueEntry) : (s.removeHead rest).clock = s.clock := rfl
@[simp] theorem State.removeHead_strap (s : State) (rest : List QueueEntry) : (s.removeHead rest).strap = s.strap := rfl
@[simp] theorem State.removeHead_book (s : State) (rest : List QueueEntry) : (s.removeHead rest).book = s.book := rfl
@[simp] theorem State.removeHead_bookCheck (s : State) (rest : List QueueEntry) : (s.removeHead rest).bookCheck = s.bookCheck := rfl
@[simp] theorem State.removeHead_bookStatus (s : State) (rest : List QueueEntry) : (s.removeHead rest).bookStatus = s.bookStatus := rfl
@[simp] theorem State.removeHead_kept (s : State) (rest : List QueueEntry) : (s.removeHead rest).kept = s.kept := rfl
@[simp] theorem State.removeHead_keptCheck (s : State) (rest : List QueueEntry) : (s.removeHead rest).keptCheck = s.keptCheck := rfl
@[simp] theorem State.removeHead_pending (s : State) (rest : List QueueEntry) : (s.removeHead rest).pending = s.pending := rfl
@[simp] theorem State.removeHead_acceptance (s : State) (rest : List QueueEntry) : (s.removeHead rest).vol.acceptance = s.vol.acceptance := rfl
@[simp] theorem State.removeHead_links (s : State) (rest : List QueueEntry) : (s.removeHead rest).vol.links = s.vol.links := rfl
@[simp] theorem State.removeHead_queueLevel (s : State) (rest : List QueueEntry) : (s.removeHead rest).vol.queueLevel = s.vol.queueLevel := rfl
@[simp] theorem State.removeHead_channels (s : State) (rest : List QueueEntry) : (s.removeHead rest).vol.channels = s.vol.channels := rfl
@[simp] theorem State.removeHead_live (s : State) (rest : List QueueEntry) : (s.removeHead rest).vol.live = s.vol.live := rfl
@[simp] theorem State.removeHead_plan (s : State) (rest : List QueueEntry) : (s.removeHead rest).vol.plan = s.vol.plan := rfl
@[simp] theorem State.removeHead_livePending (s : State) (rest : List QueueEntry) : (s.removeHead rest).vol.livePending = s.vol.livePending := rfl
@[simp] theorem State.removeHead_planPending (s : State) (rest : List QueueEntry) : (s.removeHead rest).vol.planPending = s.vol.planPending := rfl
@[simp] theorem State.removeHead_running (s : State) (rest : List QueueEntry) : (s.removeHead rest).vol.running = s.vol.running := rfl
@[simp] theorem State.removeHead_trials (s : State) (rest : List QueueEntry) : (s.removeHead rest).vol.trials = s.vol.trials := rfl
@[simp] theorem State.removeHead_lru (s : State) (rest : List QueueEntry) : (s.removeHead rest).vol.lru = s.vol.lru := rfl
@[simp] theorem State.removeHead_liveVerdict (s : State) (rest : List QueueEntry) : (s.removeHead rest).vol.liveVerdict = s.vol.liveVerdict := rfl
@[simp] theorem State.removeHead_planVerdict (s : State) (rest : List QueueEntry) : (s.removeHead rest).vol.planVerdict = s.vol.planVerdict := rfl
@[simp] theorem State.removeHead_capture (s : State) (rest : List QueueEntry) : (s.removeHead rest).vol.capture = s.vol.capture := rfl
@[simp] theorem State.removeHead_supervisor (s : State) (rest : List QueueEntry) : (s.removeHead rest).vol.supervisor = s.vol.supervisor := rfl
@[simp] theorem State.removeHead_cranes (s : State) (rest : List QueueEntry) : (s.removeHead rest).vol.cranes = s.vol.cranes := rfl
@[simp] theorem State.removeHead_tallies (s : State) (rest : List QueueEntry) : (s.removeHead rest).vol.tallies = s.vol.tallies := rfl
@[simp] theorem State.removeHead_accessFault (s : State) (rest : List QueueEntry) : (s.removeHead rest).vol.accessFault = s.vol.accessFault := rfl
@[simp] theorem State.removeHead_ports (s : State) (rest : List QueueEntry) : (s.removeHead rest).vol.ports = s.vol.ports := rfl

/-! ### cutWrites -/
@[simp] theorem State.cutWrites_supply (s : State) (cut : Option Port) : (s.cutWrites cut).supply = s.supply := by
  unfold State.cutWrites; split <;> rfl
@[simp] theorem State.cutWrites_resetHeld (s : State) (cut : Option Port) : (s.cutWrites cut).resetHeld = s.resetHeld := by
  unfold State.cutWrites; split <;> rfl
@[simp] theorem State.cutWrites_checking (s : State) (cut : Option Port) : (s.cutWrites cut).checking = s.checking := by
  unfold State.cutWrites; split <;> rfl
@[simp] theorem State.cutWrites_part (s : State) (cut : Option Port) : (s.cutWrites cut).part = s.part := by
  unfold State.cutWrites; split <;> rfl
@[simp] theorem State.cutWrites_clock (s : State) (cut : Option Port) : (s.cutWrites cut).clock = s.clock := by
  unfold State.cutWrites; split <;> rfl
@[simp] theorem State.cutWrites_strap (s : State) (cut : Option Port) : (s.cutWrites cut).strap = s.strap := by
  unfold State.cutWrites; split <;> rfl
@[simp] theorem State.cutWrites_kept (s : State) (cut : Option Port) : (s.cutWrites cut).kept = s.kept := by
  unfold State.cutWrites; split <;> rfl
@[simp] theorem State.cutWrites_keptCheck (s : State) (cut : Option Port) : (s.cutWrites cut).keptCheck = s.keptCheck := by
  unfold State.cutWrites; split <;> rfl
@[simp] theorem State.cutWrites_pending (s : State) (cut : Option Port) : (s.cutWrites cut).pending = s.pending := by
  unfold State.cutWrites; split <;> rfl
@[simp] theorem State.cutWrites_vol (s : State) (cut : Option Port) : (s.cutWrites cut).vol = s.vol := by
  unfold State.cutWrites; split <;> rfl

/-! ### enterStart -/
@[simp] theorem State.enterStart_part (s : State) (cut : Option Port) (checks : Bool) :
    (s.enterStart cut checks).part = .start := rfl
@[simp] theorem State.enterStart_clock (s : State) (cut : Option Port) (checks : Bool) :
    (s.enterStart cut checks).clock = 0 := rfl
@[simp] theorem State.enterStart_checking (s : State) (cut : Option Port) (checks : Bool) :
    (s.enterStart cut checks).checking = checks := rfl
@[simp] theorem State.enterStart_vol (s : State) (cut : Option Port) (checks : Bool) :
    (s.enterStart cut checks).vol = Volatile.blank := rfl
@[simp] theorem State.enterStart_book (s : State) (cut : Option Port) (checks : Bool) :
    (s.enterStart cut checks).book = (s.cutWrites cut).book := rfl
@[simp] theorem State.enterStart_bookCheck (s : State) (cut : Option Port) (checks : Bool) :
    (s.enterStart cut checks).bookCheck = (s.cutWrites cut).bookCheck := rfl
@[simp] theorem State.enterStart_bookStatus (s : State) (cut : Option Port) (checks : Bool) :
    (s.enterStart cut checks).bookStatus = (s.cutWrites cut).bookStatus := rfl
@[simp] theorem State.enterStart_supply (s : State) (cut : Option Port) (checks : Bool) :
    (s.enterStart cut checks).supply = s.supply := State.cutWrites_supply ..
@[simp] theorem State.enterStart_resetHeld (s : State) (cut : Option Port) (checks : Bool) :
    (s.enterStart cut checks).resetHeld = s.resetHeld := State.cutWrites_resetHeld ..
@[simp] theorem State.enterStart_strap (s : State) (cut : Option Port) (checks : Bool) :
    (s.enterStart cut checks).strap = s.strap := State.cutWrites_strap ..
@[simp] theorem State.enterStart_kept (s : State) (cut : Option Port) (checks : Bool) :
    (s.enterStart cut checks).kept = s.kept := State.cutWrites_kept ..
@[simp] theorem State.enterStart_keptCheck (s : State) (cut : Option Port) (checks : Bool) :
    (s.enterStart cut checks).keptCheck = s.keptCheck := State.cutWrites_keptCheck ..
@[simp] theorem State.enterStart_pending (s : State) (cut : Option Port) (checks : Bool) :
    (s.enterStart cut checks).pending = s.pending := State.cutWrites_pending ..

/-! ### issue -/
@[simp] theorem State.issue_supply (s : State) (k : NoticeKind) (n : Nat) (b : List Val) : (s.issue k n b).supply = s.supply := rfl
@[simp] theorem State.issue_resetHeld (s : State) (k : NoticeKind) (n : Nat) (b : List Val) : (s.issue k n b).resetHeld = s.resetHeld := rfl
@[simp] theorem State.issue_checking (s : State) (k : NoticeKind) (n : Nat) (b : List Val) : (s.issue k n b).checking = s.checking := rfl
@[simp] theorem State.issue_part (s : State) (k : NoticeKind) (n : Nat) (b : List Val) : (s.issue k n b).part = s.part := rfl
@[simp] theorem State.issue_clock (s : State) (k : NoticeKind) (n : Nat) (b : List Val) : (s.issue k n b).clock = s.clock := rfl
@[simp] theorem State.issue_strap (s : State) (k : NoticeKind) (n : Nat) (b : List Val) : (s.issue k n b).strap = s.strap := rfl
@[simp] theorem State.issue_book (s : State) (k : NoticeKind) (n : Nat) (b : List Val) : (s.issue k n b).book = s.book := rfl
@[simp] theorem State.issue_bookCheck (s : State) (k : NoticeKind) (n : Nat) (b : List Val) : (s.issue k n b).bookCheck = s.bookCheck := rfl
@[simp] theorem State.issue_bookStatus (s : State) (k : NoticeKind) (n : Nat) (b : List Val) : (s.issue k n b).bookStatus = s.bookStatus := rfl
@[simp] theorem State.issue_kept (s : State) (k : NoticeKind) (n : Nat) (b : List Val) : (s.issue k n b).kept = s.kept := rfl
@[simp] theorem State.issue_keptCheck (s : State) (k : NoticeKind) (n : Nat) (b : List Val) : (s.issue k n b).keptCheck = s.keptCheck := rfl
@[simp] theorem State.issue_pending (s : State) (k : NoticeKind) (n : Nat) (b : List Val) : (s.issue k n b).pending = s.pending := rfl
@[simp] theorem State.issue_acceptance (s : State) (k : NoticeKind) (n : Nat) (b : List Val) : (s.issue k n b).vol.acceptance = s.vol.acceptance := rfl
@[simp] theorem State.issue_links (s : State) (k : NoticeKind) (n : Nat) (b : List Val) : (s.issue k n b).vol.links = s.vol.links := rfl
@[simp] theorem State.issue_queue (s : State) (k : NoticeKind) (n : Nat) (b : List Val) : (s.issue k n b).vol.queue = s.vol.queue := rfl
@[simp] theorem State.issue_queueLevel (s : State) (k : NoticeKind) (n : Nat) (b : List Val) : (s.issue k n b).vol.queueLevel = s.vol.queueLevel := rfl
@[simp] theorem State.issue_highArmed (s : State) (k : NoticeKind) (n : Nat) (b : List Val) : (s.issue k n b).vol.highArmed = s.vol.highArmed := rfl
@[simp] theorem State.issue_channels (s : State) (k : NoticeKind) (n : Nat) (b : List Val) : (s.issue k n b).vol.channels = s.vol.channels := rfl
@[simp] theorem State.issue_live (s : State) (k : NoticeKind) (n : Nat) (b : List Val) : (s.issue k n b).vol.live = s.vol.live := rfl
@[simp] theorem State.issue_plan (s : State) (k : NoticeKind) (n : Nat) (b : List Val) : (s.issue k n b).vol.plan = s.vol.plan := rfl
@[simp] theorem State.issue_livePending (s : State) (k : NoticeKind) (n : Nat) (b : List Val) : (s.issue k n b).vol.livePending = s.vol.livePending := rfl
@[simp] theorem State.issue_planPending (s : State) (k : NoticeKind) (n : Nat) (b : List Val) : (s.issue k n b).vol.planPending = s.vol.planPending := rfl
@[simp] theorem State.issue_running (s : State) (k : NoticeKind) (n : Nat) (b : List Val) : (s.issue k n b).vol.running = s.vol.running := rfl
@[simp] theorem State.issue_trials (s : State) (k : NoticeKind) (n : Nat) (b : List Val) : (s.issue k n b).vol.trials = s.vol.trials := rfl
@[simp] theorem State.issue_lru (s : State) (k : NoticeKind) (n : Nat) (b : List Val) : (s.issue k n b).vol.lru = s.vol.lru := rfl
@[simp] theorem State.issue_liveVerdict (s : State) (k : NoticeKind) (n : Nat) (b : List Val) : (s.issue k n b).vol.liveVerdict = s.vol.liveVerdict := rfl
@[simp] theorem State.issue_planVerdict (s : State) (k : NoticeKind) (n : Nat) (b : List Val) : (s.issue k n b).vol.planVerdict = s.vol.planVerdict := rfl
@[simp] theorem State.issue_capture (s : State) (k : NoticeKind) (n : Nat) (b : List Val) : (s.issue k n b).vol.capture = s.vol.capture := rfl
@[simp] theorem State.issue_supervisor (s : State) (k : NoticeKind) (n : Nat) (b : List Val) : (s.issue k n b).vol.supervisor = s.vol.supervisor := rfl
@[simp] theorem State.issue_cranes (s : State) (k : NoticeKind) (n : Nat) (b : List Val) : (s.issue k n b).vol.cranes = s.vol.cranes := rfl
@[simp] theorem State.issue_tallies (s : State) (k : NoticeKind) (n : Nat) (b : List Val) : (s.issue k n b).vol.tallies = s.vol.tallies := rfl
@[simp] theorem State.issue_accessFault (s : State) (k : NoticeKind) (n : Nat) (b : List Val) : (s.issue k n b).vol.accessFault = s.vol.accessFault := rfl

/-! ### issueTo -/
@[simp] theorem State.issueTo_supply (s : State) (p : Port) (k : NoticeKind) (n : Nat) (b : List Val) : (s.issueTo p k n b).supply = s.supply := rfl
@[simp] theorem State.issueTo_resetHeld (s : State) (p : Port) (k : NoticeKind) (n : Nat) (b : List Val) : (s.issueTo p k n b).resetHeld = s.resetHeld := rfl
@[simp] theorem State.issueTo_checking (s : State) (p : Port) (k : NoticeKind) (n : Nat) (b : List Val) : (s.issueTo p k n b).checking = s.checking := rfl
@[simp] theorem State.issueTo_part (s : State) (p : Port) (k : NoticeKind) (n : Nat) (b : List Val) : (s.issueTo p k n b).part = s.part := rfl
@[simp] theorem State.issueTo_clock (s : State) (p : Port) (k : NoticeKind) (n : Nat) (b : List Val) : (s.issueTo p k n b).clock = s.clock := rfl
@[simp] theorem State.issueTo_strap (s : State) (p : Port) (k : NoticeKind) (n : Nat) (b : List Val) : (s.issueTo p k n b).strap = s.strap := rfl
@[simp] theorem State.issueTo_book (s : State) (p : Port) (k : NoticeKind) (n : Nat) (b : List Val) : (s.issueTo p k n b).book = s.book := rfl
@[simp] theorem State.issueTo_bookCheck (s : State) (p : Port) (k : NoticeKind) (n : Nat) (b : List Val) : (s.issueTo p k n b).bookCheck = s.bookCheck := rfl
@[simp] theorem State.issueTo_bookStatus (s : State) (p : Port) (k : NoticeKind) (n : Nat) (b : List Val) : (s.issueTo p k n b).bookStatus = s.bookStatus := rfl
@[simp] theorem State.issueTo_kept (s : State) (p : Port) (k : NoticeKind) (n : Nat) (b : List Val) : (s.issueTo p k n b).kept = s.kept := rfl
@[simp] theorem State.issueTo_keptCheck (s : State) (p : Port) (k : NoticeKind) (n : Nat) (b : List Val) : (s.issueTo p k n b).keptCheck = s.keptCheck := rfl
@[simp] theorem State.issueTo_pending (s : State) (p : Port) (k : NoticeKind) (n : Nat) (b : List Val) : (s.issueTo p k n b).pending = s.pending := rfl
@[simp] theorem State.issueTo_acceptance (s : State) (p : Port) (k : NoticeKind) (n : Nat) (b : List Val) : (s.issueTo p k n b).vol.acceptance = s.vol.acceptance := rfl
@[simp] theorem State.issueTo_links (s : State) (p : Port) (k : NoticeKind) (n : Nat) (b : List Val) : (s.issueTo p k n b).vol.links = s.vol.links := rfl
@[simp] theorem State.issueTo_queue (s : State) (p : Port) (k : NoticeKind) (n : Nat) (b : List Val) : (s.issueTo p k n b).vol.queue = s.vol.queue := rfl
@[simp] theorem State.issueTo_queueLevel (s : State) (p : Port) (k : NoticeKind) (n : Nat) (b : List Val) : (s.issueTo p k n b).vol.queueLevel = s.vol.queueLevel := rfl
@[simp] theorem State.issueTo_highArmed (s : State) (p : Port) (k : NoticeKind) (n : Nat) (b : List Val) : (s.issueTo p k n b).vol.highArmed = s.vol.highArmed := rfl
@[simp] theorem State.issueTo_channels (s : State) (p : Port) (k : NoticeKind) (n : Nat) (b : List Val) : (s.issueTo p k n b).vol.channels = s.vol.channels := rfl
@[simp] theorem State.issueTo_live (s : State) (p : Port) (k : NoticeKind) (n : Nat) (b : List Val) : (s.issueTo p k n b).vol.live = s.vol.live := rfl
@[simp] theorem State.issueTo_plan (s : State) (p : Port) (k : NoticeKind) (n : Nat) (b : List Val) : (s.issueTo p k n b).vol.plan = s.vol.plan := rfl
@[simp] theorem State.issueTo_livePending (s : State) (p : Port) (k : NoticeKind) (n : Nat) (b : List Val) : (s.issueTo p k n b).vol.livePending = s.vol.livePending := rfl
@[simp] theorem State.issueTo_planPending (s : State) (p : Port) (k : NoticeKind) (n : Nat) (b : List Val) : (s.issueTo p k n b).vol.planPending = s.vol.planPending := rfl
@[simp] theorem State.issueTo_running (s : State) (p : Port) (k : NoticeKind) (n : Nat) (b : List Val) : (s.issueTo p k n b).vol.running = s.vol.running := rfl
@[simp] theorem State.issueTo_trials (s : State) (p : Port) (k : NoticeKind) (n : Nat) (b : List Val) : (s.issueTo p k n b).vol.trials = s.vol.trials := rfl
@[simp] theorem State.issueTo_lru (s : State) (p : Port) (k : NoticeKind) (n : Nat) (b : List Val) : (s.issueTo p k n b).vol.lru = s.vol.lru := rfl
@[simp] theorem State.issueTo_liveVerdict (s : State) (p : Port) (k : NoticeKind) (n : Nat) (b : List Val) : (s.issueTo p k n b).vol.liveVerdict = s.vol.liveVerdict := rfl
@[simp] theorem State.issueTo_planVerdict (s : State) (p : Port) (k : NoticeKind) (n : Nat) (b : List Val) : (s.issueTo p k n b).vol.planVerdict = s.vol.planVerdict := rfl
@[simp] theorem State.issueTo_capture (s : State) (p : Port) (k : NoticeKind) (n : Nat) (b : List Val) : (s.issueTo p k n b).vol.capture = s.vol.capture := rfl
@[simp] theorem State.issueTo_supervisor (s : State) (p : Port) (k : NoticeKind) (n : Nat) (b : List Val) : (s.issueTo p k n b).vol.supervisor = s.vol.supervisor := rfl
@[simp] theorem State.issueTo_cranes (s : State) (p : Port) (k : NoticeKind) (n : Nat) (b : List Val) : (s.issueTo p k n b).vol.cranes = s.vol.cranes := rfl
@[simp] theorem State.issueTo_tallies (s : State) (p : Port) (k : NoticeKind) (n : Nat) (b : List Val) : (s.issueTo p k n b).vol.tallies = s.vol.tallies := rfl
@[simp] theorem State.issueTo_accessFault (s : State) (p : Port) (k : NoticeKind) (n : Nat) (b : List Val) : (s.issueTo p k n b).vol.accessFault = s.vol.accessFault := rfl

/-! ### permitNotice -/
@[simp] theorem State.permitNotice_supply (s : State) (c : CraneNo) : (s.permitNotice c).supply = s.supply :=
  State.issue_supply ..
@[simp] theorem State.permitNotice_resetHeld (s : State) (c : CraneNo) : (s.permitNotice c).resetHeld = s.resetHeld :=
  State.issue_resetHeld ..
@[simp] theorem State.permitNotice_checking (s : State) (c : CraneNo) : (s.permitNotice c).checking = s.checking :=
  State.issue_checking ..
@[simp] theorem State.permitNotice_part (s : State) (c : CraneNo) : (s.permitNotice c).part = s.part :=
  State.issue_part ..
@[simp] theorem State.permitNotice_clock (s : State) (c : CraneNo) : (s.permitNotice c).clock = s.clock :=
  State.issue_clock ..
@[simp] theorem State.permitNotice_strap (s : State) (c : CraneNo) : (s.permitNotice c).strap = s.strap :=
  State.issue_strap ..
@[simp] theorem State.permitNotice_book (s : State) (c : CraneNo) : (s.permitNotice c).book = s.book :=
  State.issue_book ..
@[simp] theorem State.permitNotice_bookCheck (s : State) (c : CraneNo) : (s.permitNotice c).bookCheck = s.bookCheck :=
  State.issue_bookCheck ..
@[simp] theorem State.permitNotice_bookStatus (s : State) (c : CraneNo) : (s.permitNotice c).bookStatus = s.bookStatus :=
  State.issue_bookStatus ..
@[simp] theorem State.permitNotice_kept (s : State) (c : CraneNo) : (s.permitNotice c).kept = s.kept :=
  State.issue_kept ..
@[simp] theorem State.permitNotice_keptCheck (s : State) (c : CraneNo) : (s.permitNotice c).keptCheck = s.keptCheck :=
  State.issue_keptCheck ..
@[simp] theorem State.permitNotice_pending (s : State) (c : CraneNo) : (s.permitNotice c).pending = s.pending :=
  State.issue_pending ..
@[simp] theorem State.permitNotice_acceptance (s : State) (c : CraneNo) : (s.permitNotice c).vol.acceptance = s.vol.acceptance :=
  State.issue_acceptance ..
@[simp] theorem State.permitNotice_links (s : State) (c : CraneNo) : (s.permitNotice c).vol.links = s.vol.links :=
  State.issue_links ..
@[simp] theorem State.permitNotice_queue (s : State) (c : CraneNo) : (s.permitNotice c).vol.queue = s.vol.queue :=
  State.issue_queue ..
@[simp] theorem State.permitNotice_queueLevel (s : State) (c : CraneNo) : (s.permitNotice c).vol.queueLevel = s.vol.queueLevel :=
  State.issue_queueLevel ..
@[simp] theorem State.permitNotice_highArmed (s : State) (c : CraneNo) : (s.permitNotice c).vol.highArmed = s.vol.highArmed :=
  State.issue_highArmed ..
@[simp] theorem State.permitNotice_channels (s : State) (c : CraneNo) : (s.permitNotice c).vol.channels = s.vol.channels :=
  State.issue_channels ..
@[simp] theorem State.permitNotice_live (s : State) (c : CraneNo) : (s.permitNotice c).vol.live = s.vol.live :=
  State.issue_live ..
@[simp] theorem State.permitNotice_plan (s : State) (c : CraneNo) : (s.permitNotice c).vol.plan = s.vol.plan :=
  State.issue_plan ..
@[simp] theorem State.permitNotice_livePending (s : State) (c : CraneNo) : (s.permitNotice c).vol.livePending = s.vol.livePending :=
  State.issue_livePending ..
@[simp] theorem State.permitNotice_planPending (s : State) (c : CraneNo) : (s.permitNotice c).vol.planPending = s.vol.planPending :=
  State.issue_planPending ..
@[simp] theorem State.permitNotice_running (s : State) (c : CraneNo) : (s.permitNotice c).vol.running = s.vol.running :=
  State.issue_running ..
@[simp] theorem State.permitNotice_trials (s : State) (c : CraneNo) : (s.permitNotice c).vol.trials = s.vol.trials :=
  State.issue_trials ..
@[simp] theorem State.permitNotice_lru (s : State) (c : CraneNo) : (s.permitNotice c).vol.lru = s.vol.lru :=
  State.issue_lru ..
@[simp] theorem State.permitNotice_liveVerdict (s : State) (c : CraneNo) : (s.permitNotice c).vol.liveVerdict = s.vol.liveVerdict :=
  State.issue_liveVerdict ..
@[simp] theorem State.permitNotice_planVerdict (s : State) (c : CraneNo) : (s.permitNotice c).vol.planVerdict = s.vol.planVerdict :=
  State.issue_planVerdict ..
@[simp] theorem State.permitNotice_capture (s : State) (c : CraneNo) : (s.permitNotice c).vol.capture = s.vol.capture :=
  State.issue_capture ..
@[simp] theorem State.permitNotice_supervisor (s : State) (c : CraneNo) : (s.permitNotice c).vol.supervisor = s.vol.supervisor :=
  State.issue_supervisor ..
@[simp] theorem State.permitNotice_cranes (s : State) (c : CraneNo) : (s.permitNotice c).vol.cranes = s.vol.cranes :=
  State.issue_cranes ..
@[simp] theorem State.permitNotice_tallies (s : State) (c : CraneNo) : (s.permitNotice c).vol.tallies = s.vol.tallies :=
  State.issue_tallies ..
@[simp] theorem State.permitNotice_accessFault (s : State) (c : CraneNo) : (s.permitNotice c).vol.accessFault = s.vol.accessFault :=
  State.issue_accessFault ..

/-! ### countAll -/
@[simp] theorem State.countAll_supply (s : State) (es : List TallyEvent) : (s.countAll es).supply = s.supply := rfl
@[simp] theorem State.countAll_resetHeld (s : State) (es : List TallyEvent) : (s.countAll es).resetHeld = s.resetHeld := rfl
@[simp] theorem State.countAll_checking (s : State) (es : List TallyEvent) : (s.countAll es).checking = s.checking := rfl
@[simp] theorem State.countAll_part (s : State) (es : List TallyEvent) : (s.countAll es).part = s.part := rfl
@[simp] theorem State.countAll_clock (s : State) (es : List TallyEvent) : (s.countAll es).clock = s.clock := rfl
@[simp] theorem State.countAll_strap (s : State) (es : List TallyEvent) : (s.countAll es).strap = s.strap := rfl
@[simp] theorem State.countAll_book (s : State) (es : List TallyEvent) : (s.countAll es).book = s.book := rfl
@[simp] theorem State.countAll_bookCheck (s : State) (es : List TallyEvent) : (s.countAll es).bookCheck = s.bookCheck := rfl
@[simp] theorem State.countAll_bookStatus (s : State) (es : List TallyEvent) : (s.countAll es).bookStatus = s.bookStatus := rfl
@[simp] theorem State.countAll_kept (s : State) (es : List TallyEvent) : (s.countAll es).kept = s.kept := rfl
@[simp] theorem State.countAll_keptCheck (s : State) (es : List TallyEvent) : (s.countAll es).keptCheck = s.keptCheck := rfl
@[simp] theorem State.countAll_pending (s : State) (es : List TallyEvent) : (s.countAll es).pending = s.pending := rfl
@[simp] theorem State.countAll_acceptance (s : State) (es : List TallyEvent) : (s.countAll es).vol.acceptance = s.vol.acceptance := rfl
@[simp] theorem State.countAll_links (s : State) (es : List TallyEvent) : (s.countAll es).vol.links = s.vol.links := rfl
@[simp] theorem State.countAll_queue (s : State) (es : List TallyEvent) : (s.countAll es).vol.queue = s.vol.queue := rfl
@[simp] theorem State.countAll_queueLevel (s : State) (es : List TallyEvent) : (s.countAll es).vol.queueLevel = s.vol.queueLevel := rfl
@[simp] theorem State.countAll_highArmed (s : State) (es : List TallyEvent) : (s.countAll es).vol.highArmed = s.vol.highArmed := rfl
@[simp] theorem State.countAll_channels (s : State) (es : List TallyEvent) : (s.countAll es).vol.channels = s.vol.channels := rfl
@[simp] theorem State.countAll_live (s : State) (es : List TallyEvent) : (s.countAll es).vol.live = s.vol.live := rfl
@[simp] theorem State.countAll_plan (s : State) (es : List TallyEvent) : (s.countAll es).vol.plan = s.vol.plan := rfl
@[simp] theorem State.countAll_livePending (s : State) (es : List TallyEvent) : (s.countAll es).vol.livePending = s.vol.livePending := rfl
@[simp] theorem State.countAll_planPending (s : State) (es : List TallyEvent) : (s.countAll es).vol.planPending = s.vol.planPending := rfl
@[simp] theorem State.countAll_running (s : State) (es : List TallyEvent) : (s.countAll es).vol.running = s.vol.running := rfl
@[simp] theorem State.countAll_trials (s : State) (es : List TallyEvent) : (s.countAll es).vol.trials = s.vol.trials := rfl
@[simp] theorem State.countAll_lru (s : State) (es : List TallyEvent) : (s.countAll es).vol.lru = s.vol.lru := rfl
@[simp] theorem State.countAll_liveVerdict (s : State) (es : List TallyEvent) : (s.countAll es).vol.liveVerdict = s.vol.liveVerdict := rfl
@[simp] theorem State.countAll_planVerdict (s : State) (es : List TallyEvent) : (s.countAll es).vol.planVerdict = s.vol.planVerdict := rfl
@[simp] theorem State.countAll_capture (s : State) (es : List TallyEvent) : (s.countAll es).vol.capture = s.vol.capture := rfl
@[simp] theorem State.countAll_supervisor (s : State) (es : List TallyEvent) : (s.countAll es).vol.supervisor = s.vol.supervisor := rfl
@[simp] theorem State.countAll_cranes (s : State) (es : List TallyEvent) : (s.countAll es).vol.cranes = s.vol.cranes := rfl
@[simp] theorem State.countAll_accessFault (s : State) (es : List TallyEvent) : (s.countAll es).vol.accessFault = s.vol.accessFault := rfl

/-! ### count -/
@[simp] theorem State.count_supply (s : State) (e : TallyEvent) : (s.count e).supply = s.supply :=
  State.countAll_supply ..
@[simp] theorem State.count_resetHeld (s : State) (e : TallyEvent) : (s.count e).resetHeld = s.resetHeld :=
  State.countAll_resetHeld ..
@[simp] theorem State.count_checking (s : State) (e : TallyEvent) : (s.count e).checking = s.checking :=
  State.countAll_checking ..
@[simp] theorem State.count_part (s : State) (e : TallyEvent) : (s.count e).part = s.part :=
  State.countAll_part ..
@[simp] theorem State.count_clock (s : State) (e : TallyEvent) : (s.count e).clock = s.clock :=
  State.countAll_clock ..
@[simp] theorem State.count_strap (s : State) (e : TallyEvent) : (s.count e).strap = s.strap :=
  State.countAll_strap ..
@[simp] theorem State.count_book (s : State) (e : TallyEvent) : (s.count e).book = s.book :=
  State.countAll_book ..
@[simp] theorem State.count_bookCheck (s : State) (e : TallyEvent) : (s.count e).bookCheck = s.bookCheck :=
  State.countAll_bookCheck ..
@[simp] theorem State.count_bookStatus (s : State) (e : TallyEvent) : (s.count e).bookStatus = s.bookStatus :=
  State.countAll_bookStatus ..
@[simp] theorem State.count_kept (s : State) (e : TallyEvent) : (s.count e).kept = s.kept :=
  State.countAll_kept ..
@[simp] theorem State.count_keptCheck (s : State) (e : TallyEvent) : (s.count e).keptCheck = s.keptCheck :=
  State.countAll_keptCheck ..
@[simp] theorem State.count_pending (s : State) (e : TallyEvent) : (s.count e).pending = s.pending :=
  State.countAll_pending ..
@[simp] theorem State.count_acceptance (s : State) (e : TallyEvent) : (s.count e).vol.acceptance = s.vol.acceptance :=
  State.countAll_acceptance ..
@[simp] theorem State.count_links (s : State) (e : TallyEvent) : (s.count e).vol.links = s.vol.links :=
  State.countAll_links ..
@[simp] theorem State.count_queue (s : State) (e : TallyEvent) : (s.count e).vol.queue = s.vol.queue :=
  State.countAll_queue ..
@[simp] theorem State.count_queueLevel (s : State) (e : TallyEvent) : (s.count e).vol.queueLevel = s.vol.queueLevel :=
  State.countAll_queueLevel ..
@[simp] theorem State.count_highArmed (s : State) (e : TallyEvent) : (s.count e).vol.highArmed = s.vol.highArmed :=
  State.countAll_highArmed ..
@[simp] theorem State.count_channels (s : State) (e : TallyEvent) : (s.count e).vol.channels = s.vol.channels :=
  State.countAll_channels ..
@[simp] theorem State.count_live (s : State) (e : TallyEvent) : (s.count e).vol.live = s.vol.live :=
  State.countAll_live ..
@[simp] theorem State.count_plan (s : State) (e : TallyEvent) : (s.count e).vol.plan = s.vol.plan :=
  State.countAll_plan ..
@[simp] theorem State.count_livePending (s : State) (e : TallyEvent) : (s.count e).vol.livePending = s.vol.livePending :=
  State.countAll_livePending ..
@[simp] theorem State.count_planPending (s : State) (e : TallyEvent) : (s.count e).vol.planPending = s.vol.planPending :=
  State.countAll_planPending ..
@[simp] theorem State.count_running (s : State) (e : TallyEvent) : (s.count e).vol.running = s.vol.running :=
  State.countAll_running ..
@[simp] theorem State.count_trials (s : State) (e : TallyEvent) : (s.count e).vol.trials = s.vol.trials :=
  State.countAll_trials ..
@[simp] theorem State.count_lru (s : State) (e : TallyEvent) : (s.count e).vol.lru = s.vol.lru :=
  State.countAll_lru ..
@[simp] theorem State.count_liveVerdict (s : State) (e : TallyEvent) : (s.count e).vol.liveVerdict = s.vol.liveVerdict :=
  State.countAll_liveVerdict ..
@[simp] theorem State.count_planVerdict (s : State) (e : TallyEvent) : (s.count e).vol.planVerdict = s.vol.planVerdict :=
  State.countAll_planVerdict ..
@[simp] theorem State.count_capture (s : State) (e : TallyEvent) : (s.count e).vol.capture = s.vol.capture :=
  State.countAll_capture ..
@[simp] theorem State.count_supervisor (s : State) (e : TallyEvent) : (s.count e).vol.supervisor = s.vol.supervisor :=
  State.countAll_supervisor ..
@[simp] theorem State.count_cranes (s : State) (e : TallyEvent) : (s.count e).vol.cranes = s.vol.cranes :=
  State.countAll_cranes ..
@[simp] theorem State.count_accessFault (s : State) (e : TallyEvent) : (s.count e).vol.accessFault = s.vol.accessFault :=
  State.countAll_accessFault ..

/-! ### breach -/
@[simp] theorem State.breach_supply (s : State) (p : Port) (k : Byte) (c : Cause) (v : RefValue) : (s.breach p k c v).supply = s.supply :=
  (State.count_supply ..).trans (State.issue_supply ..)
@[simp] theorem State.breach_resetHeld (s : State) (p : Port) (k : Byte) (c : Cause) (v : RefValue) : (s.breach p k c v).resetHeld = s.resetHeld :=
  (State.count_resetHeld ..).trans (State.issue_resetHeld ..)
@[simp] theorem State.breach_checking (s : State) (p : Port) (k : Byte) (c : Cause) (v : RefValue) : (s.breach p k c v).checking = s.checking :=
  (State.count_checking ..).trans (State.issue_checking ..)
@[simp] theorem State.breach_part (s : State) (p : Port) (k : Byte) (c : Cause) (v : RefValue) : (s.breach p k c v).part = s.part :=
  (State.count_part ..).trans (State.issue_part ..)
@[simp] theorem State.breach_clock (s : State) (p : Port) (k : Byte) (c : Cause) (v : RefValue) : (s.breach p k c v).clock = s.clock :=
  (State.count_clock ..).trans (State.issue_clock ..)
@[simp] theorem State.breach_strap (s : State) (p : Port) (k : Byte) (c : Cause) (v : RefValue) : (s.breach p k c v).strap = s.strap :=
  (State.count_strap ..).trans (State.issue_strap ..)
@[simp] theorem State.breach_book (s : State) (p : Port) (k : Byte) (c : Cause) (v : RefValue) : (s.breach p k c v).book = s.book :=
  (State.count_book ..).trans (State.issue_book ..)
@[simp] theorem State.breach_bookCheck (s : State) (p : Port) (k : Byte) (c : Cause) (v : RefValue) : (s.breach p k c v).bookCheck = s.bookCheck :=
  (State.count_bookCheck ..).trans (State.issue_bookCheck ..)
@[simp] theorem State.breach_bookStatus (s : State) (p : Port) (k : Byte) (c : Cause) (v : RefValue) : (s.breach p k c v).bookStatus = s.bookStatus :=
  (State.count_bookStatus ..).trans (State.issue_bookStatus ..)
@[simp] theorem State.breach_kept (s : State) (p : Port) (k : Byte) (c : Cause) (v : RefValue) : (s.breach p k c v).kept = s.kept :=
  (State.count_kept ..).trans (State.issue_kept ..)
@[simp] theorem State.breach_keptCheck (s : State) (p : Port) (k : Byte) (c : Cause) (v : RefValue) : (s.breach p k c v).keptCheck = s.keptCheck :=
  (State.count_keptCheck ..).trans (State.issue_keptCheck ..)
@[simp] theorem State.breach_pending (s : State) (p : Port) (k : Byte) (c : Cause) (v : RefValue) : (s.breach p k c v).pending = s.pending :=
  (State.count_pending ..).trans (State.issue_pending ..)
@[simp] theorem State.breach_acceptance (s : State) (p : Port) (k : Byte) (c : Cause) (v : RefValue) : (s.breach p k c v).vol.acceptance = s.vol.acceptance :=
  (State.count_acceptance ..).trans (State.issue_acceptance ..)
@[simp] theorem State.breach_links (s : State) (p : Port) (k : Byte) (c : Cause) (v : RefValue) : (s.breach p k c v).vol.links = s.vol.links :=
  (State.count_links ..).trans (State.issue_links ..)
@[simp] theorem State.breach_queue (s : State) (p : Port) (k : Byte) (c : Cause) (v : RefValue) : (s.breach p k c v).vol.queue = s.vol.queue :=
  (State.count_queue ..).trans (State.issue_queue ..)
@[simp] theorem State.breach_queueLevel (s : State) (p : Port) (k : Byte) (c : Cause) (v : RefValue) : (s.breach p k c v).vol.queueLevel = s.vol.queueLevel :=
  (State.count_queueLevel ..).trans (State.issue_queueLevel ..)
@[simp] theorem State.breach_highArmed (s : State) (p : Port) (k : Byte) (c : Cause) (v : RefValue) : (s.breach p k c v).vol.highArmed = s.vol.highArmed :=
  (State.count_highArmed ..).trans (State.issue_highArmed ..)
@[simp] theorem State.breach_channels (s : State) (p : Port) (k : Byte) (c : Cause) (v : RefValue) : (s.breach p k c v).vol.channels = s.vol.channels :=
  (State.count_channels ..).trans (State.issue_channels ..)
@[simp] theorem State.breach_live (s : State) (p : Port) (k : Byte) (c : Cause) (v : RefValue) : (s.breach p k c v).vol.live = s.vol.live :=
  (State.count_live ..).trans (State.issue_live ..)
@[simp] theorem State.breach_plan (s : State) (p : Port) (k : Byte) (c : Cause) (v : RefValue) : (s.breach p k c v).vol.plan = s.vol.plan :=
  (State.count_plan ..).trans (State.issue_plan ..)
@[simp] theorem State.breach_livePending (s : State) (p : Port) (k : Byte) (c : Cause) (v : RefValue) : (s.breach p k c v).vol.livePending = s.vol.livePending :=
  (State.count_livePending ..).trans (State.issue_livePending ..)
@[simp] theorem State.breach_planPending (s : State) (p : Port) (k : Byte) (c : Cause) (v : RefValue) : (s.breach p k c v).vol.planPending = s.vol.planPending :=
  (State.count_planPending ..).trans (State.issue_planPending ..)
@[simp] theorem State.breach_running (s : State) (p : Port) (k : Byte) (c : Cause) (v : RefValue) : (s.breach p k c v).vol.running = s.vol.running :=
  (State.count_running ..).trans (State.issue_running ..)
@[simp] theorem State.breach_trials (s : State) (p : Port) (k : Byte) (c : Cause) (v : RefValue) : (s.breach p k c v).vol.trials = s.vol.trials :=
  (State.count_trials ..).trans (State.issue_trials ..)
@[simp] theorem State.breach_lru (s : State) (p : Port) (k : Byte) (c : Cause) (v : RefValue) : (s.breach p k c v).vol.lru = s.vol.lru :=
  (State.count_lru ..).trans (State.issue_lru ..)
@[simp] theorem State.breach_liveVerdict (s : State) (p : Port) (k : Byte) (c : Cause) (v : RefValue) : (s.breach p k c v).vol.liveVerdict = s.vol.liveVerdict :=
  (State.count_liveVerdict ..).trans (State.issue_liveVerdict ..)
@[simp] theorem State.breach_planVerdict (s : State) (p : Port) (k : Byte) (c : Cause) (v : RefValue) : (s.breach p k c v).vol.planVerdict = s.vol.planVerdict :=
  (State.count_planVerdict ..).trans (State.issue_planVerdict ..)
@[simp] theorem State.breach_capture (s : State) (p : Port) (k : Byte) (c : Cause) (v : RefValue) : (s.breach p k c v).vol.capture = s.vol.capture :=
  (State.count_capture ..).trans (State.issue_capture ..)
@[simp] theorem State.breach_supervisor (s : State) (p : Port) (k : Byte) (c : Cause) (v : RefValue) : (s.breach p k c v).vol.supervisor = s.vol.supervisor :=
  (State.count_supervisor ..).trans (State.issue_supervisor ..)
@[simp] theorem State.breach_cranes (s : State) (p : Port) (k : Byte) (c : Cause) (v : RefValue) : (s.breach p k c v).vol.cranes = s.vol.cranes :=
  (State.count_cranes ..).trans (State.issue_cranes ..)

/-! ### grant -/
@[simp] theorem State.grant_supply (s : State) : (s.grant).supply = s.supply := by
  unfold State.grant; split <;> rfl
@[simp] theorem State.grant_resetHeld (s : State) : (s.grant).resetHeld = s.resetHeld := by
  unfold State.grant; split <;> rfl
@[simp] theorem State.grant_checking (s : State) : (s.grant).checking = s.checking := by
  unfold State.grant; split <;> rfl
@[simp] theorem State.grant_part (s : State) : (s.grant).part = s.part := by
  unfold State.grant; split <;> rfl
@[simp] theorem State.grant_clock (s : State) : (s.grant).clock = s.clock := by
  unfold State.grant; split <;> rfl
@[simp] theorem State.grant_strap (s : State) : (s.grant).strap = s.strap := by
  unfold State.grant; split <;> rfl
@[simp] theorem State.grant_book (s : State) : (s.grant).book = s.book := by
  unfold State.grant; split <;> rfl
@[simp] theorem State.grant_bookCheck (s : State) : (s.grant).bookCheck = s.bookCheck := by
  unfold State.grant; split <;> rfl
@[simp] theorem State.grant_bookStatus (s : State) : (s.grant).bookStatus = s.bookStatus := by
  unfold State.grant; split <;> rfl
@[simp] theorem State.grant_kept (s : State) : (s.grant).kept = s.kept := by
  unfold State.grant; split <;> rfl
@[simp] theorem State.grant_keptCheck (s : State) : (s.grant).keptCheck = s.keptCheck := by
  unfold State.grant; split <;> rfl
@[simp] theorem State.grant_pending (s : State) : (s.grant).pending = s.pending := by
  unfold State.grant; split <;> rfl
@[simp] theorem State.grant_acceptance (s : State) : (s.grant).vol.acceptance = s.vol.acceptance := by
  unfold State.grant; split <;> rfl
@[simp] theorem State.grant_links (s : State) : (s.grant).vol.links = s.vol.links := by
  unfold State.grant; split <;> rfl
@[simp] theorem State.grant_queue (s : State) : (s.grant).vol.queue = s.vol.queue := by
  unfold State.grant; split <;> rfl
@[simp] theorem State.grant_queueLevel (s : State) : (s.grant).vol.queueLevel = s.vol.queueLevel := by
  unfold State.grant; split <;> rfl
@[simp] theorem State.grant_highArmed (s : State) : (s.grant).vol.highArmed = s.vol.highArmed := by
  unfold State.grant; split <;> rfl
@[simp] theorem State.grant_channels (s : State) : (s.grant).vol.channels = s.vol.channels := by
  unfold State.grant; split <;> rfl
@[simp] theorem State.grant_live (s : State) : (s.grant).vol.live = s.vol.live := by
  unfold State.grant; split <;> rfl
@[simp] theorem State.grant_plan (s : State) : (s.grant).vol.plan = s.vol.plan := by
  unfold State.grant; split <;> rfl
@[simp] theorem State.grant_trials (s : State) : (s.grant).vol.trials = s.vol.trials := by
  unfold State.grant; split <;> rfl
@[simp] theorem State.grant_liveVerdict (s : State) : (s.grant).vol.liveVerdict = s.vol.liveVerdict := by
  unfold State.grant; split <;> rfl
@[simp] theorem State.grant_planVerdict (s : State) : (s.grant).vol.planVerdict = s.vol.planVerdict := by
  unfold State.grant; split <;> rfl
@[simp] theorem State.grant_capture (s : State) : (s.grant).vol.capture = s.vol.capture := by
  unfold State.grant; split <;> rfl
@[simp] theorem State.grant_supervisor (s : State) : (s.grant).vol.supervisor = s.vol.supervisor := by
  unfold State.grant; split <;> rfl
@[simp] theorem State.grant_cranes (s : State) : (s.grant).vol.cranes = s.vol.cranes := by
  unfold State.grant; split <;> rfl
@[simp] theorem State.grant_tallies (s : State) : (s.grant).vol.tallies = s.vol.tallies := by
  unfold State.grant; split <;> rfl
@[simp] theorem State.grant_accessFault (s : State) : (s.grant).vol.accessFault = s.vol.accessFault := by
  unfold State.grant; split <;> rfl
@[simp] theorem State.grant_ports (s : State) : (s.grant).vol.ports = s.vol.ports := by
  unfold State.grant; split <;> rfl

/-! ### settle -/
@[simp] theorem State.settle_supply (s : State) : (s.settle).supply = s.supply :=
  (State.pumpAll_supply ..).trans (State.grant_supply ..)
@[simp] theorem State.settle_resetHeld (s : State) : (s.settle).resetHeld = s.resetHeld :=
  (State.pumpAll_resetHeld ..).trans (State.grant_resetHeld ..)
@[simp] theorem State.settle_checking (s : State) : (s.settle).checking = s.checking :=
  (State.pumpAll_checking ..).trans (State.grant_checking ..)
@[simp] theorem State.settle_part (s : State) : (s.settle).part = s.part :=
  (State.pumpAll_part ..).trans (State.grant_part ..)
@[simp] theorem State.settle_clock (s : State) : (s.settle).clock = s.clock :=
  (State.pumpAll_clock ..).trans (State.grant_clock ..)
@[simp] theorem State.settle_strap (s : State) : (s.settle).strap = s.strap :=
  (State.pumpAll_strap ..).trans (State.grant_strap ..)
@[simp] theorem State.settle_book (s : State) : (s.settle).book = s.book :=
  (State.pumpAll_book ..).trans (State.grant_book ..)
@[simp] theorem State.settle_bookCheck (s : State) : (s.settle).bookCheck = s.bookCheck :=
  (State.pumpAll_bookCheck ..).trans (State.grant_bookCheck ..)
@[simp] theorem State.settle_bookStatus (s : State) : (s.settle).bookStatus = s.bookStatus :=
  (State.pumpAll_bookStatus ..).trans (State.grant_bookStatus ..)
@[simp] theorem State.settle_kept (s : State) : (s.settle).kept = s.kept :=
  (State.pumpAll_kept ..).trans (State.grant_kept ..)
@[simp] theorem State.settle_keptCheck (s : State) : (s.settle).keptCheck = s.keptCheck :=
  (State.pumpAll_keptCheck ..).trans (State.grant_keptCheck ..)
@[simp] theorem State.settle_pending (s : State) : (s.settle).pending = s.pending :=
  (State.pumpAll_pending ..).trans (State.grant_pending ..)
@[simp] theorem State.settle_acceptance (s : State) : (s.settle).vol.acceptance = s.vol.acceptance :=
  (State.pumpAll_acceptance ..).trans (State.grant_acceptance ..)
@[simp] theorem State.settle_links (s : State) : (s.settle).vol.links = s.vol.links :=
  (State.pumpAll_links ..).trans (State.grant_links ..)
@[simp] theorem State.settle_queue (s : State) : (s.settle).vol.queue = s.vol.queue :=
  (State.pumpAll_queue ..).trans (State.grant_queue ..)
@[simp] theorem State.settle_queueLevel (s : State) : (s.settle).vol.queueLevel = s.vol.queueLevel :=
  (State.pumpAll_queueLevel ..).trans (State.grant_queueLevel ..)
@[simp] theorem State.settle_highArmed (s : State) : (s.settle).vol.highArmed = s.vol.highArmed :=
  (State.pumpAll_highArmed ..).trans (State.grant_highArmed ..)
@[simp] theorem State.settle_channels (s : State) : (s.settle).vol.channels = s.vol.channels :=
  (State.pumpAll_channels ..).trans (State.grant_channels ..)
@[simp] theorem State.settle_live (s : State) : (s.settle).vol.live = s.vol.live :=
  (State.pumpAll_live ..).trans (State.grant_live ..)
@[simp] theorem State.settle_plan (s : State) : (s.settle).vol.plan = s.vol.plan :=
  (State.pumpAll_plan ..).trans (State.grant_plan ..)
@[simp] theorem State.settle_trials (s : State) : (s.settle).vol.trials = s.vol.trials :=
  (State.pumpAll_trials ..).trans (State.grant_trials ..)
@[simp] theorem State.settle_liveVerdict (s : State) : (s.settle).vol.liveVerdict = s.vol.liveVerdict :=
  (State.pumpAll_liveVerdict ..).trans (State.grant_liveVerdict ..)
@[simp] theorem State.settle_planVerdict (s : State) : (s.settle).vol.planVerdict = s.vol.planVerdict :=
  (State.pumpAll_planVerdict ..).trans (State.grant_planVerdict ..)
@[simp] theorem State.settle_capture (s : State) : (s.settle).vol.capture = s.vol.capture :=
  (State.pumpAll_capture ..).trans (State.grant_capture ..)
@[simp] theorem State.settle_supervisor (s : State) : (s.settle).vol.supervisor = s.vol.supervisor :=
  (State.pumpAll_supervisor ..).trans (State.grant_supervisor ..)
@[simp] theorem State.settle_cranes (s : State) : (s.settle).vol.cranes = s.vol.cranes :=
  (State.pumpAll_cranes ..).trans (State.grant_cranes ..)
@[simp] theorem State.settle_tallies (s : State) : (s.settle).vol.tallies = s.vol.tallies :=
  (State.pumpAll_tallies ..).trans (State.grant_tallies ..)
@[simp] theorem State.settle_accessFault (s : State) : (s.settle).vol.accessFault = s.vol.accessFault :=
  (State.pumpAll_accessFault ..).trans (State.grant_accessFault ..)

/-! ### toIdle -/
@[simp] theorem State.toIdle_kept (s : State) (c : CraneNo) :
    (s.toIdle c).kept = { s.kept with cranes := s.kept.cranes.set c.val .idle c.isLt } := rfl
@[simp] theorem State.toIdle_supply (s : State) (c : CraneNo) : (s.toIdle c).supply = s.supply :=
  (State.onCrane_supply ..).trans (State.setCrane_supply ..)
@[simp] theorem State.toIdle_resetHeld (s : State) (c : CraneNo) : (s.toIdle c).resetHeld = s.resetHeld :=
  (State.onCrane_resetHeld ..).trans (State.setCrane_resetHeld ..)
@[simp] theorem State.toIdle_checking (s : State) (c : CraneNo) : (s.toIdle c).checking = s.checking :=
  (State.onCrane_checking ..).trans (State.setCrane_checking ..)
@[simp] theorem State.toIdle_part (s : State) (c : CraneNo) : (s.toIdle c).part = s.part :=
  (State.onCrane_part ..).trans (State.setCrane_part ..)
@[simp] theorem State.toIdle_clock (s : State) (c : CraneNo) : (s.toIdle c).clock = s.clock :=
  (State.onCrane_clock ..).trans (State.setCrane_clock ..)
@[simp] theorem State.toIdle_strap (s : State) (c : CraneNo) : (s.toIdle c).strap = s.strap :=
  (State.onCrane_strap ..).trans (State.setCrane_strap ..)
@[simp] theorem State.toIdle_book (s : State) (c : CraneNo) : (s.toIdle c).book = s.book :=
  (State.onCrane_book ..).trans (State.setCrane_book ..)
@[simp] theorem State.toIdle_bookCheck (s : State) (c : CraneNo) : (s.toIdle c).bookCheck = s.bookCheck :=
  (State.onCrane_bookCheck ..).trans (State.setCrane_bookCheck ..)
@[simp] theorem State.toIdle_bookStatus (s : State) (c : CraneNo) : (s.toIdle c).bookStatus = s.bookStatus :=
  (State.onCrane_bookStatus ..).trans (State.setCrane_bookStatus ..)
@[simp] theorem State.toIdle_pending (s : State) (c : CraneNo) : (s.toIdle c).pending = s.pending :=
  (State.onCrane_pending ..).trans (State.setCrane_pending ..)
@[simp] theorem State.toIdle_acceptance (s : State) (c : CraneNo) : (s.toIdle c).vol.acceptance = s.vol.acceptance :=
  (State.onCrane_acceptance ..).trans (congrArg Volatile.acceptance (State.setCrane_vol ..))
@[simp] theorem State.toIdle_links (s : State) (c : CraneNo) : (s.toIdle c).vol.links = s.vol.links :=
  (State.onCrane_links ..).trans (congrArg Volatile.links (State.setCrane_vol ..))
@[simp] theorem State.toIdle_queue (s : State) (c : CraneNo) : (s.toIdle c).vol.queue = s.vol.queue :=
  (State.onCrane_queue ..).trans (congrArg Volatile.queue (State.setCrane_vol ..))
@[simp] theorem State.toIdle_queueLevel (s : State) (c : CraneNo) : (s.toIdle c).vol.queueLevel = s.vol.queueLevel :=
  (State.onCrane_queueLevel ..).trans (congrArg Volatile.queueLevel (State.setCrane_vol ..))
@[simp] theorem State.toIdle_highArmed (s : State) (c : CraneNo) : (s.toIdle c).vol.highArmed = s.vol.highArmed :=
  (State.onCrane_highArmed ..).trans (congrArg Volatile.highArmed (State.setCrane_vol ..))
@[simp] theorem State.toIdle_channels (s : State) (c : CraneNo) : (s.toIdle c).vol.channels = s.vol.channels :=
  (State.onCrane_channels ..).trans (congrArg Volatile.channels (State.setCrane_vol ..))
@[simp] theorem State.toIdle_live (s : State) (c : CraneNo) : (s.toIdle c).vol.live = s.vol.live :=
  (State.onCrane_live ..).trans (congrArg Volatile.live (State.setCrane_vol ..))
@[simp] theorem State.toIdle_plan (s : State) (c : CraneNo) : (s.toIdle c).vol.plan = s.vol.plan :=
  (State.onCrane_plan ..).trans (congrArg Volatile.plan (State.setCrane_vol ..))
@[simp] theorem State.toIdle_livePending (s : State) (c : CraneNo) : (s.toIdle c).vol.livePending = s.vol.livePending :=
  (State.onCrane_livePending ..).trans (congrArg Volatile.livePending (State.setCrane_vol ..))
@[simp] theorem State.toIdle_planPending (s : State) (c : CraneNo) : (s.toIdle c).vol.planPending = s.vol.planPending :=
  (State.onCrane_planPending ..).trans (congrArg Volatile.planPending (State.setCrane_vol ..))
@[simp] theorem State.toIdle_running (s : State) (c : CraneNo) : (s.toIdle c).vol.running = s.vol.running :=
  (State.onCrane_running ..).trans (congrArg Volatile.running (State.setCrane_vol ..))
@[simp] theorem State.toIdle_trials (s : State) (c : CraneNo) : (s.toIdle c).vol.trials = s.vol.trials :=
  (State.onCrane_trials ..).trans (congrArg Volatile.trials (State.setCrane_vol ..))
@[simp] theorem State.toIdle_lru (s : State) (c : CraneNo) : (s.toIdle c).vol.lru = s.vol.lru :=
  (State.onCrane_lru ..).trans (congrArg Volatile.lru (State.setCrane_vol ..))
@[simp] theorem State.toIdle_liveVerdict (s : State) (c : CraneNo) : (s.toIdle c).vol.liveVerdict = s.vol.liveVerdict :=
  (State.onCrane_liveVerdict ..).trans (congrArg Volatile.liveVerdict (State.setCrane_vol ..))
@[simp] theorem State.toIdle_planVerdict (s : State) (c : CraneNo) : (s.toIdle c).vol.planVerdict = s.vol.planVerdict :=
  (State.onCrane_planVerdict ..).trans (congrArg Volatile.planVerdict (State.setCrane_vol ..))
@[simp] theorem State.toIdle_capture (s : State) (c : CraneNo) : (s.toIdle c).vol.capture = s.vol.capture :=
  (State.onCrane_capture ..).trans (congrArg Volatile.capture (State.setCrane_vol ..))
@[simp] theorem State.toIdle_supervisor (s : State) (c : CraneNo) : (s.toIdle c).vol.supervisor = s.vol.supervisor :=
  (State.onCrane_supervisor ..).trans (congrArg Volatile.supervisor (State.setCrane_vol ..))
@[simp] theorem State.toIdle_tallies (s : State) (c : CraneNo) : (s.toIdle c).vol.tallies = s.vol.tallies :=
  (State.onCrane_tallies ..).trans (congrArg Volatile.tallies (State.setCrane_vol ..))
@[simp] theorem State.toIdle_accessFault (s : State) (c : CraneNo) : (s.toIdle c).vol.accessFault = s.vol.accessFault :=
  (State.onCrane_accessFault ..).trans (congrArg Volatile.accessFault (State.setCrane_vol ..))
@[simp] theorem State.toIdle_ports (s : State) (c : CraneNo) : (s.toIdle c).vol.ports = s.vol.ports :=
  (State.onCrane_ports ..).trans (congrArg Volatile.ports (State.setCrane_vol ..))

/-! ### withReasons -/

/-- What a change of the halt reasons gives: nothing when they stand, else the crane's reasons, its state and its notice. -/
theorem State.withReasons_eq (s : State) (c : CraneNo) (r : Reasons) :
    s.withReasons c r = s ∨
      s.withReasons c r =
        ((s.onCrane c fun k => { k with reasons := r }).setCrane c ((s.craneState c).under r)).permitNotice c := by
  unfold State.withReasons
  split
  · exact .inl rfl
  · exact .inr rfl
@[simp] theorem State.withReasons_supply (s : State) (c : CraneNo) (r : Reasons) :
    (s.withReasons c r).supply = s.supply := by
  rcases s.withReasons_eq c r with h | h <;> simp [h]
@[simp] theorem State.withReasons_resetHeld (s : State) (c : CraneNo) (r : Reasons) :
    (s.withReasons c r).resetHeld = s.resetHeld := by
  rcases s.withReasons_eq c r with h | h <;> simp [h]
@[simp] theorem State.withReasons_checking (s : State) (c : CraneNo) (r : Reasons) :
    (s.withReasons c r).checking = s.checking := by
  rcases s.withReasons_eq c r with h | h <;> simp [h]
@[simp] theorem State.withReasons_part (s : State) (c : CraneNo) (r : Reasons) :
    (s.withReasons c r).part = s.part := by
  rcases s.withReasons_eq c r with h | h <;> simp [h]
@[simp] theorem State.withReasons_clock (s : State) (c : CraneNo) (r : Reasons) :
    (s.withReasons c r).clock = s.clock := by
  rcases s.withReasons_eq c r with h | h <;> simp [h]
@[simp] theorem State.withReasons_strap (s : State) (c : CraneNo) (r : Reasons) :
    (s.withReasons c r).strap = s.strap := by
  rcases s.withReasons_eq c r with h | h <;> simp [h]
@[simp] theorem State.withReasons_book (s : State) (c : CraneNo) (r : Reasons) :
    (s.withReasons c r).book = s.book := by
  rcases s.withReasons_eq c r with h | h <;> simp [h]
@[simp] theorem State.withReasons_bookCheck (s : State) (c : CraneNo) (r : Reasons) :
    (s.withReasons c r).bookCheck = s.bookCheck := by
  rcases s.withReasons_eq c r with h | h <;> simp [h]
@[simp] theorem State.withReasons_bookStatus (s : State) (c : CraneNo) (r : Reasons) :
    (s.withReasons c r).bookStatus = s.bookStatus := by
  rcases s.withReasons_eq c r with h | h <;> simp [h]
@[simp] theorem State.withReasons_pending (s : State) (c : CraneNo) (r : Reasons) :
    (s.withReasons c r).pending = s.pending := by
  rcases s.withReasons_eq c r with h | h <;> simp [h]
@[simp] theorem State.withReasons_acceptance (s : State) (c : CraneNo) (r : Reasons) :
    (s.withReasons c r).vol.acceptance = s.vol.acceptance := by
  rcases s.withReasons_eq c r with h | h <;> simp [h]
@[simp] theorem State.withReasons_links (s : State) (c : CraneNo) (r : Reasons) :
    (s.withReasons c r).vol.links = s.vol.links := by
  rcases s.withReasons_eq c r with h | h <;> simp [h]
@[simp] theorem State.withReasons_queue (s : State) (c : CraneNo) (r : Reasons) :
    (s.withReasons c r).vol.queue = s.vol.queue := by
  rcases s.withReasons_eq c r with h | h <;> simp [h]
@[simp] theorem State.withReasons_queueLevel (s : State) (c : CraneNo) (r : Reasons) :
    (s.withReasons c r).vol.queueLevel = s.vol.queueLevel := by
  rcases s.withReasons_eq c r with h | h <;> simp [h]
@[simp] theorem State.withReasons_highArmed (s : State) (c : CraneNo) (r : Reasons) :
    (s.withReasons c r).vol.highArmed = s.vol.highArmed := by
  rcases s.withReasons_eq c r with h | h <;> simp [h]
@[simp] theorem State.withReasons_channels (s : State) (c : CraneNo) (r : Reasons) :
    (s.withReasons c r).vol.channels = s.vol.channels := by
  rcases s.withReasons_eq c r with h | h <;> simp [h]
@[simp] theorem State.withReasons_live (s : State) (c : CraneNo) (r : Reasons) :
    (s.withReasons c r).vol.live = s.vol.live := by
  rcases s.withReasons_eq c r with h | h <;> simp [h]
@[simp] theorem State.withReasons_plan (s : State) (c : CraneNo) (r : Reasons) :
    (s.withReasons c r).vol.plan = s.vol.plan := by
  rcases s.withReasons_eq c r with h | h <;> simp [h]
@[simp] theorem State.withReasons_livePending (s : State) (c : CraneNo) (r : Reasons) :
    (s.withReasons c r).vol.livePending = s.vol.livePending := by
  rcases s.withReasons_eq c r with h | h <;> simp [h]
@[simp] theorem State.withReasons_planPending (s : State) (c : CraneNo) (r : Reasons) :
    (s.withReasons c r).vol.planPending = s.vol.planPending := by
  rcases s.withReasons_eq c r with h | h <;> simp [h]
@[simp] theorem State.withReasons_running (s : State) (c : CraneNo) (r : Reasons) :
    (s.withReasons c r).vol.running = s.vol.running := by
  rcases s.withReasons_eq c r with h | h <;> simp [h]
@[simp] theorem State.withReasons_trials (s : State) (c : CraneNo) (r : Reasons) :
    (s.withReasons c r).vol.trials = s.vol.trials := by
  rcases s.withReasons_eq c r with h | h <;> simp [h]
@[simp] theorem State.withReasons_lru (s : State) (c : CraneNo) (r : Reasons) :
    (s.withReasons c r).vol.lru = s.vol.lru := by
  rcases s.withReasons_eq c r with h | h <;> simp [h]
@[simp] theorem State.withReasons_liveVerdict (s : State) (c : CraneNo) (r : Reasons) :
    (s.withReasons c r).vol.liveVerdict = s.vol.liveVerdict := by
  rcases s.withReasons_eq c r with h | h <;> simp [h]
@[simp] theorem State.withReasons_planVerdict (s : State) (c : CraneNo) (r : Reasons) :
    (s.withReasons c r).vol.planVerdict = s.vol.planVerdict := by
  rcases s.withReasons_eq c r with h | h <;> simp [h]
@[simp] theorem State.withReasons_capture (s : State) (c : CraneNo) (r : Reasons) :
    (s.withReasons c r).vol.capture = s.vol.capture := by
  rcases s.withReasons_eq c r with h | h <;> simp [h]
@[simp] theorem State.withReasons_supervisor (s : State) (c : CraneNo) (r : Reasons) :
    (s.withReasons c r).vol.supervisor = s.vol.supervisor := by
  rcases s.withReasons_eq c r with h | h <;> simp [h]
@[simp] theorem State.withReasons_tallies (s : State) (c : CraneNo) (r : Reasons) :
    (s.withReasons c r).vol.tallies = s.vol.tallies := by
  rcases s.withReasons_eq c r with h | h <;> simp [h]
@[simp] theorem State.withReasons_accessFault (s : State) (c : CraneNo) (r : Reasons) :
    (s.withReasons c r).vol.accessFault = s.vol.accessFault := by
  rcases s.withReasons_eq c r with h | h <;> simp [h]

/-! ### refuse -/
@[simp] theorem State.refuse_supply (s : State) (p : Port) (st : Status) (v : RefValue) : (s.refuse p st v).supply = s.supply :=
  State.answer_supply ..
@[simp] theorem State.refuse_resetHeld (s : State) (p : Port) (st : Status) (v : RefValue) : (s.refuse p st v).resetHeld = s.resetHeld :=
  State.answer_resetHeld ..
@[simp] theorem State.refuse_checking (s : State) (p : Port) (st : Status) (v : RefValue) : (s.refuse p st v).checking = s.checking :=
  State.answer_checking ..
@[simp] theorem State.refuse_part (s : State) (p : Port) (st : Status) (v : RefValue) : (s.refuse p st v).part = s.part :=
  State.answer_part ..
@[simp] theorem State.refuse_clock (s : State) (p : Port) (st : Status) (v : RefValue) : (s.refuse p st v).clock = s.clock :=
  State.answer_clock ..
@[simp] theorem State.refuse_strap (s : State) (p : Port) (st : Status) (v : RefValue) : (s.refuse p st v).strap = s.strap :=
  State.answer_strap ..
@[simp] theorem State.refuse_book (s : State) (p : Port) (st : Status) (v : RefValue) : (s.refuse p st v).book = s.book :=
  State.answer_book ..
@[simp] theorem State.refuse_bookCheck (s : State) (p : Port) (st : Status) (v : RefValue) : (s.refuse p st v).bookCheck = s.bookCheck :=
  State.answer_bookCheck ..
@[simp] theorem State.refuse_bookStatus (s : State) (p : Port) (st : Status) (v : RefValue) : (s.refuse p st v).bookStatus = s.bookStatus :=
  State.answer_bookStatus ..
@[simp] theorem State.refuse_kept (s : State) (p : Port) (st : Status) (v : RefValue) : (s.refuse p st v).kept = s.kept :=
  State.answer_kept ..
@[simp] theorem State.refuse_keptCheck (s : State) (p : Port) (st : Status) (v : RefValue) : (s.refuse p st v).keptCheck = s.keptCheck :=
  State.answer_keptCheck ..
@[simp] theorem State.refuse_pending (s : State) (p : Port) (st : Status) (v : RefValue) : (s.refuse p st v).pending = s.pending :=
  State.answer_pending ..
@[simp] theorem State.refuse_acceptance (s : State) (p : Port) (st : Status) (v : RefValue) : (s.refuse p st v).vol.acceptance = s.vol.acceptance :=
  State.answer_acceptance ..
@[simp] theorem State.refuse_links (s : State) (p : Port) (st : Status) (v : RefValue) : (s.refuse p st v).vol.links = s.vol.links :=
  State.answer_links ..
@[simp] theorem State.refuse_queue (s : State) (p : Port) (st : Status) (v : RefValue) : (s.refuse p st v).vol.queue = s.vol.queue :=
  State.answer_queue ..
@[simp] theorem State.refuse_queueLevel (s : State) (p : Port) (st : Status) (v : RefValue) : (s.refuse p st v).vol.queueLevel = s.vol.queueLevel :=
  State.answer_queueLevel ..
@[simp] theorem State.refuse_highArmed (s : State) (p : Port) (st : Status) (v : RefValue) : (s.refuse p st v).vol.highArmed = s.vol.highArmed :=
  State.answer_highArmed ..
@[simp] theorem State.refuse_channels (s : State) (p : Port) (st : Status) (v : RefValue) : (s.refuse p st v).vol.channels = s.vol.channels :=
  State.answer_channels ..
@[simp] theorem State.refuse_live (s : State) (p : Port) (st : Status) (v : RefValue) : (s.refuse p st v).vol.live = s.vol.live :=
  State.answer_live ..
@[simp] theorem State.refuse_plan (s : State) (p : Port) (st : Status) (v : RefValue) : (s.refuse p st v).vol.plan = s.vol.plan :=
  State.answer_plan ..
@[simp] theorem State.refuse_livePending (s : State) (p : Port) (st : Status) (v : RefValue) : (s.refuse p st v).vol.livePending = s.vol.livePending :=
  State.answer_livePending ..
@[simp] theorem State.refuse_planPending (s : State) (p : Port) (st : Status) (v : RefValue) : (s.refuse p st v).vol.planPending = s.vol.planPending :=
  State.answer_planPending ..
@[simp] theorem State.refuse_running (s : State) (p : Port) (st : Status) (v : RefValue) : (s.refuse p st v).vol.running = s.vol.running :=
  State.answer_running ..
@[simp] theorem State.refuse_trials (s : State) (p : Port) (st : Status) (v : RefValue) : (s.refuse p st v).vol.trials = s.vol.trials :=
  State.answer_trials ..
@[simp] theorem State.refuse_lru (s : State) (p : Port) (st : Status) (v : RefValue) : (s.refuse p st v).vol.lru = s.vol.lru :=
  State.answer_lru ..
@[simp] theorem State.refuse_liveVerdict (s : State) (p : Port) (st : Status) (v : RefValue) : (s.refuse p st v).vol.liveVerdict = s.vol.liveVerdict :=
  State.answer_liveVerdict ..
@[simp] theorem State.refuse_planVerdict (s : State) (p : Port) (st : Status) (v : RefValue) : (s.refuse p st v).vol.planVerdict = s.vol.planVerdict :=
  State.answer_planVerdict ..
@[simp] theorem State.refuse_capture (s : State) (p : Port) (st : Status) (v : RefValue) : (s.refuse p st v).vol.capture = s.vol.capture :=
  State.answer_capture ..
@[simp] theorem State.refuse_supervisor (s : State) (p : Port) (st : Status) (v : RefValue) : (s.refuse p st v).vol.supervisor = s.vol.supervisor :=
  State.answer_supervisor ..
@[simp] theorem State.refuse_cranes (s : State) (p : Port) (st : Status) (v : RefValue) : (s.refuse p st v).vol.cranes = s.vol.cranes :=
  State.answer_cranes ..
@[simp] theorem State.refuse_tallies (s : State) (p : Port) (st : Status) (v : RefValue) : (s.refuse p st v).vol.tallies = s.vol.tallies :=
  State.answer_tallies ..
@[simp] theorem State.refuse_accessFault (s : State) (p : Port) (st : Status) (v : RefValue) : (s.refuse p st v).vol.accessFault = s.vol.accessFault :=
  State.answer_accessFault ..

/-! ### deny -/
@[simp] theorem State.deny_supply (s : State) (p : Port) (b : Breach) : (s.deny p b).supply = s.supply :=
  (State.settle_supply ..).trans ((State.refuse_supply ..).trans (State.breach_supply ..))
@[simp] theorem State.deny_resetHeld (s : State) (p : Port) (b : Breach) : (s.deny p b).resetHeld = s.resetHeld :=
  (State.settle_resetHeld ..).trans ((State.refuse_resetHeld ..).trans (State.breach_resetHeld ..))
@[simp] theorem State.deny_checking (s : State) (p : Port) (b : Breach) : (s.deny p b).checking = s.checking :=
  (State.settle_checking ..).trans ((State.refuse_checking ..).trans (State.breach_checking ..))
@[simp] theorem State.deny_part (s : State) (p : Port) (b : Breach) : (s.deny p b).part = s.part :=
  (State.settle_part ..).trans ((State.refuse_part ..).trans (State.breach_part ..))
@[simp] theorem State.deny_clock (s : State) (p : Port) (b : Breach) : (s.deny p b).clock = s.clock :=
  (State.settle_clock ..).trans ((State.refuse_clock ..).trans (State.breach_clock ..))
@[simp] theorem State.deny_strap (s : State) (p : Port) (b : Breach) : (s.deny p b).strap = s.strap :=
  (State.settle_strap ..).trans ((State.refuse_strap ..).trans (State.breach_strap ..))
@[simp] theorem State.deny_book (s : State) (p : Port) (b : Breach) : (s.deny p b).book = s.book :=
  (State.settle_book ..).trans ((State.refuse_book ..).trans (State.breach_book ..))
@[simp] theorem State.deny_bookCheck (s : State) (p : Port) (b : Breach) : (s.deny p b).bookCheck = s.bookCheck :=
  (State.settle_bookCheck ..).trans ((State.refuse_bookCheck ..).trans (State.breach_bookCheck ..))
@[simp] theorem State.deny_bookStatus (s : State) (p : Port) (b : Breach) : (s.deny p b).bookStatus = s.bookStatus :=
  (State.settle_bookStatus ..).trans ((State.refuse_bookStatus ..).trans (State.breach_bookStatus ..))
@[simp] theorem State.deny_kept (s : State) (p : Port) (b : Breach) : (s.deny p b).kept = s.kept :=
  (State.settle_kept ..).trans ((State.refuse_kept ..).trans (State.breach_kept ..))
@[simp] theorem State.deny_keptCheck (s : State) (p : Port) (b : Breach) : (s.deny p b).keptCheck = s.keptCheck :=
  (State.settle_keptCheck ..).trans ((State.refuse_keptCheck ..).trans (State.breach_keptCheck ..))
@[simp] theorem State.deny_pending (s : State) (p : Port) (b : Breach) : (s.deny p b).pending = s.pending :=
  (State.settle_pending ..).trans ((State.refuse_pending ..).trans (State.breach_pending ..))
@[simp] theorem State.deny_acceptance (s : State) (p : Port) (b : Breach) : (s.deny p b).vol.acceptance = s.vol.acceptance :=
  (State.settle_acceptance ..).trans ((State.refuse_acceptance ..).trans (State.breach_acceptance ..))
@[simp] theorem State.deny_links (s : State) (p : Port) (b : Breach) : (s.deny p b).vol.links = s.vol.links :=
  (State.settle_links ..).trans ((State.refuse_links ..).trans (State.breach_links ..))
@[simp] theorem State.deny_queue (s : State) (p : Port) (b : Breach) : (s.deny p b).vol.queue = s.vol.queue :=
  (State.settle_queue ..).trans ((State.refuse_queue ..).trans (State.breach_queue ..))
@[simp] theorem State.deny_queueLevel (s : State) (p : Port) (b : Breach) : (s.deny p b).vol.queueLevel = s.vol.queueLevel :=
  (State.settle_queueLevel ..).trans ((State.refuse_queueLevel ..).trans (State.breach_queueLevel ..))
@[simp] theorem State.deny_highArmed (s : State) (p : Port) (b : Breach) : (s.deny p b).vol.highArmed = s.vol.highArmed :=
  (State.settle_highArmed ..).trans ((State.refuse_highArmed ..).trans (State.breach_highArmed ..))
@[simp] theorem State.deny_channels (s : State) (p : Port) (b : Breach) : (s.deny p b).vol.channels = s.vol.channels :=
  (State.settle_channels ..).trans ((State.refuse_channels ..).trans (State.breach_channels ..))
@[simp] theorem State.deny_live (s : State) (p : Port) (b : Breach) : (s.deny p b).vol.live = s.vol.live :=
  (State.settle_live ..).trans ((State.refuse_live ..).trans (State.breach_live ..))
@[simp] theorem State.deny_plan (s : State) (p : Port) (b : Breach) : (s.deny p b).vol.plan = s.vol.plan :=
  (State.settle_plan ..).trans ((State.refuse_plan ..).trans (State.breach_plan ..))
@[simp] theorem State.deny_trials (s : State) (p : Port) (b : Breach) : (s.deny p b).vol.trials = s.vol.trials :=
  (State.settle_trials ..).trans ((State.refuse_trials ..).trans (State.breach_trials ..))
@[simp] theorem State.deny_liveVerdict (s : State) (p : Port) (b : Breach) : (s.deny p b).vol.liveVerdict = s.vol.liveVerdict :=
  (State.settle_liveVerdict ..).trans ((State.refuse_liveVerdict ..).trans (State.breach_liveVerdict ..))
@[simp] theorem State.deny_planVerdict (s : State) (p : Port) (b : Breach) : (s.deny p b).vol.planVerdict = s.vol.planVerdict :=
  (State.settle_planVerdict ..).trans ((State.refuse_planVerdict ..).trans (State.breach_planVerdict ..))
@[simp] theorem State.deny_capture (s : State) (p : Port) (b : Breach) : (s.deny p b).vol.capture = s.vol.capture :=
  (State.settle_capture ..).trans ((State.refuse_capture ..).trans (State.breach_capture ..))
@[simp] theorem State.deny_supervisor (s : State) (p : Port) (b : Breach) : (s.deny p b).vol.supervisor = s.vol.supervisor :=
  (State.settle_supervisor ..).trans ((State.refuse_supervisor ..).trans (State.breach_supervisor ..))
@[simp] theorem State.deny_cranes (s : State) (p : Port) (b : Breach) : (s.deny p b).vol.cranes = s.vol.cranes :=
  (State.settle_cranes ..).trans ((State.refuse_cranes ..).trans (State.breach_cranes ..))

/-! ### done -/
@[simp] theorem State.done_supply (s : State) (p : Port) (b : List Val) : (s.done p b).supply = s.supply :=
  State.answer_supply ..
@[simp] theorem State.done_resetHeld (s : State) (p : Port) (b : List Val) : (s.done p b).resetHeld = s.resetHeld :=
  State.answer_resetHeld ..
@[simp] theorem State.done_checking (s : State) (p : Port) (b : List Val) : (s.done p b).checking = s.checking :=
  State.answer_checking ..
@[simp] theorem State.done_part (s : State) (p : Port) (b : List Val) : (s.done p b).part = s.part :=
  State.answer_part ..
@[simp] theorem State.done_clock (s : State) (p : Port) (b : List Val) : (s.done p b).clock = s.clock :=
  State.answer_clock ..
@[simp] theorem State.done_strap (s : State) (p : Port) (b : List Val) : (s.done p b).strap = s.strap :=
  State.answer_strap ..
@[simp] theorem State.done_book (s : State) (p : Port) (b : List Val) : (s.done p b).book = s.book :=
  State.answer_book ..
@[simp] theorem State.done_bookCheck (s : State) (p : Port) (b : List Val) : (s.done p b).bookCheck = s.bookCheck :=
  State.answer_bookCheck ..
@[simp] theorem State.done_bookStatus (s : State) (p : Port) (b : List Val) : (s.done p b).bookStatus = s.bookStatus :=
  State.answer_bookStatus ..
@[simp] theorem State.done_kept (s : State) (p : Port) (b : List Val) : (s.done p b).kept = s.kept :=
  State.answer_kept ..
@[simp] theorem State.done_keptCheck (s : State) (p : Port) (b : List Val) : (s.done p b).keptCheck = s.keptCheck :=
  State.answer_keptCheck ..
@[simp] theorem State.done_pending (s : State) (p : Port) (b : List Val) : (s.done p b).pending = s.pending :=
  State.answer_pending ..
@[simp] theorem State.done_acceptance (s : State) (p : Port) (b : List Val) : (s.done p b).vol.acceptance = s.vol.acceptance :=
  State.answer_acceptance ..
@[simp] theorem State.done_links (s : State) (p : Port) (b : List Val) : (s.done p b).vol.links = s.vol.links :=
  State.answer_links ..
@[simp] theorem State.done_queue (s : State) (p : Port) (b : List Val) : (s.done p b).vol.queue = s.vol.queue :=
  State.answer_queue ..
@[simp] theorem State.done_queueLevel (s : State) (p : Port) (b : List Val) : (s.done p b).vol.queueLevel = s.vol.queueLevel :=
  State.answer_queueLevel ..
@[simp] theorem State.done_highArmed (s : State) (p : Port) (b : List Val) : (s.done p b).vol.highArmed = s.vol.highArmed :=
  State.answer_highArmed ..
@[simp] theorem State.done_channels (s : State) (p : Port) (b : List Val) : (s.done p b).vol.channels = s.vol.channels :=
  State.answer_channels ..
@[simp] theorem State.done_live (s : State) (p : Port) (b : List Val) : (s.done p b).vol.live = s.vol.live :=
  State.answer_live ..
@[simp] theorem State.done_plan (s : State) (p : Port) (b : List Val) : (s.done p b).vol.plan = s.vol.plan :=
  State.answer_plan ..
@[simp] theorem State.done_livePending (s : State) (p : Port) (b : List Val) : (s.done p b).vol.livePending = s.vol.livePending :=
  State.answer_livePending ..
@[simp] theorem State.done_planPending (s : State) (p : Port) (b : List Val) : (s.done p b).vol.planPending = s.vol.planPending :=
  State.answer_planPending ..
@[simp] theorem State.done_running (s : State) (p : Port) (b : List Val) : (s.done p b).vol.running = s.vol.running :=
  State.answer_running ..
@[simp] theorem State.done_trials (s : State) (p : Port) (b : List Val) : (s.done p b).vol.trials = s.vol.trials :=
  State.answer_trials ..
@[simp] theorem State.done_lru (s : State) (p : Port) (b : List Val) : (s.done p b).vol.lru = s.vol.lru :=
  State.answer_lru ..
@[simp] theorem State.done_liveVerdict (s : State) (p : Port) (b : List Val) : (s.done p b).vol.liveVerdict = s.vol.liveVerdict :=
  State.answer_liveVerdict ..
@[simp] theorem State.done_planVerdict (s : State) (p : Port) (b : List Val) : (s.done p b).vol.planVerdict = s.vol.planVerdict :=
  State.answer_planVerdict ..
@[simp] theorem State.done_capture (s : State) (p : Port) (b : List Val) : (s.done p b).vol.capture = s.vol.capture :=
  State.answer_capture ..
@[simp] theorem State.done_supervisor (s : State) (p : Port) (b : List Val) : (s.done p b).vol.supervisor = s.vol.supervisor :=
  State.answer_supervisor ..
@[simp] theorem State.done_cranes (s : State) (p : Port) (b : List Val) : (s.done p b).vol.cranes = s.vol.cranes :=
  State.answer_cranes ..
@[simp] theorem State.done_tallies (s : State) (p : Port) (b : List Val) : (s.done p b).vol.tallies = s.vol.tallies :=
  State.answer_tallies ..
@[simp] theorem State.done_accessFault (s : State) (p : Port) (b : List Val) : (s.done p b).vol.accessFault = s.vol.accessFault :=
  State.answer_accessFault ..

/-! ### malformed -/
@[simp] theorem State.malformed_supply (s : State) (p : Port) : (s.malformed p).supply = s.supply :=
  State.answer_supply ..
@[simp] theorem State.malformed_resetHeld (s : State) (p : Port) : (s.malformed p).resetHeld = s.resetHeld :=
  State.answer_resetHeld ..
@[simp] theorem State.malformed_checking (s : State) (p : Port) : (s.malformed p).checking = s.checking :=
  State.answer_checking ..
@[simp] theorem State.malformed_part (s : State) (p : Port) : (s.malformed p).part = s.part :=
  State.answer_part ..
@[simp] theorem State.malformed_clock (s : State) (p : Port) : (s.malformed p).clock = s.clock :=
  State.answer_clock ..
@[simp] theorem State.malformed_strap (s : State) (p : Port) : (s.malformed p).strap = s.strap :=
  State.answer_strap ..
@[simp] theorem State.malformed_book (s : State) (p : Port) : (s.malformed p).book = s.book :=
  State.answer_book ..
@[simp] theorem State.malformed_bookCheck (s : State) (p : Port) : (s.malformed p).bookCheck = s.bookCheck :=
  State.answer_bookCheck ..
@[simp] theorem State.malformed_bookStatus (s : State) (p : Port) : (s.malformed p).bookStatus = s.bookStatus :=
  State.answer_bookStatus ..
@[simp] theorem State.malformed_kept (s : State) (p : Port) : (s.malformed p).kept = s.kept :=
  State.answer_kept ..
@[simp] theorem State.malformed_keptCheck (s : State) (p : Port) : (s.malformed p).keptCheck = s.keptCheck :=
  State.answer_keptCheck ..
@[simp] theorem State.malformed_pending (s : State) (p : Port) : (s.malformed p).pending = s.pending :=
  State.answer_pending ..
@[simp] theorem State.malformed_acceptance (s : State) (p : Port) : (s.malformed p).vol.acceptance = s.vol.acceptance :=
  State.answer_acceptance ..
@[simp] theorem State.malformed_links (s : State) (p : Port) : (s.malformed p).vol.links = s.vol.links :=
  State.answer_links ..
@[simp] theorem State.malformed_queue (s : State) (p : Port) : (s.malformed p).vol.queue = s.vol.queue :=
  State.answer_queue ..
@[simp] theorem State.malformed_queueLevel (s : State) (p : Port) : (s.malformed p).vol.queueLevel = s.vol.queueLevel :=
  State.answer_queueLevel ..
@[simp] theorem State.malformed_highArmed (s : State) (p : Port) : (s.malformed p).vol.highArmed = s.vol.highArmed :=
  State.answer_highArmed ..
@[simp] theorem State.malformed_channels (s : State) (p : Port) : (s.malformed p).vol.channels = s.vol.channels :=
  State.answer_channels ..
@[simp] theorem State.malformed_live (s : State) (p : Port) : (s.malformed p).vol.live = s.vol.live :=
  State.answer_live ..
@[simp] theorem State.malformed_plan (s : State) (p : Port) : (s.malformed p).vol.plan = s.vol.plan :=
  State.answer_plan ..
@[simp] theorem State.malformed_livePending (s : State) (p : Port) : (s.malformed p).vol.livePending = s.vol.livePending :=
  State.answer_livePending ..
@[simp] theorem State.malformed_planPending (s : State) (p : Port) : (s.malformed p).vol.planPending = s.vol.planPending :=
  State.answer_planPending ..
@[simp] theorem State.malformed_running (s : State) (p : Port) : (s.malformed p).vol.running = s.vol.running :=
  State.answer_running ..
@[simp] theorem State.malformed_trials (s : State) (p : Port) : (s.malformed p).vol.trials = s.vol.trials :=
  State.answer_trials ..
@[simp] theorem State.malformed_lru (s : State) (p : Port) : (s.malformed p).vol.lru = s.vol.lru :=
  State.answer_lru ..
@[simp] theorem State.malformed_liveVerdict (s : State) (p : Port) : (s.malformed p).vol.liveVerdict = s.vol.liveVerdict :=
  State.answer_liveVerdict ..
@[simp] theorem State.malformed_planVerdict (s : State) (p : Port) : (s.malformed p).vol.planVerdict = s.vol.planVerdict :=
  State.answer_planVerdict ..
@[simp] theorem State.malformed_capture (s : State) (p : Port) : (s.malformed p).vol.capture = s.vol.capture :=
  State.answer_capture ..
@[simp] theorem State.malformed_supervisor (s : State) (p : Port) : (s.malformed p).vol.supervisor = s.vol.supervisor :=
  State.answer_supervisor ..
@[simp] theorem State.malformed_cranes (s : State) (p : Port) : (s.malformed p).vol.cranes = s.vol.cranes :=
  State.answer_cranes ..
@[simp] theorem State.malformed_tallies (s : State) (p : Port) : (s.malformed p).vol.tallies = s.vol.tallies :=
  State.answer_tallies ..
@[simp] theorem State.malformed_accessFault (s : State) (p : Port) : (s.malformed p).vol.accessFault = s.vol.accessFault :=
  State.answer_accessFault ..

/-! ### applied -/
@[simp] theorem State.applied_kept (s old : State) (r : ChangeRecord) (a : List Nat) (items : List Item) :
    (s.applied old r a items).kept = s.kept.record r := rfl
@[simp] theorem State.applied_keptCheck (s old : State) (r : ChangeRecord) (a : List Nat) (items : List Item) :
    (s.applied old r a items).keptCheck = some (s.kept.record r).word := rfl
@[simp] theorem State.applied_supply (s old : State) (r : ChangeRecord) (a : List Nat) (items : List Item) : (s.applied old r a items).supply = s.supply :=
  (State.breakLinks_supply ..).trans ((State.setKept_supply ..).trans (State.accumulate_supply ..))
@[simp] theorem State.applied_resetHeld (s old : State) (r : ChangeRecord) (a : List Nat) (items : List Item) : (s.applied old r a items).resetHeld = s.resetHeld :=
  (State.breakLinks_resetHeld ..).trans ((State.setKept_resetHeld ..).trans (State.accumulate_resetHeld ..))
@[simp] theorem State.applied_checking (s old : State) (r : ChangeRecord) (a : List Nat) (items : List Item) : (s.applied old r a items).checking = s.checking :=
  (State.breakLinks_checking ..).trans ((State.setKept_checking ..).trans (State.accumulate_checking ..))
@[simp] theorem State.applied_part (s old : State) (r : ChangeRecord) (a : List Nat) (items : List Item) : (s.applied old r a items).part = s.part :=
  (State.breakLinks_part ..).trans ((State.setKept_part ..).trans (State.accumulate_part ..))
@[simp] theorem State.applied_clock (s old : State) (r : ChangeRecord) (a : List Nat) (items : List Item) : (s.applied old r a items).clock = s.clock :=
  (State.breakLinks_clock ..).trans ((State.setKept_clock ..).trans (State.accumulate_clock ..))
@[simp] theorem State.applied_strap (s old : State) (r : ChangeRecord) (a : List Nat) (items : List Item) : (s.applied old r a items).strap = s.strap :=
  (State.breakLinks_strap ..).trans ((State.setKept_strap ..).trans (State.accumulate_strap ..))
@[simp] theorem State.applied_book (s old : State) (r : ChangeRecord) (a : List Nat) (items : List Item) : (s.applied old r a items).book = s.book :=
  (State.breakLinks_book ..).trans ((State.setKept_book ..).trans (State.accumulate_book ..))
@[simp] theorem State.applied_bookCheck (s old : State) (r : ChangeRecord) (a : List Nat) (items : List Item) : (s.applied old r a items).bookCheck = s.bookCheck :=
  (State.breakLinks_bookCheck ..).trans ((State.setKept_bookCheck ..).trans (State.accumulate_bookCheck ..))
@[simp] theorem State.applied_bookStatus (s old : State) (r : ChangeRecord) (a : List Nat) (items : List Item) : (s.applied old r a items).bookStatus = s.bookStatus :=
  (State.breakLinks_bookStatus ..).trans ((State.setKept_bookStatus ..).trans (State.accumulate_bookStatus ..))
@[simp] theorem State.applied_pending (s old : State) (r : ChangeRecord) (a : List Nat) (items : List Item) : (s.applied old r a items).pending = s.pending :=
  (State.breakLinks_pending ..).trans ((State.setKept_pending ..).trans (State.accumulate_pending ..))
@[simp] theorem State.applied_acceptance (s old : State) (r : ChangeRecord) (a : List Nat) (items : List Item) : (s.applied old r a items).vol.acceptance = s.vol.acceptance :=
  (State.breakLinks_acceptance ..).trans ((congrArg Volatile.acceptance (State.setKept_vol ..)).trans (State.accumulate_acceptance ..))
@[simp] theorem State.applied_queue (s old : State) (r : ChangeRecord) (a : List Nat) (items : List Item) : (s.applied old r a items).vol.queue = s.vol.queue :=
  (State.breakLinks_queue ..).trans ((congrArg Volatile.queue (State.setKept_vol ..)).trans (State.accumulate_queue ..))
@[simp] theorem State.applied_queueLevel (s old : State) (r : ChangeRecord) (a : List Nat) (items : List Item) : (s.applied old r a items).vol.queueLevel = s.vol.queueLevel :=
  (State.breakLinks_queueLevel ..).trans ((congrArg Volatile.queueLevel (State.setKept_vol ..)).trans (State.accumulate_queueLevel ..))
@[simp] theorem State.applied_highArmed (s old : State) (r : ChangeRecord) (a : List Nat) (items : List Item) : (s.applied old r a items).vol.highArmed = s.vol.highArmed :=
  (State.breakLinks_highArmed ..).trans ((congrArg Volatile.highArmed (State.setKept_vol ..)).trans (State.accumulate_highArmed ..))
@[simp] theorem State.applied_channels (s old : State) (r : ChangeRecord) (a : List Nat) (items : List Item) : (s.applied old r a items).vol.channels = s.vol.channels :=
  (State.breakLinks_channels ..).trans ((congrArg Volatile.channels (State.setKept_vol ..)).trans (State.accumulate_channels ..))
@[simp] theorem State.applied_running (s old : State) (r : ChangeRecord) (a : List Nat) (items : List Item) : (s.applied old r a items).vol.running = s.vol.running :=
  (State.breakLinks_running ..).trans ((congrArg Volatile.running (State.setKept_vol ..)).trans (State.accumulate_running ..))
@[simp] theorem State.applied_trials (s old : State) (r : ChangeRecord) (a : List Nat) (items : List Item) : (s.applied old r a items).vol.trials = s.vol.trials :=
  (State.breakLinks_trials ..).trans ((congrArg Volatile.trials (State.setKept_vol ..)).trans (State.accumulate_trials ..))
@[simp] theorem State.applied_lru (s old : State) (r : ChangeRecord) (a : List Nat) (items : List Item) : (s.applied old r a items).vol.lru = s.vol.lru :=
  (State.breakLinks_lru ..).trans ((congrArg Volatile.lru (State.setKept_vol ..)).trans (State.accumulate_lru ..))
@[simp] theorem State.applied_liveVerdict (s old : State) (r : ChangeRecord) (a : List Nat) (items : List Item) : (s.applied old r a items).vol.liveVerdict = s.vol.liveVerdict :=
  (State.breakLinks_liveVerdict ..).trans ((congrArg Volatile.liveVerdict (State.setKept_vol ..)).trans (State.accumulate_liveVerdict ..))
@[simp] theorem State.applied_planVerdict (s old : State) (r : ChangeRecord) (a : List Nat) (items : List Item) : (s.applied old r a items).vol.planVerdict = s.vol.planVerdict :=
  (State.breakLinks_planVerdict ..).trans ((congrArg Volatile.planVerdict (State.setKept_vol ..)).trans (State.accumulate_planVerdict ..))
@[simp] theorem State.applied_capture (s old : State) (r : ChangeRecord) (a : List Nat) (items : List Item) : (s.applied old r a items).vol.capture = s.vol.capture :=
  (State.breakLinks_capture ..).trans ((congrArg Volatile.capture (State.setKept_vol ..)).trans (State.accumulate_capture ..))
@[simp] theorem State.applied_supervisor (s old : State) (r : ChangeRecord) (a : List Nat) (items : List Item) : (s.applied old r a items).vol.supervisor = s.vol.supervisor :=
  (State.breakLinks_supervisor ..).trans ((congrArg Volatile.supervisor (State.setKept_vol ..)).trans (State.accumulate_supervisor ..))
@[simp] theorem State.applied_cranes (s old : State) (r : ChangeRecord) (a : List Nat) (items : List Item) : (s.applied old r a items).vol.cranes = s.vol.cranes :=
  (State.breakLinks_cranes ..).trans ((congrArg Volatile.cranes (State.setKept_vol ..)).trans (State.accumulate_cranes ..))
@[simp] theorem State.applied_tallies (s old : State) (r : ChangeRecord) (a : List Nat) (items : List Item) : (s.applied old r a items).vol.tallies = s.vol.tallies :=
  (State.breakLinks_tallies ..).trans ((congrArg Volatile.tallies (State.setKept_vol ..)).trans (State.accumulate_tallies ..))
@[simp] theorem State.applied_accessFault (s old : State) (r : ChangeRecord) (a : List Nat) (items : List Item) : (s.applied old r a items).vol.accessFault = s.vol.accessFault :=
  (State.breakLinks_accessFault ..).trans ((congrArg Volatile.accessFault (State.setKept_vol ..)).trans (State.accumulate_accessFault ..))
@[simp] theorem State.applied_ports (s old : State) (r : ChangeRecord) (a : List Nat) (items : List Item) : (s.applied old r a items).vol.ports = s.vol.ports :=
  (State.breakLinks_ports ..).trans ((congrArg Volatile.ports (State.setKept_vol ..)).trans (State.accumulate_ports ..))

end Sys2Proof.Machine
end

