-- ==== Sys2Proof/Laws/Ops.lean ====
section
/-!
SUPPORT. One lemma for each shared operation that says once what the operation can do: the service of a request, the
answer, the pump of a line, the notice queue, the grant, the lot table, the Journal, the halt reasons. Later proofs cite these.
-/
namespace Sys2Proof.Machine

/-! ### The service of a request (R167) -/

/-- What the service of a request can be: nothing, an answer by the part state, a denial, or the owning block's effect. -/
theorem State.serve_cases (s : State) (p : Port) (cmd : Instr) (cls : RequestClass) (gate : State → Option Breach)
    (block : State → State) :
    s.serve p cmd cls gate block = s ∨
    (s.part = .commission ∧ s.serve p cmd cls gate block = s.answer p .notInService []) ∨
    (s.part = .service ∧ s.serve p cmd cls gate block = s.answer p .notInCommission []) ∨
    (s.part = .service ∧ ∃ b, gate s = some b ∧ s.serve p cmd cls gate block = s.deny p b) ∨
    s.serve p cmd cls gate block = block s := by
  unfold State.serve
  split
  · exact .inl rfl
  · split <;> rename_i h
    · exact .inl rfl
    · split <;> simp_all
    · split
      · exact .inr (.inr (.inl ⟨h, rfl⟩))
      all_goals
        split
        · rename_i b hb; exact .inr (.inr (.inr (.inl ⟨h, b, hb, rfl⟩)))
        · exact .inr (.inr (.inr (.inr rfl)))

/-- A command that names no request in service leaves the engine as it is. -/
theorem State.serve_idle (s : State) (p : Port) (cmd : Instr) (cls : RequestClass) (gate : State → Option Breach)
    (block : State → State) (h : s.serves p cmd = false) : s.serve p cmd cls gate block = s := by
  simp [State.serve, h]

/-- In SERVICE a request other than the book's that its gate lets pass reaches its owning block. -/
theorem State.serve_service (s : State) (p : Port) (cmd : Instr) (cls : RequestClass) (gate : State → Option Breach)
    (block : State → State) (h : s.serves p cmd = true) (hp : s.part = .service) (hc : cls ≠ .book)
    (hg : gate s = none) : s.serve p cmd cls gate block = block s := by
  cases cls <;> simp_all [State.serve]

/-- In SERVICE a request other than the book's that breaks the access table is denied. -/
theorem State.serve_breach (s : State) (p : Port) (cmd : Instr) (cls : RequestClass) (gate : State → Option Breach)
    (block : State → State) (b : Breach) (h : s.serves p cmd = true) (hp : s.part = .service) (hc : cls ≠ .book)
    (hg : gate s = some b) : s.serve p cmd cls gate block = s.deny p b := by
  cases cls <;> simp_all [State.serve]

/-- In COMMISSION a read, and a request of the book's writing, reach their owning block. -/
theorem State.serve_commission (s : State) (p : Port) (cmd : Instr) (cls : RequestClass) (gate : State → Option Breach)
    (block : State → State) (h : s.serves p cmd = true) (hp : s.part = .commission) (hc : cls ≠ .condition) :
    s.serve p cmd cls gate block = block s := by
  cases cls <;> simp_all [State.serve]

/-- In COMMISSION every other request is answered NOT-IN-SERVICE. -/
theorem State.serve_notInService (s : State) (p : Port) (cmd : Instr) (gate : State → Option Breach)
    (block : State → State) (h : s.serves p cmd = true) (hp : s.part = .commission) :
    s.serve p cmd .condition gate block = s.answer p .notInService [] := by
  simp [State.serve, h, hp]

/-- In SERVICE a request of the book's writing is answered NOT-IN-COMMISSION. -/
theorem State.serve_notInCommission (s : State) (p : Port) (cmd : Instr) (gate : State → Option Breach)
    (block : State → State) (h : s.serves p cmd = true) (hp : s.part = .service) :
    s.serve p cmd .book gate block = s.answer p .notInCommission [] := by
  simp [State.serve, h, hp]

/-- A request that fails its form is answered MALFORMED outside START, and leaves the engine as it is in START. -/
theorem State.serveMalformed_cases (s : State) (p : Port) (cmd : Instr) :
    s.serveMalformed p cmd = s ∨
    (s.part ≠ .start ∧ s.serves p cmd = true ∧ s.serveMalformed p cmd = s.answer p .malformed []) := by
  unfold State.serveMalformed
  split
  · exact .inl rfl
  · rename_i h
    simp only [not_or, Bool.not_eq_false] at h
    exact .inr ⟨h.2, h.1, rfl⟩

/-! ### The ports -/

/-- The record of a port in a state whose ports are changed at one place. -/
theorem State.onPort_port (s : State) (p : Port) (f : PortState → PortState) (q : Port) :
    (s.onPort p f).port q = if q = p then f (s.port p) else s.port q := by
  simp only [State.port, State.onPort_ports, updAt]
  by_cases h : q = p
  · subst h; simp
  · have : p.val ≠ q.val := fun e => h (Fin.ext e.symm)
    simp [h, this]

/-- An answer touches its own port alone. -/
theorem State.answer_port (s : State) (p : Port) (st : Status) (body : List Val) (q : Port) :
    (s.answer p st body).port q = if q = p then (s.port p).answer st body else s.port q :=
  s.onPort_port p _ q

/-- The record of a port after every free line began what waited for it. -/
theorem State.pumpAll_port (s : State) (q : Port) : s.pumpAll.port q = (s.port q).pump := by
  simp [State.port]

/-- What the pump of a line can do: nothing, begin the oldest reply, or begin the head notice (R175). -/
theorem PortState.pump_cases (q : PortState) :
    q.pump = q ∨
    (∃ r rest, q.line = none ∧ q.replies = r :: rest ∧ q.pump = { q with line := some (.reply r), replies := rest }) ∨
    (∃ n rest, q.line = none ∧ q.replies = [] ∧ q.notices = n :: rest ∧
      q.pump = { q with line := some (.notice n), notices := rest }) := by
  unfold PortState.pump
  split
  · exact .inl rfl
  · rename_i h
    split
    · rename_i r rest hr; exact .inr (.inl ⟨r, rest, h, hr, rfl⟩)
    · rename_i n rest hr hn; exact .inr (.inr ⟨n, rest, h, hr, hn, rfl⟩)
    · exact .inl rfl

/-- A reply is appended below eight waiting replies, and counted as a discard at eight (R166, R167). -/
theorem PortState.pushReply_cases (q : PortState) (r : Reply) :
    (q.replies.length < 8 ∧ q.pushReply r = { q with replies := q.replies ++ [r] }) ∨
    (8 ≤ q.replies.length ∧ q.pushReply r = q.discard) := by
  unfold PortState.pushReply Config.replyCapacity
  split
  · rename_i h; exact .inl ⟨h, rfl⟩
  · rename_i h; exact .inr ⟨by omega, rfl⟩

/-- What a notice can do at a port: nothing, replace, join the tail, or be dropped (R171, R173). -/
theorem PortState.pushNotice_cases (q : PortState) (n : Notice) :
    q.pushNotice n = q ∨
    q.pushNotice n = { q with notices := q.notices.map fun m => if n.sameSubject m then n else m } ∨
    (q.notices.length < 16 ∧ q.pushNotice n = { q with notices := q.notices ++ [n] }) ∨
    (16 ≤ q.notices.length ∧ q.pushNotice n = { q with dropped := true }) := by
  unfold PortState.pushNotice Config.noticeCapacity
  split
  · exact .inl rfl
  · split
    · exact .inr (.inl rfl)
    · split
      · rename_i h; exact .inr (.inr (.inl ⟨h, rfl⟩))
      · rename_i h; exact .inr (.inr (.inr ⟨by omega, rfl⟩))

/-- A notice changes no part of a port but the notice queue and the dropped flag. -/
theorem PortState.pushNotice_frame (q : PortState) (n : Notice) :
    q.pushNotice n = { q with notices := (q.pushNotice n).notices, dropped := (q.pushNotice n).dropped } := by
  rcases q.pushNotice_cases n with h | h | ⟨-, h⟩ | ⟨-, h⟩ <;> rw [h]

/-! ### The arbiter (R112, R113) -/

/-- What a grant can do: nothing, or begin the pass that the arbiter chooses. -/
theorem State.grant_cases (s : State) :
    (s.choice = none ∧ s.grant = s) ∨
    ∃ pass, s.choice = some pass ∧
      s.grant =
        { s with
          vol.running := some pass
          vol.livePending := s.vol.livePending && decide (pass.kind ≠ .live)
          vol.planPending := s.vol.planPending && decide (pass.kind ≠ .plan)
          vol.lru := pass.kind.lruAfter s.vol.lru } := by
  unfold State.grant
  split
  · rename_i h; exact .inl ⟨h, rfl⟩
  · rename_i pass h; exact .inr ⟨pass, h, rfl⟩

/-! ### The lot table -/

/-- A record set is read back. -/
@[simp] theorem tableGet_put_self {α : Type} (l : List (Nat × α)) (k : Nat) (a : α) :
    tableGet (tablePut l k a) k = some a := by
  induction l with
  | nil => simp [tablePut, tableGet]
  | cons e rest ih =>
    obtain ⟨j, b⟩ := e
    simp only [tablePut]
    split
    · simp [tableGet]
    · split
      · simp [tableGet]
      · rename_i h; simp [tableGet, Ne.symm h, ih]

/-- A record set leaves every other key as it was. -/
theorem tableGet_put_ne {α : Type} (l : List (Nat × α)) (k h : Nat) (a : α) (hne : h ≠ k) :
    tableGet (tablePut l k a) h = tableGet l h := by
  induction l with
  | nil => simp [tablePut, tableGet, hne.symm]
  | cons e rest ih =>
    obtain ⟨j, b⟩ := e
    simp only [tablePut]
    split
    · simp [tableGet, hne.symm]
    · split
      · rename_i hk; subst hk; simp [tableGet, hne.symm]
      · simp [tableGet, ih]

/-- A freed key holds nothing. -/
@[simp] theorem tableGet_erase_self {α : Type} (l : List (Nat × α)) (k : Nat) : tableGet (tableErase l k) k = none := by
  induction l with
  | nil => rfl
  | cons e rest ih =>
    obtain ⟨j, b⟩ := e
    by_cases h : j = k
    · subst h; simpa [tableErase] using ih
    · have : tableErase ((j, b) :: rest) k = (j, b) :: tableErase rest k := by simp [tableErase, h]
      rw [this]; simpa [tableGet, h] using ih

/-- Freeing a key leaves every other key as it was. -/
theorem tableGet_erase_ne {α : Type} (l : List (Nat × α)) (k h : Nat) (hne : h ≠ k) :
    tableGet (tableErase l k) h = tableGet l h := by
  induction l with
  | nil => rfl
  | cons e rest ih =>
    obtain ⟨j, b⟩ := e
    by_cases hj : j = k
    · subst hj
      have : tableErase ((j, b) :: rest) j = tableErase rest j := by simp [tableErase]
      rw [this, ih]; simp [tableGet, hne.symm]
    · have : tableErase ((j, b) :: rest) k = (j, b) :: tableErase rest k := by simp [tableErase, hj]
      rw [this]; simp [tableGet, ih]

/-- The canonical form says that the keys rise strictly and lie below the bound. -/
theorem tableWf_iff {α : Type} (bound : Nat) (l : List (Nat × α)) :
    tableWf bound l = true ↔ (l.map Prod.fst).Pairwise (· < ·) ∧ ∀ k ∈ l.map Prod.fst, k < bound := by
  induction l with
  | nil => simp [tableWf]
  | cons e rest ih =>
    obtain ⟨j, a⟩ := e
    cases rest with
    | nil => simp [tableWf]
    | cons e' rest' =>
      obtain ⟨k, b⟩ := e'
      simp only [tableWf, Bool.and_eq_true, decide_eq_true_eq, ih]
      simp only [List.map_cons, List.pairwise_cons, List.mem_cons, forall_eq_or_imp]
      constructor
      · rintro ⟨hjk, ⟨hk, hp⟩, hkb, hb⟩
        exact ⟨⟨⟨hjk, fun x hx => Nat.lt_trans hjk (hk x hx)⟩, hk, hp⟩, Nat.lt_trans hjk hkb, hkb, hb⟩
      · rintro ⟨⟨⟨hjk, -⟩, hk, hp⟩, -, hkb, hb⟩
        exact ⟨hjk, ⟨hk, hp⟩, hkb, hb⟩

/-- The keys after a record is set are the old ones and the key set. -/
theorem mem_keys_tablePut {α : Type} (l : List (Nat × α)) (k : Nat) (a : α) (x : Nat) :
    x ∈ (tablePut l k a).map Prod.fst ↔ x = k ∨ x ∈ l.map Prod.fst := by
  induction l with
  | nil => simp [tablePut]
  | cons e rest ih =>
    obtain ⟨j, b⟩ := e
    simp only [tablePut]
    split
    · simp
    · split
      · rename_i h; subst h; simp
      · simp only [List.map_cons, List.mem_cons, ih]
        exact or_left_comm

/-- Setting a record at a key below the bound keeps the canonical form. -/
theorem tableWf_put {α : Type} (bound : Nat) (l : List (Nat × α)) (k : Nat) (a : α) (hk : k < bound)
    (h : tableWf bound l = true) : tableWf bound (tablePut l k a) = true := by
  rw [tableWf_iff] at h ⊢
  refine ⟨?_, ?_⟩
  · replace h := h.1
    induction l with
    | nil => simp [tablePut]
    | cons e rest ih =>
      obtain ⟨j, b⟩ := e
      simp only [List.map_cons, List.pairwise_cons] at h
      simp only [tablePut]
      split
      · rename_i hkj
        simp only [List.map_cons, List.pairwise_cons, List.mem_cons, forall_eq_or_imp]
        exact ⟨⟨hkj, fun x hx => Nat.lt_trans hkj (h.1 x hx)⟩, h.1, h.2⟩
      · split
        · rename_i hkj; subst hkj; simpa using h
        · rename_i h1 h2
          simp only [List.map_cons, List.pairwise_cons]
          refine ⟨fun x hx => ?_, ih h.2⟩
          rcases (mem_keys_tablePut rest k a x).1 hx with rfl | hx
          · omega
          · exact h.1 x hx
  · intro x hx
    rcases (mem_keys_tablePut l k a x).1 hx with rfl | hx
    · exact hk
    · exact h.2 x hx

/-- Freeing a key keeps the canonical form. -/
theorem tableWf_erase {α : Type} (bound : Nat) (l : List (Nat × α)) (k : Nat) (h : tableWf bound l = true) :
    tableWf bound (tableErase l k) = true := by
  rw [tableWf_iff] at h ⊢
  have hs : ((tableErase l k).map Prod.fst).Sublist (l.map Prod.fst) := List.filter_sublist.map _
  exact ⟨h.1.sublist hs, fun x hx => h.2 x (hs.subset hx)⟩

/-- A lot record set is read back, and every other handle reads as before. -/
theorem Kept.putLot_lot (k : Kept) (h : Nat) (l : Lot) (h' : Nat) :
    (k.putLot h l).lot h' = if h' = h then some l else k.lot h' := by
  by_cases e : h' = h
  · subst e; simp [Kept.putLot, Kept.lot]
  · simp [Kept.putLot, Kept.lot, tableGet_put_ne _ _ _ _ e, e]

/-- A freed handle has no record, and every other handle reads as before (R24). -/
theorem Kept.freeLot_lot (k : Kept) (h h' : Nat) : (k.freeLot h).lot h' = if h' = h then none else k.lot h' := by
  by_cases e : h' = h
  · subst e; simp [Kept.freeLot, Kept.lot]
  · simp [Kept.freeLot, Kept.lot, tableGet_erase_ne _ _ _ e, e]

/-- The machine after reset holds its lot table in canonical form. -/
theorem reset_lots_wf : tableWf Config.handles State.reset.kept.lots = true := rfl

/-- The lowest key from `n` up that a list in rising order does not hold: it is free, and every key between is held. -/
theorem lowestFree_spec {α : Type} (l : List (Nat × α)) (n : Nat) (h : (l.map Prod.fst).Pairwise (· < ·))
    (hn : ∀ k ∈ l.map Prod.fst, n ≤ k) :
    n ≤ lowestFree l n ∧ lowestFree l n ∉ l.map Prod.fst ∧ ∀ k, n ≤ k → k < lowestFree l n → k ∈ l.map Prod.fst := by
  induction l generalizing n with
  | nil => exact ⟨Nat.le_refl _, by simp, fun k h1 h2 => absurd h2 (Nat.not_lt.2 h1)⟩
  | cons e rest ih =>
    obtain ⟨j, a⟩ := e
    simp only [List.map_cons, List.pairwise_cons] at h
    simp only [lowestFree]
    split
    · rename_i hnj
      refine ⟨Nat.le_refl _, ?_, by omega⟩
      simp only [List.map_cons, List.mem_cons, not_or]
      refine ⟨by omega, fun hm => ?_⟩
      have := h.1 _ hm
      omega
    · rename_i hnj
      have hj : n ≤ j := hn j (by simp)
      obtain ⟨h1, h2, h3⟩ := ih (j + 1) h.2 fun k hk => h.1 k hk
      refine ⟨by omega, ?_, fun k hk1 hk2 => ?_⟩
      · simp only [List.map_cons, List.mem_cons, not_or]
        exact ⟨by omega, h2⟩
      · simp only [List.map_cons, List.mem_cons]
        by_cases hkj : k = j
        · exact .inl hkj
        · exact .inr (h3 k (by omega) hk2)

/-! ### The applied change (R37, R139, R140) -/

/-- The generation advances by one. -/
@[simp] theorem Kept.record_generation (k : Kept) (r : ChangeRecord) : (k.record r).generation = k.generation + 1 := rfl

/-- A record of a change touches the Journal and the generation alone. -/
theorem Kept.record_frame (k : Kept) (r : ChangeRecord) :
    k.record r = { k with generation := k.generation + 1, journal := (k.record r).journal } := by
  unfold Kept.record; rfl

/-- The lots are as they were. -/
@[simp] theorem Kept.record_lot (k : Kept) (r : ChangeRecord) (h : Nat) : (k.record r).lot h = k.lot h := by
  unfold Kept.record Kept.lot; rfl

/-- The Journal after a change: the entries so far and the new one, the newest 64 of them. -/
theorem Kept.record_journal (k : Kept) (r : ChangeRecord) :
    ∃ e : JournalEntry, e.generation = k.generation + 1 ∧ e.kind = r.kind ∧ e.handle = r.handle ∧ e.space = r.space ∧
      e.item = r.item ∧ e.port = r.port ∧ e.role = r.role ∧ e.overridden = r.overridden ∧
      (k.record r).journal = (k.journal ++ [e]).drop (k.journal.length + 1 - 64) := by
  refine ⟨{ generation := k.generation + 1, kind := r.kind, handle := r.handle, space := r.space, item := r.item,
            port := r.port, role := r.role, overridden := r.overridden }, rfl, rfl, rfl, rfl, rfl, rfl, rfl, rfl, ?_⟩
  simp [Kept.record, Config.journalCapacity]

/-! ### Arithmetic -/

/-- The value of a number held within bounds lies within them. -/
theorem clamp_within (lo hi z : Int) (h : lo ≤ hi) : lo ≤ clamp lo hi z ∧ clamp lo hi z ≤ hi := by
  unfold clamp
  split
  · exact ⟨Int.le_refl _, h⟩
  · split
    · exact ⟨h, Int.le_refl _⟩
    · omega

/-- A number within the bounds stands as it is. -/
theorem clamp_eq (lo hi z : Int) (h1 : lo ≤ z) (h2 : z ≤ hi) : clamp lo hi z = z := by
  unfold clamp
  split
  · omega
  · split
    · omega
    · rfl

/-! ### Halt reasons (R144, R161) -/

/-- A change of a crane's halt reasons in SERVICE: the reasons become `r`, the crane is HALTED or returns by them, and each port
is told by a PERMIT notice of the crane as it then stands; nothing else changes. -/
theorem State.withReasons_spec (s : State) (c : CraneNo) (r : Reasons) (h : r ≠ (s.craneLive c).reasons) (hp : s.part = .service) :
    let t := s.withReasons c r
    t = { s with
      kept.cranes := s.kept.cranes.set c.val ((s.craneState c).under r) c.isLt
      keptCheck := t.keptCheck
      vol.cranes := updAt s.vol.cranes c fun k => { k with reasons := r }
      vol.ports := t.vol.ports } ∧
    ∀ p, t.port p =
      (s.port p).pushNotice { kind := .permit, clock := s.clock, subject := c.val + 1, body := t.permitVals c } := by
  intro t
  have ht : t = ((s.onCrane c fun k => { k with reasons := r }).setCrane c ((s.craneState c).under r)).permitNotice c := by
    unfold t State.withReasons; rw [if_neg h]
  generalize hw : (s.onCrane c fun k => { k with reasons := r }).setCrane c ((s.craneState c).under r) = w at ht
  have hwp : w.part = .service := by rw [← hw]; exact hp
  have hi : w.permitNotice c = { w with vol.ports := (w.permitNotice c).vol.ports } := by
    unfold State.permitNotice State.issue; rw [if_pos hwp]
  have hi2 : ∀ p, (w.permitNotice c).port p =
      (w.port p).pushNotice { kind := .permit, clock := w.clock, subject := c.val + 1, body := w.permitVals c } := by
    intro p
    unfold State.permitNotice State.issue; rw [if_pos hwp]; simp [State.port, craneNum, notifyAll, State.notice]
  have hv : t.permitVals c = w.permitVals c := by rw [ht, hi]; rfl
  have hwport : ∀ p, w.port p = s.port p := by intro p; rw [← hw]; rfl
  have hclk : w.clock = s.clock := by rw [← hw]; rfl
  refine ⟨?_, fun p => ?_⟩
  · rw [ht]
    generalize hm : (w.permitNotice c).vol.ports = ports at hi
    generalize hkc : (w.permitNotice c).keptCheck = kc
    rw [hi] at hkc ⊢
    rw [← hkc, ← hw]
    rfl
  · rw [hv, ht, hi2, hwport, hclk]

end Sys2Proof.Machine
end

