-- ==== Sys2Proof/Laws/Checks.lean ====
section
/-!
SUPPORT. What each step of the constraint check answers, in the terms of Safety, and that the first failing step answers the
check (R42 to R46). The erasure of the book's check word by a BOOK-WRITE in service (R17).
-/
namespace Sys2Proof.Machine

/-! ### The table -/

/-- In a table in canonical form, a record stands in the list exactly when it is what its key reads as. -/
theorem mem_iff_tableGet {α : Type} (bound : Nat) (l : List (Nat × α)) (hl : tableWf bound l = true) (k : Nat) (a : α) :
    (k, a) ∈ l ↔ tableGet l k = some a := by
  have hp := ((tableWf_iff bound l).mp hl).1
  clear hl
  induction l with
  | nil => simp [tableGet]
  | cons e l ih =>
    obtain ⟨j, b⟩ := e
    simp only [List.map_cons, List.pairwise_cons] at hp
    rw [List.mem_cons, tableGet]
    split
    · rename_i hjk
      subst hjk
      constructor
      · rintro (h | h)
        · simp_all
        · have := hp.1 j (List.mem_map.mpr ⟨_, h, rfl⟩); omega
      · intro h; simp_all
    · have ih := ih hp.2
      refine ⟨?_, fun h => .inr (ih.mpr h)⟩
      rintro (h | h)
      · simp_all
      · exact ih.mp h

/-- What `find?` gives in a table in canonical form is the record of the lowest key that passes. -/
theorem find_lowest {α : Type} (bound : Nat) (l : List (Nat × α)) (hl : tableWf bound l = true) (p : Nat × α → Bool)
    (k : Nat) (a : α) :
    l.find? p = some (k, a) ↔
      tableGet l k = some a ∧ p (k, a) = true ∧ ∀ j b, j < k → tableGet l j = some b → p (j, b) = false := by
  have hp := ((tableWf_iff bound l).mp hl).1
  have hm := mem_iff_tableGet bound l hl
  rw [List.find?_eq_some_iff_append]
  constructor
  · rintro ⟨h1, as, bs, rfl, h2⟩
    refine ⟨(hm _ _).mp (by simp), h1, fun j b hj hb => ?_⟩
    have := (hm j b).mpr hb
    simp only [List.map_append, List.map_cons, List.pairwise_append, List.pairwise_cons] at hp
    rcases List.mem_append.mp this with h | h
    · simpa using h2 _ h
    · rcases List.mem_cons.mp h with h | h
      · simp_all
      · have := hp.2.1.1 j (List.mem_map.mpr ⟨_, h, rfl⟩); omega
  · rintro ⟨h1, h2, h3⟩
    refine ⟨h2, ?_⟩
    obtain ⟨as, bs, rfl⟩ := List.append_of_mem ((hm _ _).mpr h1)
    refine ⟨as, bs, rfl, fun e he => ?_⟩
    simp only [List.map_append, List.map_cons, List.pairwise_append, List.pairwise_cons] at hp
    have hlt := hp.2.2 e.1 (List.mem_map.mpr ⟨_, he, rfl⟩) k (by simp)
    have := h3 e.1 e.2 hlt ((hm _ _).mp (by simp [he]))
    simpa using this

/-! ### The steps -/

/-- Step 1 fails where the handle is free (R42). -/
theorem step1_some (s : State) (h : Nat) (r : Refused) :
    s.step1 h = some r ↔ s.kept.lot h = none ∧ r = (.unknownLot, .handle h) := by
  unfold State.step1
  cases s.kept.lot h <;> simp [eq_comm]

/-- A crane other than the excepted one reserves the lot (R42). -/
theorem reserved_true (s : State) (h : Nat) (own : Option CraneNo) : s.reserved h own = true ↔ s.reservedBy h own := by
  unfold State.reserved State.reservedBy
  simp only [List.any_eq_true, List.mem_finRange, true_and, Bool.and_eq_true, decide_eq_true_eq]
  refine exists_congr fun c => ?_
  rw [exists_and_left]
  refine and_congr Iff.rfl ?_
  match s.craneState c with
  | .idle => simp [CraneState.reserves]
  | .checking h d | .cleared h d | .lifting h d => simp [CraneState.reserves]
  | .halted f h d => cases f <;> simp [CraneState.reserves]

/-- Step 2 fails where the state is not allowed or a crane reserves the lot (R42). -/
theorem step2_some (s : State) (h : Nat) (allowed : Bool) (own : Option CraneNo) (r : Refused) :
    s.step2 h allowed own = some r ↔ (allowed = false ∨ s.reservedBy h own) ∧ r = (.wrongState, .handle h) := by
  rw [← reserved_true]
  unfold State.step2
  cases allowed <;> cases s.reserved h own <;> simp [eq_comm]

/-- Step 3 fails where the space does not exist or the position lies outside its bounds (R44). -/
theorem step3_some (s : State) (n : Nat) (q : Position) (r : Refused) :
    s.step3 n q = some r ↔ r = (.outOfSpace, .space n) ∧ ∀ b, s.spaceBook n = some b →
      ¬ (b.xAft ≤ q.a ∧ q.f ≤ b.xFore ∧ b.zFloor ≤ q.vcg ∧ q.vcg ≤ b.zCeiling ∧ b.yPort ≤ q.tcg ∧ q.tcg ≤ b.yStarboard) := by
  unfold State.step3
  cases s.spaceBook n with
  | none => simp [eq_comm]
  | some b =>
    have : inBounds b q = true ↔
        (b.xAft ≤ q.a ∧ q.f ≤ b.xFore ∧ b.zFloor ≤ q.vcg ∧ q.vcg ≤ b.zCeiling ∧ b.yPort ≤ q.tcg ∧ q.tcg ≤ b.yStarboard) := by
      simp [inBounds, within, and_assoc]
    simp only [Option.some.injEq, forall_eq', ← this]
    cases inBounds b q <;> simp [eq_comm]

/-- Step 4 fails where the change adds weight beyond the maximum of the space (R44). -/
theorem step4_some (s : State) (n : Nat) (x y : Int) (r : Refused) :
    s.step4 n x y = some r ↔ ∃ b, s.spaceBook n = some b ∧ b.maxWeight < y ∧ x < y ∧ r = (.spaceOverweight, .space n) := by
  unfold State.step4
  cases s.spaceBook n with
  | none => simp
  | some b =>
    by_cases h : b.maxWeight < y ∧ x < y
    · simp [h, eq_comm]
    · simp only [h, if_false, Option.some.injEq, exists_eq_left']
      constructor
      · intro h'; cases h'
      · rintro ⟨h1, h2, -⟩; exact absurd ⟨h1, h2⟩ h

/-- A lot is aboard unless it is ASHORE. -/
theorem aboard_iff (st : LotState) : st.aboard = true ↔ st.isAshore = false := by
  cases st <;> simp [LotState.aboard, LotState.isAshore]

/-- The segregation test of two lots (R45). -/
theorem forbidden_iff (value n m g g' : Nat) : forbidden value n m g g' = true ↔ forbids value n m g g' := by
  unfold forbidden forbids adjacent
  match value with
  | 0 | 1 | 2 | v + 3 => simp

/-- Step 5 fails where some lot clashes, and names the lowest that does (R45). -/
theorem step5_some (s : State) (hl : s.kept.lotsInv) (self : Option Nat) (i n : Nat) (r : Refused) :
    s.step5 self (some i) n = some r ↔
      ∃ j, s.clashes self i n j ∧ (∀ k < j, ¬ s.clashes self i n k) ∧ r = (.segregation, .handle j) := by
  have key : ∀ j l, s.kept.lot j = some l →
      ((decide (some j ≠ self) && l.state.aboard &&
        (match l.hazard with
         | none => false
         | some k => forbidden (s.book.segregationOf i k) n l.space (s.groupOf n) (s.groupOf l.space))) = true ↔
        s.clashes self i n j) := by
    intro j l hj
    unfold State.clashes
    rw [Bool.and_eq_true, Bool.and_eq_true, decide_eq_true_eq, aboard_iff, and_assoc]
    refine and_congr Iff.rfl ?_
    cases hh : l.hazard with
    | none => simp [hj, hh]
    | some k => simp [hj, hh, forbidden_iff]
  unfold State.step5
  simp only [Option.map_eq_some_iff]
  constructor
  · rintro ⟨⟨j, l⟩, h, rfl⟩
    rw [find_lowest _ _ hl.1] at h
    refine ⟨j, (key j l h.1).mp h.2.1, fun k hk hc => ?_, rfl⟩
    obtain ⟨-, m, -, hm, -⟩ := id hc
    have := h.2.2 k m hk hm
    exact absurd ((key k m hm).mpr hc) (Bool.eq_false_iff.mp this)
  · rintro ⟨j, hc, hlow, rfl⟩
    obtain ⟨-, l, -, hm, -⟩ := id hc
    refine ⟨(j, l), (find_lowest _ _ hl.1 _ _ _).mpr ⟨hm, (key j l hm).mpr hc, fun k m hk hm' => ?_⟩, rfl⟩
    rw [← Bool.not_eq_true]
    exact fun h => hlow k hk ((key k m hm').mp h)

/-- What `find?` gives is the first that passes. -/
theorem find_first {α : Type} (l : List α) (p : α → Bool) (a : α) :
    l.find? p = some a ↔ p a = true ∧ ∃ as bs, l = as ++ a :: bs ∧ ∀ x ∈ as, p x = false := by
  rw [List.find?_eq_some_iff_append]; simp

/-- A lot is STOWED with an intent and a time. -/
theorem isStowed_iff (st : LotState) : st.isStowed = true ↔ ∃ i t, st = .stowed i t := by
  cases st <;> simp [LotState.isStowed]

/-- A STOWED lot whose span overlaps that of another (R46). -/
theorem stowedOver_some (s : State) (l : Lot) (j : Nat) :
    s.stowedOver (some l.pos) j = true ↔ s.liesOver l j := by
  unfold State.stowedOver State.liesOver
  cases hj : s.kept.lot j with
  | none => simp
  | some m => simp [isStowed_iff, overlaps]

/-- A hatch cover of the lot's hold group that carries a STOWED lot (R46). -/
theorem covers_iff (s : State) (l : Lot) (n : Nat) :
    (n < 48 ∧ (decide (s.kindOf n = some .hatchcover) && decide (s.groupOf n = s.groupOf l.space) &&
          (s.kept.stowList n).any (s.stowedOver none)) = true) ↔ s.covers l n := by
  have h : ∀ j, s.stowedOver none j = true ↔ ∃ m i t, s.kept.lot j = some m ∧ m.state = .stowed i t := by
    intro j
    unfold State.stowedOver
    cases hj : s.kept.lot j with
    | none => simp
    | some m => simp [isStowed_iff]
  unfold State.covers
  simp only [Bool.and_eq_true, decide_eq_true_eq, List.any_eq_true, h, and_assoc]
  refine and_congr Iff.rfl (and_congr Iff.rfl (and_congr Iff.rfl ?_))
  constructor
  · rintro ⟨j, hj, m, i, t, hm⟩; exact ⟨j, m, i, t, hj, hm⟩
  · rintro ⟨j, m, i, t, hj, hm⟩; exact ⟨j, hj, m, i, t, hm⟩

/-- What follows the first occurrence of a handle in a list. -/
theorem dropWhile_ne (l : List Nat) (h : Nat) (after : List Nat) :
    (l.dropWhile fun j => decide (j ≠ h)).drop 1 = after ∧ h ∈ l ↔ ∃ before, l = before ++ h :: after ∧ h ∉ before := by
  induction l with
  | nil => simp
  | cons x l ih =>
    by_cases hx : x = h
    · subst hx
      simp only [ne_eq, not_true_eq_false, decide_false, Bool.false_eq_true, not_false_eq_true, List.dropWhile_cons_of_neg,
        List.drop_succ_cons, List.drop_zero, List.mem_cons, true_or, and_true]
      constructor
      · rintro rfl; exact ⟨[], by simp⟩
      · rintro ⟨before, h1, h2⟩
        match before, h1, h2 with
        | [], h1, _ => simpa using h1
        | y :: ys, h1, h2 => simp at h1 h2; exact absurd h1.1 h2.1
    · have : ((x :: l).dropWhile fun j => decide (j ≠ h)) = l.dropWhile fun j => decide (j ≠ h) := by
        rw [List.dropWhile_cons_of_pos]; simpa using hx
      rw [this, List.mem_cons, or_iff_right (by omega), ih]
      constructor
      · rintro ⟨before, rfl, h2⟩; exact ⟨x :: before, rfl, by simp [h2]; omega⟩
      · rintro ⟨before, h1, h2⟩
        match before, h1, h2 with
        | [], h1, _ => simp at h1; exact absurd h1.1 hx
        | y :: ys, h1, h2 => simp at h1 h2; exact ⟨ys, h1.2, h2.2⟩

/-- Nothing follows a handle that a list does not hold. -/
theorem dropWhile_absent (l : List Nat) (h : Nat) (hm : h ∉ l) : (l.dropWhile fun j => decide (j ≠ h)) = [] := by
  induction l with
  | nil => rfl
  | cons x l ih =>
    simp only [List.mem_cons, not_or] at hm
    rw [List.dropWhile_cons_of_pos (by simpa using fun h => hm.1 h.symm)]
    exact ih hm.2

/-- Step 6 fails where the lot is overstowed, and names what overstows it (R46). -/
theorem step6_some (s : State) (h : Nat) (r : Refused) :
    s.step6 h = some r ↔ ∃ v, s.overstowedBy h v ∧ r = (.overstowed, v) := by
  have key : ∀ v, s.overstowing h = some v ↔ s.overstowedBy h v := by
    intro v
    unfold State.overstowing State.overstowedBy
    cases hl : s.kept.lot h with
    | none => simp
    | some l =>
      simp only [Option.some.injEq, exists_eq_left']
      split
      · rename_i hk
        have split_iff := dropWhile_ne (s.kept.stowList l.space) h
        generalize hlater : ((s.kept.stowList l.space).dropWhile fun j => decide (j ≠ h)).drop 1 = later at split_iff
        have hcov : ∀ n, ((List.range 48).find? fun n =>
            decide (s.kindOf n = some .hatchcover) && decide (s.groupOf n = s.groupOf l.space) &&
              (s.kept.stowList n).any (s.stowedOver none)) = some n ↔ s.covers l n ∧ ∀ m < n, ¬ s.covers l m := by
          intro n
          simp only [List.find?_range_eq_some, List.mem_range, ← covers_iff]
          constructor
          · rintro ⟨h1, h2, h3⟩
            exact ⟨⟨h2, h1⟩, fun m hm hc => by
              have := h3 m hm
              rw [hc.2] at this
              cases this⟩
          · rintro ⟨⟨h1, h2⟩, h3⟩
            refine ⟨h2, h1, fun m hm => ?_⟩
            rw [Bool.not_eq_true']
            exact Bool.eq_false_iff.mpr fun hc => h3 m hm ⟨by omega, hc⟩
        have hcases : (∃ before, s.kept.stowList l.space = before ++ h :: later ∧ h ∉ before) ∨
            (later = [] ∧ h ∉ s.kept.stowList l.space) := by
          by_cases hm : h ∈ s.kept.stowList l.space
          · exact .inl ((split_iff later).mp ⟨rfl, hm⟩)
          · refine .inr ⟨?_, hm⟩
            rw [← hlater, dropWhile_absent _ _ hm]
            rfl
        have only : ∀ before after, s.kept.stowList l.space = before ++ h :: after → h ∉ before → after = later := by
          intro before after h1 h2
          exact (((split_iff after).mpr ⟨before, h1, h2⟩).1).symm
        cases hf : later.find? (s.stowedOver (some l.pos)) with
        | some j =>
          obtain ⟨h1, as, bs, h2, h3⟩ := (find_first _ _ _).mp hf
          simp only [Option.some.injEq]
          rcases hcases with ⟨before, hb1, hb2⟩ | ⟨hn, _⟩
          · constructor
            · rintro rfl
              refine ⟨hk, .inl ⟨before, as, j, bs, by rw [hb1, h2], hb2, (stowedOver_some s l j).mp h1, fun m hm hc => ?_, rfl⟩⟩
              have := h3 m hm
              rw [(stowedOver_some s l m).mpr hc] at this
              cases this
            · rintro ⟨-, ⟨b', as', j', bs', e1, e2, e3, e4, rfl⟩ | ⟨e, -⟩⟩
              · have := only b' _ e1 e2
                have hj : later.find? (s.stowedOver (some l.pos)) = some j' :=
                  (find_first _ _ _).mpr ⟨(stowedOver_some s l j').mpr e3, as', bs', this.symm, fun x hx =>
                    Bool.eq_false_iff.mpr fun hc => e4 x hx ((stowedOver_some s l x).mp hc)⟩
                rw [hf] at hj; cases hj; rfl
              · exact absurd ((stowedOver_some s l j).mp h1) (e before later hb1 hb2 j (by rw [h2]; simp))
          · rw [hn] at hf; cases hf
        | none =>
          have hn : ∀ j ∈ later, ¬ s.liesOver l j := by
            intro j hj hc
            have := List.find?_eq_none.mp hf j hj
            exact this ((stowedOver_some s l j).mpr hc)
          simp only [Option.map_eq_some_iff]
          constructor
          · rintro ⟨n, hn1, rfl⟩
            have hc := (hcov n).mp hn1
            refine ⟨hk, .inr ⟨fun before after e1 e2 j hj => ?_, n, hc.1, hc.2, rfl⟩⟩
            rw [only _ _ e1 e2] at hj
            exact hn j hj
          · rintro ⟨-, ⟨b', as', j', bs', e1, e2, e3, e4, rfl⟩ | ⟨-, n, c1, c2, rfl⟩⟩
            · exact absurd e3 (hn j' (by rw [← only _ _ e1 e2]; simp))
            · exact ⟨n, (hcov n).mpr ⟨c1, c2⟩, rfl⟩
      · rename_i hk
        simp [hk]
  unfold State.step6
  simp only [Option.map_eq_some_iff, key]
  exact exists_congr fun v => and_congr Iff.rfl eq_comm

/-- Step 7 fails where no handle is free and none can be freed (R24). -/
theorem step7_some (s : State) (hl : s.kept.lotsInv) (r : Refused) :
    s.step7 = some r ↔ (∀ h < 1024, s.kept.lot h ≠ none) ∧ s.kept.ashore = [] ∧ r = (.tableFull, .handle 0) := by
  have hp := (tableWf_iff _ _).mp hl.1
  obtain ⟨h1, h2, h3⟩ := lowestFree_spec s.kept.lots 0 hp.1 (fun _ _ => Nat.zero_le _)
  have hmem : ∀ h, s.kept.lot h ≠ none ↔ h ∈ s.kept.lots.map Prod.fst := by
    intro h
    rw [ne_eq, Option.eq_none_iff_forall_not_mem]
    simp only [Option.mem_def, Kept.lot, ← mem_iff_tableGet _ _ hl.1, List.mem_map, Prod.exists]
    constructor
    · intro hh
      exact Classical.byContradiction fun hc => hh fun a ha => hc ⟨h, a, ha, rfl⟩
    · rintro ⟨_, a, ha, rfl⟩ hh; exact hh a ha
  have key : (Config.handles ≤ lowestFree s.kept.lots 0) ↔ ∀ h < 1024, s.kept.lot h ≠ none := by
    constructor
    · intro hf h hh
      exact (hmem h).mpr (h3 h (Nat.zero_le _) (Nat.lt_of_lt_of_le hh hf))
    · intro hf
      apply Nat.le_of_not_lt
      intro hlt
      exact h2 ((hmem _).mp (hf _ hlt))
  unfold State.step7
  rw [← key]
  split
  · rename_i hc; simp [hc, eq_comm]
  · rename_i hc
    constructor
    · intro h; cases h
    · rintro ⟨h1, h2, -⟩; exact absurd ⟨h1, h2⟩ hc

/-! ### The check -/

/-- A check whose steps answer as the tests say, in their order, answers as the tests say. -/
theorem checksTo_of (s : State) (t : Tested) (o : Nat → Option Refused)
    (h : ∀ k r, s.stepFails t k r ↔ o k = some r) (h8 : ∀ k, k = 0 ∨ 8 ≤ k → o k = none) :
    s.checksTo t (firstRefusal [o 1, o 2, o 3, o 4, o 5, o 6, o 7]) := by
  have key : ∀ n, (∀ j < n, o j = none) → ∀ r, o n = some r →
      ∃ k, s.stepFails t k r ∧ ∀ j < k, ∀ r', ¬ s.stepFails t j r' := by
    intro n hn r hr
    refine ⟨n, (h n r).mpr hr, fun j hj r' hf => ?_⟩
    have := (h j r').mp hf
    rw [hn j hj] at this
    cases this
  have h0 := h8 0 (.inl rfl)
  unfold State.checksTo firstRefusal
  constructor
  · intro hnone k r hf
    simp only [List.findSome?_eq_none_iff, List.mem_cons, List.not_mem_nil, or_false, id, forall_eq_or_imp, forall_eq] at hnone
    obtain ⟨h1, h2, h3, h4, h5, h6, h7⟩ := hnone
    have := (h k r).mp hf
    have hk : o k = none := by
      by_cases hk : k = 0 ∨ 8 ≤ k
      · exact h8 k hk
      · match k, hk with
        | 1, _ | 2, _ | 3, _ | 4, _ | 5, _ | 6, _ | 7, _ => assumption
        | 0, hk => exact absurd (.inl rfl) hk
        | k + 8, hk => exact absurd (.inr (by omega)) hk
    rw [hk] at this; cases this
  · intro r hr
    have lt : ∀ n, (∀ j < n, o j = none) → o n = none → ∀ j < n + 1, o j = none := by
      intro n hn hn' j hj
      rcases Nat.lt_succ_iff_lt_or_eq.mp hj with hj | rfl
      · exact hn j hj
      · exact hn'
    have g1 := lt 0 (by simp) h0
    have step : ∀ n, (∀ j < n, o j = none) → ∀ rest, List.findSome? id (o n :: rest) = some r →
        (∃ k, s.stepFails t k r ∧ ∀ j < k, ∀ r', ¬ s.stepFails t j r') ∨
          ((∀ j < n + 1, o j = none) ∧ List.findSome? id rest = some r) := by
      intro n hn rest hr
      rw [List.findSome?_cons] at hr
      cases ho : o n with
      | none => exact .inr ⟨lt n hn ho, by simpa [ho] using hr⟩
      | some r' =>
        refine .inl (key n hn r ?_)
        simpa [ho] using hr
    rcases step 1 g1 _ hr with h | ⟨g2, hr⟩
    · exact h
    rcases step 2 g2 _ hr with h | ⟨g3, hr⟩
    · exact h
    rcases step 3 g3 _ hr with h | ⟨g4, hr⟩
    · exact h
    rcases step 4 g4 _ hr with h | ⟨g5, hr⟩
    · exact h
    rcases step 5 g5 _ hr with h | ⟨g6, hr⟩
    · exact h
    rcases step 6 g6 _ hr with h | ⟨g7, hr⟩
    · exact h
    rcases step 7 g7 _ hr with h | ⟨_, hr⟩
    · exact h
    cases hr

/-- The answer of one step of the constraint check to the tests of a row of Table 2-3; `ok` says whether step 2 allows the state
of the lot named. -/
def State.stepAnswer (s : State) (t : Tested) (ok : Bool) : Nat → Option Refused
  | 1 => t.lot.bind fun e => s.step1 e.1
  | 2 => t.lot.bind fun e => (s.kept.lot e.1).bind fun _ => s.step2 e.1 ok t.own
  | 3 => t.place.bind fun e => s.step3 e.1 e.2
  | 4 => t.weight.bind fun e => s.step4 e.1 e.2.1 e.2.2
  | 5 => t.hazard.bind fun e => s.step5 e.1 (some e.2.1) e.2.2
  | 6 => t.overstow.bind s.step6
  | 7 => if t.handles then s.step7 else none
  | _ => none

/-- Each step answers as the tests say. -/
theorem stepFails_iff (s : State) (hl : s.kept.lotsInv) (t : Tested) (ok : Bool)
    (hok : ∀ h p l, t.lot = some (h, p) → s.kept.lot h = some l → (ok = true ↔ p l.state)) (k : Nat) (r : Refused) :
    s.stepFails t k r ↔ s.stepAnswer t ok k = some r := by
  match k with
  | 0 => simp [State.stepFails, State.stepAnswer]
  | 1 => simp only [State.stepFails, State.stepAnswer, Option.bind_eq_some_iff, step1_some, Prod.exists]
  | 2 =>
    simp only [State.stepFails, State.stepAnswer, Option.bind_eq_some_iff, step2_some, Prod.exists]
    constructor
    · rintro ⟨h, p, l, h1, h2, h3, h4⟩
      refine ⟨h, p, h1, l, h2, h3.imp (fun h' => ?_) id, h4⟩
      rw [← hok h p l h1 h2] at h'
      simpa using h'
    · rintro ⟨h, p, h1, l, h2, h3, h4⟩
      refine ⟨h, p, l, h1, h2, h3.imp (fun h' => ?_) id, h4⟩
      rw [← hok h p l h1 h2, h']
      simp
  | 3 =>
    simp only [State.stepFails, State.stepAnswer, Option.bind_eq_some_iff, step3_some, Prod.exists]
  | 4 =>
    simp only [State.stepFails, State.stepAnswer, Option.bind_eq_some_iff, step4_some, Prod.exists]
    constructor
    · rintro ⟨n, x, y, b, h⟩; exact ⟨n, x, y, h.1, b, h.2⟩
    · rintro ⟨n, x, y, h1, b, h2⟩; exact ⟨n, x, y, b, h1, h2⟩
  | 5 =>
    simp only [State.stepFails, State.stepAnswer, Option.bind_eq_some_iff, step5_some s hl, Prod.exists]
    constructor
    · rintro ⟨self, i, n, j, h⟩; exact ⟨self, i, n, h.1, j, h.2⟩
    · rintro ⟨self, i, n, h1, j, h2⟩; exact ⟨self, i, n, j, h1, h2⟩
  | 6 =>
    simp only [State.stepFails, State.stepAnswer, Option.bind_eq_some_iff, step6_some]
    constructor
    · rintro ⟨h, v, h1, h2⟩; exact ⟨h, h1, v, h2⟩
    · rintro ⟨h, h1, v, h2⟩; exact ⟨h, v, h1, h2⟩
  | 7 =>
    simp only [State.stepFails, State.stepAnswer]
    cases t.handles <;> simp [step7_some s hl]
  | k + 8 => simp [State.stepFails, State.stepAnswer]

/-- The constraint check over the tests of a row of Table 2-3, step by step (R42). -/
theorem checksTo_steps (s : State) (hl : s.kept.lotsInv) (t : Tested) (ok : Bool)
    (hok : ∀ h p l, t.lot = some (h, p) → s.kept.lot h = some l → (ok = true ↔ p l.state)) :
    s.checksTo t
      (firstRefusal [s.stepAnswer t ok 1, s.stepAnswer t ok 2, s.stepAnswer t ok 3, s.stepAnswer t ok 4, s.stepAnswer t ok 5,
        s.stepAnswer t ok 6, s.stepAnswer t ok 7]) := by
  refine checksTo_of s t _ (stepFails_iff s hl t ok hok) fun k hk => ?_
  match k, hk with
  | 0, _ => rfl
  | k + 8, _ => rfl
  | 1, hk | 2, hk | 3, hk | 4, hk | 5, hk | 6, hk | 7, hk => omega

/-! ### A BOOK-WRITE in service -/

/-- A BOOK-WRITE of these fields is in service at the port (R17). -/
theorem State.bookWriteAt_iff (s : State) (p : Port) (sect entry : Nat) (vs : List Val) :
    s.bookWriteAt p = some (sect, entry, vs) ↔ s.writesBook p sect entry vs := by
  unfold State.bookWriteAt State.writesBook
  constructor
  · intro h
    split at h
    · rename_i r hp hi
      split at h
      · rename_i hc
        obtain ⟨vs', h1, h2⟩ := Option.map_eq_some_iff.mp h
        cases h2
        exact ⟨hp, r, _, _, hi, hc, h1⟩
      · cases h
    · cases h
  · rintro ⟨hp, r, q, record, hi, hc, h⟩
    simp only [hp, hi, hc, h, Option.map_some]

end Sys2Proof.Machine
end

