-- ==== Sys2Proof/Laws/Changes.lean ====
section
/-!
SUPPORT. What an amendment that the constraint check has passed does to the lots and the lists, in the terms of Safety (R24, R27
to R33), and what a sequence of notices leaves alone (R173).
-/
namespace Sys2Proof.Machine

/-! ### The stow sequence lists -/

/-- Setting a lot record leaves every list as it was. -/
@[simp] theorem Kept.putLot_stowList (k : Kept) (h : Nat) (l : Lot) (n : Nat) : (k.putLot h l).stowList n = k.stowList n := rfl

/-- A list as it reads after it is set. -/
theorem stow_set (v : Vector (List Nat) 48) (n m : Nat) (x : List Nat) (hn : n < 48) :
    ((v.setIfInBounds n x)[m]?).getD [] = if m = n then x else (v[m]?).getD [] := by
  rw [Vector.getElem?_setIfInBounds]
  by_cases h : m = n
  · subst h; simp [hn]
  · simp [h, Ne.symm h]

/-- A lot joins the tail of one space's list (R39). -/
theorem Kept.stowAppend_stowList (k : Kept) (n h m : Nat) (hn : n < 48) :
    (k.stowAppend n h).stowList m = if m = n then k.stowList m ++ [h] else k.stowList m := by
  unfold Kept.stowAppend
  show ((k.stow.setIfInBounds n _)[m]?).getD [] = _
  rw [stow_set _ _ _ _ hn]
  split
  · rename_i e; subst e; rfl
  · rfl

/-- A lot leaves one space's list (R39). -/
theorem Kept.stowRemove_stowList (k : Kept) (n h m : Nat) (hn : n < 48) :
    (k.stowRemove n h).stowList m = if m = n then (k.stowList m).filter fun j => j ≠ h else k.stowList m := by
  unfold Kept.stowRemove
  show ((k.stow.setIfInBounds n _)[m]?).getD [] = _
  rw [stow_set _ _ _ _ hn]
  split
  · rename_i e; subst e; rfl
  · rfl

/-! ### The handle of a new lot (R24) -/

/-- The handle a PLAN-LOAD takes is the lowest free one, or, with none free, the oldest ASHORE lot's, which leaves the list. -/
theorem Kept.takeHandle_spec (k : Kept) (hl : k.lotsInv) (hfree : (∃ h < 1024, k.lot h = none) ∨ k.ashore ≠ []) :
    let h := k.takeHandle.1
    let k' := k.takeHandle.2
    k' = { k with lots := k'.lots, ashore := k'.ashore } ∧ (∀ j, j ≠ h → k'.lot j = k.lot j) ∧
    ((h < 1024 ∧ k.lot h = none ∧ (∀ j < h, k.lot j ≠ none) ∧ k'.ashore = k.ashore) ∨
      ((∀ j < 1024, k.lot j ≠ none) ∧ k.ashore = h :: k'.ashore)) := by
  have hw := (tableWf_iff _ _).mp hl.1
  obtain ⟨-, hn, hb⟩ := lowestFree_spec k.lots 0 hw.1 fun _ _ => Nat.zero_le _
  have key : ∀ j, k.lot j ≠ none ↔ j ∈ k.lots.map Prod.fst := by
    intro j
    rw [Option.ne_none_iff_exists', List.mem_map]
    constructor
    · rintro ⟨a, ha⟩; exact ⟨(j, a), (mem_iff_tableGet _ _ hl.1 j a).mpr ha, rfl⟩
    · rintro ⟨⟨j', a⟩, ha, rfl⟩; exact ⟨a, (mem_iff_tableGet _ _ hl.1 _ a).mp ha⟩
  by_cases h : lowestFree k.lots 0 < 1024
  · have e : k.takeHandle = (lowestFree k.lots 0, k) := if_pos h
    rw [e]
    refine ⟨rfl, fun _ _ => rfl, .inl ⟨h, ?_, fun j hj => (key j).mpr (hb j (Nat.zero_le _) hj), rfl⟩⟩
    exact Classical.byContradiction fun hc => hn ((key _).mp hc)
  · have full : ∀ j < 1024, k.lot j ≠ none := fun j hj => (key j).mpr (hb j (Nat.zero_le _) (by omega))
    obtain ⟨x, rest, ha⟩ := List.exists_cons_of_ne_nil (hfree.resolve_left fun ⟨j, hj, hc⟩ => full j hj hc)
    have e : k.takeHandle = (x, { k.freeLot x with ashore := rest }) := by
      simp only [Kept.takeHandle, Config.handles, if_neg h, ha]
    rw [e]
    refine ⟨rfl, fun j hj => ?_, .inr ⟨full, ha⟩⟩
    show (k.freeLot x).lot j = _
    rw [Kept.freeLot_lot, if_neg hj]

/-! ### The amendments (R27 to R33) -/

/-- A passed check of several steps passed each. -/
theorem firstRefusal_none (steps : List (Option Refused)) (h : firstRefusal steps = none) : ∀ o ∈ steps, o = none := by
  simpa [firstRefusal, List.findSome?_eq_none_iff] using h

/-- Step 2 passes a lot in an allowed state. -/
theorem step2_none (s : State) (h : Nat) (allowed : Bool) (own : Option CraneNo) (hs : s.step2 h allowed own = none) :
    allowed = true := by
  unfold State.step2 at hs
  split at hs
  · rename_i hc; exact hc.1
  · cases hs

/-- An amendment that the constraint check passes has its effect on its lot and on the lists (R24, R27 to R33). -/
theorem State.amendKept_amendedTo (s : State) (am : Amendment) (p : Port) (role : Role) (hl : s.kept.lotsInv)
    (hc : s.checkAmendment am = none) : s.amendedTo (s.amendKept am p role) (s.amendTarget am) am p role := by
  have put : ∀ (h j : Nat) (l : Lot), j ≠ h → (s.kept.putLot h l).lot j = s.kept.lot j := fun h j l hj => by
    rw [Kept.putLot_lot, if_neg hj]
  have self : ∀ (h : Nat) (l : Lot), (s.kept.putLot h l).lot h = some l := fun h l => by rw [Kept.putLot_lot, if_pos rfl]
  cases am with
  | planLoad mark weight n q hazard =>
    have hfree : (∃ h < 1024, s.kept.lot h = none) ∨ s.kept.ashore ≠ [] := by
      have h7 := firstRefusal_none _ hc s.step7 (by simp)
      refine Classical.byContradiction fun hno => ?_
      have := (step7_some s hl (.tableFull, .handle 0)).mpr (by
        refine ⟨fun j hj hn => hno (.inl ⟨j, hj, hn⟩), Classical.byContradiction fun hne => hno (.inr hne), rfl⟩)
      rw [h7] at this; cases this
    obtain ⟨hframe, hlots, hcase⟩ := s.kept.takeHandle_spec hl hfree
    simp only [State.amendTarget, Amendment.handle, Option.getD_none, State.amendKept]
    generalize s.kept.takeHandle = r at *
    obtain ⟨h, k'⟩ := r
    simp only at hframe hlots hcase ⊢
    refine ⟨?_, fun j hj => ?_, fun m => ?_, hcase, ?_⟩
    · rw [hframe]; rfl
    · rw [Kept.putLot_lot, if_neg hj, hlots j hj]
    · rw [Kept.putLot_stowList, hframe]; rfl
    · rw [Kept.putLot_lot, if_pos rfl]
  | planShift g n q =>
    simp only [State.checkAmendment] at hc
    split at hc
    · cases hc
    rename_i l hlot
    have ha := step2_none _ _ _ _ (firstRefusal_none _ hc (s.step2 g ((Amendment.planShift g n q).allows l.state) none) (by simp))
    have hs : l.state = .planned := by revert ha; cases l.state <;> simp [Amendment.allows]
    simp only [State.amendKept, State.amendTarget, Amendment.handle, Option.getD_some, hlot]
    refine ⟨rfl, fun j hj => put _ _ _ hj, rfl, ⟨fun _ => rfl, rfl⟩, l, hlot, hs, ?_⟩
    rw [self]; simp [Amendment.after, Lot.from]
  | planCancel g =>
    simp only [State.checkAmendment] at hc
    split at hc
    · cases hc
    rename_i l hlot
    have ha := step2_none _ _ _ _ hc
    have hs : l.state = .planned := by revert ha; cases l.state <;> simp [Amendment.allows]
    refine ⟨rfl, fun j hj => ?_, rfl, ⟨fun _ => rfl, rfl⟩, ⟨l, hlot, hs⟩, ?_⟩
    · show (s.kept.freeLot g).lot j = _
      rw [Kept.freeLot_lot]
      exact if_neg hj
    · show (s.kept.freeLot g).lot g = _
      rw [Kept.freeLot_lot, if_pos rfl]
  | markDischarge g =>
    simp only [State.checkAmendment] at hc
    split at hc
    · cases hc
    rename_i l hlot
    have ha := step2_none _ _ _ _ hc
    obtain ⟨t, hs⟩ : ∃ t, l.state = .stowed .keep t := by
      revert ha; rcases l.state with _ | _ | _ | ⟨_ | _, t⟩ | _ <;> simp [Amendment.allows]
    simp only [State.amendKept, State.amendTarget, Amendment.handle, Option.getD_some, hlot]
    refine ⟨rfl, fun j hj => put _ _ _ hj, rfl, ⟨fun _ => rfl, rfl⟩, l, t, hlot, hs, ?_⟩
    rw [self]; simp [Amendment.after, Lot.from, hs]
  | unmark g =>
    simp only [State.checkAmendment] at hc
    split at hc
    · cases hc
    rename_i l hlot
    have ha := step2_none _ _ _ _ (firstRefusal_none _ hc (s.step2 g ((Amendment.unmark g).allows l.state) none) (by simp))
    obtain ⟨t, hs⟩ : ∃ t, l.state = .stowed .discharge t := by
      revert ha; rcases l.state with _ | _ | _ | ⟨_ | _, t⟩ | _ <;> simp [Amendment.allows]
    simp only [State.amendKept, State.amendTarget, Amendment.handle, Option.getD_some, hlot]
    refine ⟨rfl, fun j hj => put _ _ _ hj, rfl, ⟨fun _ => rfl, rfl⟩, l, t, hlot, hs, ?_⟩
    rw [self]; simp [Amendment.after, Lot.from, hs]
  | directStow g =>
    simp only [State.checkAmendment] at hc
    split at hc
    · cases hc
    rename_i l hlot
    have ha := step2_none _ _ _ _ (firstRefusal_none _ hc (s.step2 g ((Amendment.directStow g).allows l.state) none) (by simp))
    have hs : l.state = .planned := by revert ha; cases l.state <;> simp [Amendment.allows]
    simp only [State.amendKept, State.amendTarget, Amendment.handle, Option.getD_some, hlot]
    refine ⟨rfl, fun j hj => put _ _ _ hj, rfl, rfl, l, hlot, hs, ?_, fun m => ?_⟩
    · show (s.kept.putLot g _).lot g = _
      rw [self]; simp [Amendment.after, Lot.from]
    · rw [Kept.stowAppend_stowList _ _ _ _ (hl.2 g l hlot)]; rfl
  | restow g n q =>
    simp only [State.checkAmendment] at hc
    split at hc
    · cases hc
    rename_i l hlot
    have ha := step2_none _ _ _ _ (firstRefusal_none _ hc (s.step2 g ((Amendment.restow g n q).allows l.state) none) (by simp))
    have h3 := firstRefusal_none _ hc (s.step3 n q) (by simp)
    have hn : n < 48 := by
      refine Classical.byContradiction fun hge => ?_
      have : s.spaceBook n = none := by
        unfold State.spaceBook
        split
        · exact Vector.getElem?_eq_none (by omega)
        · rfl
      simp [State.step3, this] at h3
    obtain ⟨i, t, hs⟩ : ∃ i t, l.state = .stowed i t := by
      revert ha; cases l.state <;> simp [Amendment.allows]
    simp only [State.amendKept, State.amendTarget, Amendment.handle, Option.getD_some, hlot]
    refine ⟨rfl, fun j hj => put _ _ _ hj, rfl, rfl, l, i, t, hlot, hs, ?_, fun m => ?_⟩
    · show (s.kept.putLot g _).lot g = _
      rw [self]; simp [Amendment.after, Lot.from, hs]
    · rw [Kept.stowAppend_stowList _ _ _ _ hn, Kept.stowRemove_stowList _ _ _ _ (hl.2 g l hlot), Kept.putLot_stowList]
      split <;> simp
  | directRemove g =>
    simp only [State.checkAmendment] at hc
    split at hc
    · cases hc
    rename_i l hlot
    have ha := step2_none _ _ _ _ (firstRefusal_none _ hc (s.step2 g ((Amendment.directRemove g).allows l.state) none) (by simp))
    obtain ⟨i, t, hs⟩ : ∃ i t, l.state = .stowed i t := by
      revert ha; cases l.state <;> simp [Amendment.allows]
    simp only [State.amendKept, State.amendTarget, Amendment.handle, Option.getD_some, hlot]
    refine ⟨rfl, fun j hj => put _ _ _ hj, rfl, rfl, l, i, t, hlot, hs, ?_, fun m => ?_⟩
    · show (s.kept.putLot g _).lot g = _
      rw [self]; simp [Amendment.after, Lot.from]
    · show ((s.kept.putLot g _).stowRemove l.space g).stowList m = _
      rw [Kept.stowRemove_stowList _ _ _ _ (hl.2 g l hlot), Kept.putLot_stowList]
  | correctWeight g w =>
    simp only [State.checkAmendment] at hc
    split at hc
    · cases hc
    rename_i l hlot
    have ha := step2_none _ _ _ _ (firstRefusal_none _ hc (s.step2 g ((Amendment.correctWeight g w).allows l.state) none) (by simp))
    have hs : l.state = .planned ∨ ∃ i t, l.state = .stowed i t := by revert ha; cases l.state <;> simp [Amendment.allows]
    simp only [State.amendKept, State.amendTarget, Amendment.handle, Option.getD_some, hlot]
    refine ⟨rfl, fun j hj => put _ _ _ hj, rfl, ⟨fun _ => rfl, rfl⟩, l, hlot, hs, ?_⟩
    rw [self]
    rcases hs with hs | ⟨i, t, hs⟩ <;> simp [Amendment.after, Lot.from, hs]

/-! ### Sequences of notices -/

/-- Issuing no notice changes nothing. -/
@[simp] theorem State.issues_nil (s : State) : s.issues [] = s := rfl

/-- Notices are issued one after the other. -/
theorem State.issues_cons (s : State) (n : NoticeKind × Nat × List Val) (ns : List (NoticeKind × Nat × List Val)) :
    s.issues (n :: ns) = (s.issue n.1 n.2.1 n.2.2).issues ns := rfl

/-- Two sequences of notices, issued one after the other, are one sequence. -/
theorem State.issues_append (s : State) (ms ns : List (NoticeKind × Nat × List Val)) :
    s.issues (ms ++ ns) = (s.issues ms).issues ns := by simp [State.issues]

/-- Notices reach the ports alone (R173). -/
theorem State.issues_frame (s : State) (ns : List (NoticeKind × Nat × List Val)) :
    s.issues ns = { s with vol.ports := (s.issues ns).vol.ports } := by
  induction ns generalizing s with
  | nil => rfl
  | cons n ns ih => rw [State.issues_cons]; exact ih _

/-- What the crane's PERMIT notice shows is not changed by notices. -/
@[simp] theorem State.issues_permitVals (s : State) (ns : List (NoticeKind × Nat × List Val)) (c : CraneNo) :
    (s.issues ns).permitVals c = s.permitVals c := by rw [State.issues_frame]; rfl

/-- The PERMIT notices of several cranes are one sequence of notices (R152). -/
theorem State.permitNotices (s : State) (cs : List CraneNo) :
    cs.foldl State.permitNotice s = s.issues (cs.map fun c => (.permit, craneNum c, s.permitVals c)) := by
  have key : ∀ t : State, (∀ c, t.permitVals c = s.permitVals c) →
      cs.foldl State.permitNotice t = t.issues (cs.map fun c => (.permit, craneNum c, s.permitVals c)) := by
    induction cs with
    | nil => intro t _; rfl
    | cons c cs ih =>
      intro t h
      rw [List.foldl_cons, ih _ fun d => (h d ▸ rfl), List.map_cons, State.issues_cons, ← h c]; rfl
  exact key s fun _ => rfl

end Sys2Proof.Machine
end

