-- ==== Sys2Proof/Laws/Contributions.lean ====
section
/-!
SUPPORT. What the contributions of items and their sums are, part by part, in the terms of Safety (R41, R47, R75 to R79).
-/
namespace Sys2Proof.Machine

/-- The weight aft of a station follows the cases of R77. -/
theorem weightAft_aftOf (w a f xs : Int) : aftOf w a f xs (weightAft w a f xs) := by
  refine ⟨fun h => by simp [weightAft, h], fun h => ?_⟩
  have hne : a ≠ f := by omega
  simp only [weightAft, if_neg hne]
  refine ⟨fun h1 => if_pos h1, fun h1 => ?_, fun h1 h2 => ?_⟩
  · rw [if_neg (by omega), if_pos h1]
  · rw [if_neg (by omega), if_neg (by omega)]
    exact roundDiv_rounds _ _ (by omega)

/-- The contribution of an item is its parts (R76). -/
theorem contribution_contributes (b : Book) (w x z y a f fsm : Int) :
    (contribution b w x z y a f fsm).contributes b w x z y a f fsm := by
  refine ⟨rfl, rfl, rfl, rfl, rfl, fun k => ?_⟩
  simp only [contribution, Vector.getElem_map]
  exact weightAft_aftOf _ _ _ _

/-- A lot at its stow position contributes its weight there (R47). -/
theorem stowContribution_contributes (b : Book) (l : Lot) : (stowContribution b l).contributesStowed b l :=
  ⟨lcgOf l.pos, roundDiv_rounds _ _ (by decide), contribution_contributes _ _ _ _ _ _ _ _⟩

/-! ### Sums, part by part -/

/-- A part of a sum set that adds up: W, a moment sum, the free surface sum or a weight-aft sum. -/
def additive (part : SumSet → Int) : Prop :=
  part SumSet.zero = 0 ∧ (∀ a b : SumSet, part (a.add b) = part a + part b) ∧ ∀ a b : SumSet, part (a.sub b) = part a - part b

/-- Every part of a sum set adds up. -/
theorem additive_parts :
    additive SumSet.w ∧ additive SumSet.ml ∧ additive SumSet.mv ∧ additive SumSet.mt ∧ additive SumSet.fsm ∧
      ∀ k : Fin 21, additive fun c => c.wa[k.val] := by
  refine ⟨⟨rfl, fun _ _ => rfl, fun _ _ => rfl⟩, ⟨rfl, fun _ _ => rfl, fun _ _ => rfl⟩, ⟨rfl, fun _ _ => rfl, fun _ _ => rfl⟩,
    ⟨rfl, fun _ _ => rfl, fun _ _ => rfl⟩, ⟨rfl, fun _ _ => rfl, fun _ _ => rfl⟩, fun k => ⟨?_, fun a b => ?_, fun a b => ?_⟩⟩
  · simp [SumSet.zero]
  · simp [SumSet.add]
  · simp [SumSet.sub]

/-- A part of the sum of several contributions is the sum of the parts. -/
theorem total_part (part : SumSet → Int) (h : additive part) (cs : List SumSet) :
    part (SumSet.total cs) = (cs.map part).sum := by
  have key : ∀ acc : SumSet, part (cs.foldl SumSet.add acc) = part acc + (cs.map part).sum := by
    induction cs with
    | nil => intro acc; simp
    | cons c cs ih => intro acc; rw [List.foldl_cons, ih, h.2.1, List.map_cons, List.sum_cons]; omega
  rw [SumSet.total, key, h.1]; omega

/-- A part of a shifted sum set: less the old contributions, plus the new (R78). -/
theorem shiftSums_part (part : SumSet → Int) (h : additive part) (sums : SumSet) (olds news : List SumSet) :
    part (shiftSums sums olds news) = part sums - (olds.map part).sum + (news.map part).sum := by
  rw [shiftSums, h.2.1, h.2.2, total_part part h, total_part part h]

/-- Sum sets with the same parts are the same. -/
theorem SumSet.ext_parts (a b : SumSet) (h : ∀ part, additive part → part a = part b) : a = b := by
  have hp := additive_parts
  have hw : a.wa = b.wa := Vector.ext fun i hi => h _ (hp.2.2.2.2.2 ⟨i, hi⟩)
  have h1 := h _ hp.1
  have h2 := h _ hp.2.1
  have h3 := h _ hp.2.2.1
  have h4 := h _ hp.2.2.2.1
  have h5 := h _ hp.2.2.2.2.1
  clear h hp
  cases a; cases b
  dsimp only at h1 h2 h3 h4 h5 hw
  subst h1 h2 h3 h4 h5 hw
  rfl

/-- A change that leaves a contribution as it was leaves the sums (R78). -/
theorem shiftSums_same (sums c : SumSet) : shiftSums sums [c] [c] = sums :=
  SumSet.ext_parts _ _ fun part h => by rw [shiftSums_part part h]; omega

/-- A part of a set built afresh: the lightship and every item (R79). -/
theorem built_part (part : SumSet → Int) (h : additive part) (s : State) (item : Item → SumSet) :
    part ((SumSet.total (s.items.map item)).add (lightship s.book.hull)) =
      part (lightship s.book.hull) +
        ((s.kept.lots.map fun e => part (item (.lot e.1))).sum + ((List.finRange 32).map fun t => part (item (.tank t))).sum +
          ((List.finRange 16).map fun i => part (item (.fixed i))).sum +
          ((List.finRange 4).map fun k => part (item (.hook k))).sum) := by
  rw [h.2.1, total_part part h]
  simp only [State.items, List.map_append, List.map_map, List.sum_append]
  rw [Int.add_comm]; rfl

/-! ### The weights of a space (R41) -/

/-- A key that no record has reads as none. -/
theorem tableGet_absent {α : Type} (l : List (Nat × α)) (k : Nat) (h : k ∉ l.map Prod.fst) : tableGet l k = none := by
  induction l with
  | nil => rfl
  | cons e l ih =>
    obtain ⟨j, b⟩ := e
    simp only [List.map_cons, List.mem_cons, not_or] at h
    rw [tableGet, if_neg (Ne.symm h.1), ih h.2]

/-- The sum over the keys from `n` on, below a bound, of the records of a table in rising order. -/
theorem sum_records_from {α : Type} (f : α → Int) (d n : Nat) (l : List (Nat × α)) (hp : (l.map Prod.fst).Pairwise (· < ·))
    (hn : ∀ k ∈ l.map Prod.fst, n ≤ k ∧ k < n + d) :
    (l.map fun e => f e.2).sum = ((List.range' n d).map fun h => ((tableGet l h).map f).getD 0).sum := by
  induction d generalizing n l with
  | zero =>
    match l with
    | [] => rfl
    | (j, a) :: rest => have := hn j (by simp); omega
  | succ d ih =>
    rw [List.range'_succ, List.map_cons, List.sum_cons]
    by_cases h : n ∈ l.map Prod.fst
    · match l with
      | (j, a) :: rest =>
        have hp' := hp
        simp only [List.map_cons, List.pairwise_cons] at hp'
        have hj : j = n := by
          rcases List.mem_cons.mp h with e | e
          · exact e.symm
          · have := hp'.1 n e; have := (hn j (by simp)).1; omega
        subst hj
        have hm : ∀ h ∈ List.range' (j + 1) d, ((tableGet ((j, a) :: rest) h).map f).getD 0 = ((tableGet rest h).map f).getD 0 := by
          intro h hh
          have := (List.mem_range'_1.mp hh).1
          rw [tableGet, if_neg (by omega)]
        rw [List.map_congr_left hm, ← ih (j + 1) rest hp'.2 fun k hk => ?_]
        · simp [tableGet]
        · have := hp'.1 k hk; have := hn k (by simp only [List.map_cons, List.mem_cons]; exact .inr hk); omega
    · rw [← ih (n + 1) l hp fun k hk => ?_]
      · rw [tableGet_absent l n h]; simp
      · have := hn k hk
        have : k ≠ n := fun e => h (e ▸ hk)
        omega

/-- In a table in canonical form, a sum over the records is the sum over the handles. -/
theorem sum_records {α : Type} (bound : Nat) (l : List (Nat × α)) (hl : tableWf bound l = true) (f : α → Int) :
    (l.map fun e => f e.2).sum = ((List.range bound).map fun h => ((tableGet l h).map f).getD 0).sum := by
  have hw := (tableWf_iff _ _).mp hl
  rw [List.range_eq_range', sum_records_from f bound 0 l hw.1 fun k hk => ⟨Nat.zero_le _, by have := hw.2 k hk; omega⟩]

/-- The weight of the lots that pass a test, as a sum over the handles. -/
theorem weightOf_sum (k : Kept) (hl : k.lotsInv) (test : Lot → Bool) :
    weightOf k.lots test =
      ((List.range 1024).map fun h => ((k.lot h).map fun l => if test l then l.weight else 0).getD 0).sum := by
  have h := sum_records Config.handles k.lots hl.1 fun l => if test l then l.weight else 0
  refine Eq.trans ?_ h
  unfold weightOf
  generalize k.lots = t
  induction t with
  | nil => rfl
  | cons e t ih =>
    rw [List.filter_cons, List.map_cons, List.sum_cons]
    split
    · rename_i h; rw [List.map_cons, List.sum_cons, ih]
    · rename_i h; rw [ih]; simp

/-- The number of the lots that pass a test, as a sum over the handles. -/
theorem count_sum (k : Kept) (hl : k.lotsInv) (test : Lot → Bool) :
    ((k.lots.filter fun e => test e.2).length : Int) =
      ((List.range 1024).map fun h => ((k.lot h).map fun l => if test l then 1 else 0).getD 0).sum := by
  have h := sum_records Config.handles k.lots hl.1 fun l => if test l then (1 : Int) else 0
  refine Eq.trans ?_ h
  generalize k.lots = t
  induction t with
  | nil => rfl
  | cons e t ih =>
    rw [List.filter_cons, List.map_cons, List.sum_cons, ← ih]
    split
    · simp; omega
    · simp

end Sys2Proof.Machine
end

