-- ==== Sys2Proof/Tests/Slice0.lean ====
section
/-!
SUPPORT. Tests of the model: an ill-formed term for each well-formedness check, check words, the spec's own worked figures,
one or two small steps for each command, and for each statement a state and operands that meet the hypotheses of each of its
clauses.
-/

-- One theorem at a time: each kernel evaluation otherwise holds a thread of its own.
set_option Elab.async false

namespace Sys2Proof.Tests

open Sys2Proof Sys2Proof.Machine

/-! ### States to test on -/

/-- A stow space of hold group `g` and kind `k` over an x range. -/
def space (g k : Nat) (x0 x1 : Int) : Space :=
  { group := g, kind := k, xAft := x0, xFore := x1, zFloor := 0, zCeiling := 20000, yPort := -10000, yStarboard := 10000,
    maxWeight := 40000 }

/-- A book that passes its checks: a hold and its hatch cover in hold group 1, a deck in hold group 2, one tank, two cranes,
one fixed item, and ports OFFICER, PLANNER, CRANE for crane 1, GAUGE, SHORE and UNUSED. -/
def book : Book :=
  { Book.blank with
    hull := { lbp := 120000, weight := 40000, lcg := 52000, vcg := 8000, tcg := 0, wa := Vector.ofFn fun k => 2000 * (k.val : Int) }
    hydroCount := 2
    hydro :=
      (Book.blank.hydro.set 0
        { disp := 30000, tlcf := 2000, kmt := 9000, lcb := 60000, lcf := 60000, mctc := 1000, tpc := 200
          bf := Vector.ofFn fun k => 50000 * (k.val : Int) }).set 1
        { disp := 200000, tlcf := 9000, kmt := 8800, lcb := 60000, lcf := 60000, mctc := 2000, tpc := 300
          bf := Vector.ofFn fun k => 50000 * (k.val : Int) }
    crossCount := 2
    cross :=
      (Book.blank.cross.set 0 { disp := 30000, kn := Vector.ofFn fun k => 800 * (k.val : Int) }).set 1
        { disp := 200000, kn := Vector.ofFn fun k => 900 * (k.val : Int) }
    stations := Vector.ofFn fun k =>
      { x := 6000 * (k.val : Int), shearHarbour := 100000, shearSea := 90000, hogHarbour := 100000, sagHarbour := 100000
        hogSea := 90000, sagSea := 90000 }
    spaceCount := 3
    spaces := ((Book.blank.spaces.set 0 (space 1 0 20000 40000)).set 1 (space 1 2 20000 40000)).set 2 (space 2 3 40000 60000)
    tankCount := 1
    tanks := Book.blank.tanks.set 0
      { consts := { xAft := 10000, xFore := 20000, depth := 5000, capacity := 1000, refDensity := 10000, defDensity := 10250
                    rate := 10, margin := 100, freshness := 60, points := 2 }
        points := (Vector.replicate 24 { sounding := 0, volume := 0, lcg := 15000, vcg := 0, tcg := 0, fsm := 0 }).set 1
          { sounding := 5000, volume := 1000, lcg := 15000, vcg := 2500, tcg := 300, fsm := 5000 } }
    channels := { draftFresh := 60, heelFresh := 60, draftTolerance := 100, heelTolerance := 100, modes := Vector.replicate 39 0 }
    craneCount := 2
    cranes := Vector.replicate 4
      { swl := 50000, reach := 3, pedestalX := 50000, pedestalY := 0, outreach := 60000, freshness := 5000, heelLimit := 900
        hysteresis := 100, gmMin := 200, tolerance := 20, threshold := 10 }
    criteria := { enable := Vector.replicate 12 0, gmMin := 100, area30 := 10, area40 := 10, area3040 := 10, gz30 := 10
                  maxAngle := 2500, listMax := 500, draftMax := 9000 }
    ports := #v[{ role := 0, cranes := 0 }, { role := 1, cranes := 0 }, { role := 2, cranes := 1 }, { role := 3, cranes := 0 },
      { role := 4, cranes := 0 }, { role := 5, cranes := 0 }]
    fixedCount := 1
    fixed := Book.blank.fixed.set 0 { label := [0x41], weight := 100, x := 50000, z := 1000, y := 10, presence := 0 } }

/-- The engine in SERVICE on that book with an emptied condition and every job idle. -/
def service : State :=
  { State.reset with
    part := .service
    checking := false
    book := book
    bookStatus := .valid
    kept := Kept.emptied book
    keptCheck := some (Kept.emptied book).word
    vol.livePending := false
    vol.planPending := false }

/-- The engine in COMMISSION on that book. -/
def commission : State := { service with part := .commission, bookStatus := .unchecked }

/-- A stow position in the hold. -/
def position : Position := { a := 20000, f := 26000, vcg := 5000, tcg := 0 }

/-- A lot of weight 900 in a state, at that position of a space. -/
def lot (st : LotState) (space : Nat) : Lot :=
  { mark := [0x41], state := st, declared := 900, verified := none, space := space, pos := position, hazard := none
    originPort := 0, originRole := .officer }

/-- SERVICE with lot 0 PLANNED and lot 1 STOWED for KEEP in the hold, lot 2 ASHORE, and lot 3 STOWED for DISCHARGE in the hold. -/
def loaded : State :=
  { service with
    kept.lots := [(0, lot .planned 0), (1, lot (.stowed .keep 0) 0), (2, lot (.ashore 0) 0), (3, lot (.stowed .discharge 0) 0)]
    kept.stow := (Vector.replicate 48 []).set 0 [1, 3]
    kept.ashore := [2] }

/-- The request `c` alone in the queue of a port. -/
def holding (s : State) (p : Port) (c : Instr) : State :=
  match encodeRequest c with
  | some (kind, payload) =>
    s.onPort p fun q => { q with requests := [{ kind := kind, tag := 7, payload := payload, orphaned := false }] }
  | none => s

/-- The state after a command. -/
def after (s : State) (c : Instr) : State :=
  match exec c s with
  | .next t => t
  | .fault _ => s
  | .refused _ => s

/-- The state after the service of the request `c` at a port. -/
def ask (s : State) (p : Port) (c : Instr) : State := after (holding s p c) c

/-- The status and the body of the reply that a port is sending. -/
def sending (s : State) (p : Port) : Option (Status × List Val) :=
  match (s.port p).line with
  | some (.reply r) => some (r.status, r.body)
  | _ => none

/-- The reply to the request `c` at a port. -/
def reply (s : State) (p : Port) (c : Instr) : Option (Status × List Val) := sending (ask s p c) p

/-- A crane put in a state. -/
def craneIn (s : State) (k : CraneState) : State := s.setCrane 0 k

/-- A link of hold group 1 on the hold. -/
def link (p : Port) (am : Option Amendment) : Link :=
  { owner := p, target := 0, staged := am, committing := false, override := false }

/-- A snapshot of the state for a pass. -/
def snap (s : State) : Snapshot := s.snapshot s.builtLive none

/-- A pass of the kind runs on the state's own snapshot. -/
def running (s : State) (k : PassKind) : State := { s with vol.running := some { kind := k, snap := snap s } }

/-! ### Well-formed commands: one ill-formed term for each check -/

theorem test_wf_refuses_byte : (Instr.claim 0 256).wf = false ∧ (Instr.claim 0 255).wf = true := by decide
theorem test_wf_refuses_word : (Instr.lotRead 0 65536).wf = false ∧ (Instr.lotRead 0 65535).wf = true := by decide
theorem test_wf_refuses_number32 :
    (Instr.tallySet 0 0 4294967296).wf = false ∧ (Instr.tallySet 0 0 4294967295).wf = true := by decide
theorem test_wf_refuses_number64 :
    (Instr.readJournal 0 18446744073709551616).wf = false ∧ (Instr.readJournal 0 18446744073709551615).wf = true := by decide
theorem test_wf_refuses_signed :
    (Instr.tankManual 0 0 2147483648).wf = false ∧ (Instr.tankManual 0 0 (-2147483649)).wf = false ∧
    (Instr.tankManual 0 0 (-2147483648)).wf = true := by decide
theorem test_wf_refuses_position : (Instr.stage 0 1 (.planShift 0 0 { position with f := 2147483648 })).wf = false := by decide
theorem test_wf_refuses_point : (Instr.clearRequest 2 1 0 0 { x := 0, z := 0, y := 2147483648 }).wf = false := by decide
theorem test_wf_refuses_hazard :
    (Instr.stage 0 1 (.planLoad [] 1 0 position (some 256))).wf = false ∧
    (Instr.stage 0 1 (.planLoad [] 1 0 position (some 255))).wf = true := by decide
theorem test_wf_refuses_mark :
    (Instr.stage 0 1 (.planLoad (List.replicate 225 0) 1 0 position none)).wf = false ∧
    (Instr.stage 0 1 (.planLoad (List.replicate 224 0) 1 0 position none)).wf = true := by decide +kernel
theorem test_wf_refuses_fill : (Instr.tankPlan 0 0 (some 2147483648)).wf = false := by decide
theorem test_wf_refuses_reading_form :
    (Instr.readingReport 3 35 (.level 0)).wf = false ∧ (Instr.readingReport 3 34 (.hook 0 0 0 0)).wf = false ∧
    (Instr.readingReport 3 34 (.level 0)).wf = true ∧ (Instr.readingReport 3 35 (.hook 0 0 0 0)).wf = true := by decide
theorem test_wf_refuses_control :
    (Instr.tallyControl 0 0
      { cls := 0, subevents := 0, roles := 0, groups := 0, inhibit := 0, notice := 0, readable := 256 }).wf = false := by decide
theorem test_wf_refuses_release_as_set : (Instr.stopVoteSet 0 1 1).wf = false ∧ (Instr.stopVoteSet 0 1 0).wf = true := by decide
theorem test_wf_refuses_record :
    (Instr.bookWrite 0 2 0 [0]).wf = false ∧ (Instr.bookWrite 0 2 0 [0, 2]).wf = true ∧
    (Instr.bookWrite 0 99 0 (List.replicate 248 0)).wf = false := by decide +kernel

/-! ### Frames: bytes written out from Tables 9-1, 9-4 and 9-5, check words from their published check values -/

theorem test_crc16_check_value : crc16 [0x31, 0x32, 0x33, 0x34, 0x35, 0x36, 0x37, 0x38, 0x39] = 0x29B1 := by decide +kernel
theorem test_crc32_check_value : crc32 [0x31, 0x32, 0x33, 0x34, 0x35, 0x36, 0x37, 0x38, 0x39] = 0xCBF43926 := by decide +kernel
theorem test_frame_bytes : frameBytes 0x13 5 [1] = [0x7E, 0x00, 0x03, 0x13, 0x05, 0x01, 0x7F, 0x37] := by decide +kernel
theorem test_word_tank_manual : commandOf 0 0x18 [0x02, 0xFF, 0xFF, 0xFF, 0xFE] = .tankManual 0 2 (-2) := by decide +kernel
theorem test_word_stage :
    commandOf 0 0x14 [0x01, 0x08, 0x01, 0x02, 0x00, 0x00, 0x03, 0x84] = .stage 0 1 (.correctWeight 258 900) := by decide +kernel
theorem test_word_tank_plan :
    commandOf 1 0x1A [0x03, 0x00] = .tankPlan 1 3 none ∧
    commandOf 1 0x1A [0x03, 0x01, 0x00, 0x00, 0x01, 0x00] = .tankPlan 1 3 (some 256) := by decide +kernel
theorem test_word_stop_vote :
    commandOf 2 0x25 [0x01, 0x00] = .stopVoteSet 2 1 0 ∧ commandOf 2 0x25 [0x01, 0x01] = .stopVoteRelease 2 1 := by decide +kernel
theorem test_word_channel_mode :
    commandOf 0 0x1C [0x00, 0x05, 0x02] = .channelModeChannel 0 5 2 ∧
    commandOf 0 0x1C [0x01, 0x08] = .channelModeQueueLevel 0 8 := by decide +kernel
theorem test_word_reading :
    reportOf 2 0x60 [0x23, 0x00, 0x00, 0x01, 0x00, 0x00, 0x00, 0x00, 0x07, 0xFF, 0xFF, 0xFF, 0xFD, 0x00, 0x00, 0x00, 0x09] =
      some (.readingReport 2 35 (.hook 256 7 (-3) 9)) := by decide +kernel
theorem test_word_too_long : commandOf 0 0x02 [0x00] = .unknownRequest 0 := by decide +kernel

/-- The characters of a reply and of a LINK-TAKEN notice, written out from Tables 9-1 to 9-5 and R128. -/
theorem test_line_bytes :
    (service.onPort 0 fun q => { q with line := some (.reply { kind := 0x82, tag := 1, status := .done, body := [] }) }).lineBytes 0 =
      [0x7E, 0x00, 0x03, 0x82, 0x01, 0x00, 0xEC, 0xDB] ∧
    (service.onPort 0 fun q =>
      { q with line := some (.notice { kind := .linkTaken, clock := 1000, subject := 0, body := [.u8 1, .u8 0, .u8 4] }) }).lineBytes
        0 = [0x7E, 0x00, 0x0A, 0xE6, 0x00, 0x00, 0x00, 0x03, 0xE8, 0x00, 0x01, 0x00, 0x04, 0xDA, 0x2D] ∧
    service.lineBytes 0 = [] := by decide +kernel

/-! ### The spec's worked figures -/

/-- The table of 04, weight aft of a span and of a point. -/
theorem test_weight_aft :
    [34000, 40000, 42000, 46000].map (weightAft 4500 36000 44000) = [0, 2250, 3375, 4500] ∧
    [34000, 40000, 42000, 46000].map (weightAft 300 40000 40000) = [0, 0, 300, 300] ∧
    [1, 2].map (weightAft 1001 0 3) = [334, 667] := by decide

/-- The tank of 03, a sounding of 3 100 converted. -/
theorem test_tank_conversion :
    let t : TankBook :=
      { consts := { xAft := 0, xFore := 0, depth := 12000, capacity := 8000, refDensity := 10250, defDensity := 10250, rate := 1
                    margin := 0, freshness := 1, points := 2 }
        points := (Vector.replicate 24
          { sounding := 2000, volume := 1100, lcg := 40300, vcg := 900, tcg := -1800, fsm := 4200 }).set 1
          { sounding := 4000, volume := 2300, lcg := 40250, vcg := 1900, tcg := -1750, fsm := 4400 } }
    (t.convert 3100) = { sounding := 3100, volume := 1760, lcg := 40272, vcg := 1450, tcg := -1772, fsm := 4310 } ∧
    (t.contents 3100 10250).weight = 1804 ∧ (t.contents 3100 10250).fsm = 4310 := by decide +kernel

/-- The rate test of 03. -/
theorem test_rate :
    let t : TankConstants :=
      { xAft := 0, xFore := 0, depth := 12000, capacity := 1, refDensity := 1, defDensity := 1, rate := 20, margin := 50
        freshness := 1, points := 2 }
    let r : Reference := { value := .level 3100, arrival := 100000, doubtful := false }
    rateOk t (some r) 3260 105000 = false ∧ rateOk t (some r) 3260 106000 = true ∧ rateOk t none 12040 106000 = true := by
  decide +kernel

/-- The book of the worked case of 04 and 05, as far as a pass reads it. -/
def workedBook : Book :=
  let bf : Vector Int 21 := #v[0, 15000, 50000, 98000, 154000, 215000, 278000, 342000, 407000, 472000, 537000, 601000, 664000,
    724000, 781000, 834000, 883000, 926000, 962000, 988000, 1000000]
  let shear : Vector Int 21 := #v[2000, 3000, 4000, 4500, 4950, 5000, 5000, 5000, 5000, 5000, 5000, 5000, 5000, 5000, 5000, 4500,
    4000, 3500, 3000, 2500, 2000]
  let hog : Vector Int 21 := #v[1000, 2000, 4000, 7000, 9000, 11000, 12500, 13500, 14000, 14000, 14000, 14000, 13500, 12000,
    10000, 8000, 6000, 4500, 3000, 1500, 1000]
  let sag : Vector Int 21 := #v[1000, 2000, 4000, 6000, 8000, 9500, 10500, 11500, 12000, 12000, 12000, 12000, 11500, 10500,
    9000, 7000, 5000, 4000, 2500, 1500, 1000]
  { Book.blank with
    hull := { Book.blank.hull with lbp := 120000 }
    hydroCount := 3
    hydro := ((Book.blank.hydro.set 0
      { disp := 90000, tlcf := 6200, kmt := 8900, lcb := 52400, lcf := 50800, mctc := 1500, tpc := 1, bf := bf }).set 1
      { disp := 92000, tlcf := 6310, kmt := 8880, lcb := 52380, lcf := 50760, mctc := 1520, tpc := 1, bf := bf }).set 2
      { disp := 140000, tlcf := 9000, kmt := 8880, lcb := 52380, lcf := 50760, mctc := 1520, tpc := 1, bf := bf }
    trim := #v[0, 2000, 5000, 8000, 11000, 13000, 15000, 16000, 17000, 18000, 18000, 18000, 17000, 16000, 15000, 13000, 11000,
      8000, 5000, 2000, 0]
    crossCount := 2
    cross := (Book.blank.cross.set 0 { disp := 90000, kn := #v[0, 780, 1560, 2340, 3110, 4700, 6040, 6880, 7280] }).set 1
      { disp := 92000, kn := #v[0, 768, 1528, 2300, 3070, 4688, 6080, 6960, 7360] }
    stations := Vector.ofFn fun k =>
      { x := 6000 * (k.val : Int), shearHarbour := shear[k], shearSea := shear[k], hogHarbour := hog[k], sagHarbour := sag[k]
        hogSea := hog[k], sagSea := sag[k] }
    channels := { draftFresh := 1, heelFresh := 1, draftTolerance := 50, heelTolerance := 50, modes := Vector.replicate 39 0 }
    criteria := { enable := Vector.replicate 12 1, gmMin := 150, area30 := 55, area40 := 90, area3040 := 30, gz30 := 200
                  maxAngle := 2500, listMax := 500, draftMax := 7800 } }

/-- The LIVE snapshot of the worked case. -/
def workedSnap : Snapshot :=
  { sums :=
      { w := 90500, ml := 4679000000, mv := 674800000, mt := 1800000, fsm := 18000
        wa := #v[0, 2860, 7360, 12360, 17860, 22860, 27360, 32450, 38450, 43950, 48450, 52850, 57350, 63400, 69900, 75000, 79000,
          82500, 85500, 87900, 90500] }
    notEstablished := false
    mode := .harbour
    generation := 1201
    clock := 0
    observed := some
      { forward := { value := some 5990, state := .active, stale := false }
        aft := { value := some 6420, state := .active, stale := false }
        heel := { value := some 110, state := .active, stale := false }
        held := false } }

/-- The worked case of 04 and 05: every figure, every criterion passed and every flag clear. -/
theorem test_worked_case :
    evaluate workedBook workedSnap =
      { w := 90500, ta := 6404, tf := 5987, tmean := 6196, trim := 417, list := 92, kgc := 7655, fsc := 199, gm := 1240
        gz := #v[-20, 89, 203, 330, 463, 852, 1114, 1023, 661], area30 := 188, area3040 := 172, area40 := 360, angle := 4000
        shearStation := 3, shearPercent := 71, bendStation := 9, bendPercent := 75, fails := Vector.replicate 12 false
        flags := { hydroRange := false, crossRange := false, listClamp := false, gmNonpos := false, heldData := false
                   draftDisagree := false, heelDisagree := false }
        upright := -180 } := by decide +kernel

/-- The figures of the pass after the landing of lot 212 (04). -/
def workedLanding : Figures :=
  evaluate workedBook
    { workedSnap with sums := { workedSnap.sums with ml := 4674000000, mv := 609800000, mt := -28200000 } }

/-- After the landing the list of -913 fails C7. -/
theorem test_worked_landing :
    (workedLanding.kgc, workedLanding.gm, workedLanding.trim, workedLanding.ta, workedLanding.tf) =
      (6937, 1958, 450, 6418, 5968) ∧
    (workedLanding.tmean, workedLanding.list, workedLanding.upright) = (6193, -913, 2820) ∧
    workedLanding.fails[7] = true ∧ workedLanding.failing = true := by decide +kernel

/-- The first clearance request of 08, before ballasting: list 1 479, upright moment -2 900. -/
theorem test_worked_first_request :
    let f := evaluate workedBook { workedSnap with sums := { workedSnap.sums with mt := 29000000 } }
    (f.gm, f.list, f.upright) = (1240, 1479, -2900) := by decide +kernel

/-- The worst boom head of 08 lies within the outreach of crane 2. -/
theorem test_worked_outreach :
    let b : CraneBook := { (book.cranes[0]) with pedestalX := 72000, pedestalY := 9000, outreach := 18000 }
    outreachOk b 70000 14000 = true ∧ outreachOk b 90001 9000 = false ∧ outreachOk b 90000 9000 = true := by decide +kernel

/-- The tonnage tally of 10 at its wrap. -/
theorem test_worked_tally :
    (({ Tally.blank with value := 4294965000 }).add 2500).value = 204 ∧
    (({ Tally.blank with value := 4294965000 }).add 2500).overflow = true := by decide +kernel

/-- The LRU order of 06 as the TRIALs of ports 0, 4 and 1 are granted. -/
theorem test_worked_lru : lruMove (lruMove (lruMove [2, 0, 4, 1, 3, 5] 0) 4) 1 = [2, 3, 5, 0, 4, 1] := by decide

/-- The book passes the checks of BOOK-ACCEPT, and a wrong record fails at its section, entry and code (R18). -/
theorem test_book_checks :
    book.check = none ∧
    (({ book with ports := book.ports.set 0 { role := 5, cranes := 0 } }).check = some (12, 0, .noOfficer)) ∧
    (({ book with spaceCount := 0 }).check = some (6, 0, .count)) := by decide +kernel

/-- Lots take the lowest free handle, or the oldest handle ashore when none is free (02, R24). -/
theorem test_handles :
    loaded.kept.takeHandle.1 = 4 ∧
    (({ loaded.kept with lots := (List.range 1024).map fun h => (h, lot (.ashore 0) 0), ashore := [61, 7] }).takeHandle.1 = 61) := by
  decide +kernel

/-! ### One or two small steps for each command -/

theorem test_power_on :
    (after { service with supply := false, clock := 5 } .powerOn).part = .start ∧
    (after { service with supply := false, clock := 5 } .powerOn).clock = 0 ∧
    (after { service with supply := false } .powerOn).checking = true := by decide +kernel
theorem test_power_loss :
    (after loaded (.powerLoss none)).supply = false ∧ (after loaded (.powerLoss none)).kept.lots = loaded.kept.lots := by
  decide +kernel
/-- A BOOK-WRITE of the HYDROSTATICS count 3 is in service at port 0, on a book with a check word (R17). -/
def cutting : State := holding { commission with bookCheck := some 1 } 0 (.bookWrite 0 2 0 [0, 3])
theorem test_reset_assert_cuts_the_write :
    ((after cutting (.resetAssert none)).bookCheck = none ∧ (after cutting (.resetAssert none)).book.hydroCount = 2) ∧
    ((after cutting (.resetAssert (some 0))).bookCheck = none ∧ (after cutting (.resetAssert (some 0))).book.hydroCount = 3) ∧
    (after cutting (.powerLoss (some 1))).book.hydroCount = 2 := by decide +kernel
theorem test_reset_assert_keeps_the_book :
    (after (holding { commission with bookCheck := some 1 } 0 (.bookWrite 0 99 0 [])) (.resetAssert (some 0))).bookCheck = some 1 ∧
    (after { service with bookCheck := some 1 } (.resetAssert none)).bookCheck = some 1 := by decide +kernel
theorem test_reset_release :
    (after { service with resetHeld := true, part := .start } .resetRelease).checking = true ∧
    (after { service with resetHeld := true, part := .start, supply := false } .resetRelease).checking = false := by decide +kernel
theorem test_start_checks_unchecked_book :
    (after State.reset (.startChecksComplete false)).part = .commission ∧
    (after State.reset (.startChecksComplete false)).bookStatus = .unchecked := by decide +kernel
theorem test_start_checks_halt_the_lift :
    (State.keptAfterStart { (craneIn loaded (.lifting 0 .loading)) with
        keptCheck := some (craneIn loaded (.lifting 0 .loading)).kept.word }).cranes[0] = .halted .lifting 0 .loading := by
  rw [State.keptAfterStart, if_pos rfl]; decide +kernel
theorem test_book_status_by_check_word : (State.statusNow { service with bookCheck := some book.word }) = .valid := by
  simp [State.statusNow, service]
theorem test_frame_deliver :
    ((after service (.frameDeliver 0 [0x00, 0x7E, 0x00, 0x03, 0x13, 0x05, 0x01, 0x7F, 0x37])).port 0).requests =
      [{ kind := 0x13, tag := 5, payload := [1], orphaned := false }] ∧
    ((after service (.frameDeliver 0 [0x7E, 0x00, 0x03, 0x13, 0x05, 0x01, 0x7F, 0x38])).port 0).discards = 1 := by decide +kernel
theorem test_frame_deliver_report :
    (after service (.frameDeliver 3 (frameBytes 0x60 1 [0x00, 0x00, 0x00, 0x01, 0x2C]))).vol.queue =
      [{ channel := 0, value := .level 300, arrival := 0, port := 3, role := .gauge }] := by decide +kernel
theorem test_character_timeout :
    ((after ({ service with clock := 11 }.onPort 0 fun q => { q with receiver := .length none }) (.characterTimeout 0)).port 0).receiver =
      .hunt ∧
    ((after ({ service with clock := 10 }.onPort 0 fun q => { q with receiver := .length none }) (.characterTimeout 0)).port 0).receiver =
      .length none := by decide +kernel
theorem test_framing_error :
    ((after (service.onPort 0 fun q => { q with receiver := .body 5 [1] }) (.framingError 0)).port 0).discards = 1 ∧
    ((after service (.framingError 0)).port 0).discards = 0 := by decide +kernel
theorem test_unknown_request :
    sending (after (service.onPort 5 fun q => { q with requests := [{ kind := 0x2A, tag := 1, payload := [], orphaned := false }] })
      (.unknownRequest 5)) 5 = some (.malformed, []) := by decide +kernel
theorem test_book_read :
    reply service 0 (.bookRead 0 12 2) = some (.done, [.u8 2, .u8 1]) ∧
    reply service 0 (.bookRead 0 12 6) = some (.malformed, []) := by decide +kernel
theorem test_book_status :
    reply service 0 (.bookStatus 0) = some (.done, [.u8 2, .u8 0, .u8 0, .u8 1, .u8 0, .u8 0, .u8 0, .u8 0]) := by decide +kernel
theorem test_book_write :
    (ask commission 4 (.bookWrite 4 12 1 [2, 3])).book.ports[1] = { role := 2, cranes := 3 } ∧
    reply service 0 (.bookWrite 0 12 1 [2, 3]) = some (.notInCommission, []) := by decide +kernel
theorem test_book_accept :
    (ask commission 0 (.bookAccept 0)).part = .service ∧ (ask commission 0 (.bookAccept 0)).vol.live.w = 40100 ∧
    reply { commission with book.tankCount := 33 } 0 (.bookAccept 0) = some (.bookFault, [.u8 7, .u16 0, .u8 0]) := by
  decide +kernel
theorem test_lot_read :
    reply loaded 4 (.lotRead 4 9) = some (.unknownLot, [.u8 1, .u16 9, .u64 0]) ∧
    reply loaded 5 (.lotRead 5 9) = some (.denied, [.u8 0, .u16 0, .u64 0]) := by decide +kernel
theorem test_space_read :
    (reply loaded 0 (.spaceRead 0 0 1)).map (fun r => r.2.drop 9) =
      some [.i32 1800, .i32 1800, .u16 3, .u64 0, .u16 2, .u16 1, .u16 3, .u8 2, .u8 1, .i32 900, .i32 20000, .i32 26000] := by
  decide +kernel
theorem test_ashore_read :
    reply loaded 0 (.ashoreRead 0 0) = some (.done, [.u16 1, .u16 1, .u16 2, .u32 0]) ∧
    reply loaded 0 (.ashoreRead 0 1) = some (.done, [.u16 1, .u16 0]) := by decide +kernel
theorem test_channel_read :
    reply service 0 (.channelRead 0 38) =
      some (.done, [.u8 0, .u8 0, .u16 0, .u16 0, .u8 0, .u8 0, .u8 1, .u8 0, .u16 0, .u16 0, .u8 6]) ∧
    reply service 0 (.channelRead 0 39) = some (.malformed, []) := by decide +kernel
theorem test_tank_read : reply service 0 (.tankRead 0 1) = some (.malformed, []) := by decide +kernel
theorem test_verdict_read :
    reply service 0 (.verdictRead 0 0) = some (.done, [.u8 0, .u64 0, .u8 0]) ∧
    reply (running service .plan) 0 (.verdictRead 0 1) = some (.done, [.u8 2, .u64 0, .u8 0]) := by decide +kernel
theorem test_capture_read :
    reply service 0 (.captureRead 0) = some (.done, [.u8 0, .u8 0, .u8 0, .u8 0, .u8 0]) := by decide +kernel
theorem test_link_read :
    reply (service.setLink 0 (some (link 1 none))) 0 (.linkRead 0 1) =
      some (.done, [.u8 1, .u8 1, .u8 1, .u8 1, .u8 0, .u8 0, .u8 1, .u8 0, .u64 0]) := by decide +kernel
/-- The worked sequence of 07: at generation 1 000 the oldest entry held is 937. -/
theorem test_read_journal :
    reply (service.setKept { service.kept with generation := 1000 }) 0 (.readJournal 0 936) =
      some (.gone, [.u8 0, .u16 0, .u64 1000, .u64 937]) := by decide +kernel
theorem test_fixed_read : reply service 0 (.fixedRead 0 1) = some (.malformed, []) := by decide +kernel
/-- R168: a CRANE port that names a crane outside its set is answered CRANE-NOT-OWN, whatever the crane's number. -/
theorem test_crane_read :
    reply service 0 (.craneRead 0 3) = some (.malformed, []) ∧
    reply service 2 (.craneRead 2 3) = some (.denied, [.u8 3, .u16 3, .u64 0]) ∧
    (ask service 2 (.craneRead 2 2)).vol.accessFault.map AccessFault.cause = some .craneNotOwn ∧
    (reply service 2 (.craneRead 2 1)).map Prod.fst = some .done := by decide +kernel
theorem test_fault_read : reply service 0 (.faultRead 0) = some (.done, [.u8 0]) := by decide +kernel
theorem test_port_status_clears_its_own_flag :
    ((ask (service.onPort 0 fun q => { q with dropped := true }) 0 (.portStatus 0 0)).port 0).dropped = false ∧
    ((ask (service.onPort 1 fun q => { q with dropped := true }) 0 (.portStatus 0 1)).port 1).dropped = true ∧
    (reply service 5 (.portStatus 5 5)).map Prod.fst = some .done := by decide +kernel
theorem test_read_tally :
    reply service 0 (.readTally 0 0) = some (.done, [.u32 0, .u8 0, .u8 0, .u8 0, .u8 0, .u8 0, .u8 1, .u8 0, .u8 1]) ∧
    reply service 1 (.readTally 1 0) = some (.denied, [.u8 5, .u16 0, .u64 0]) := by decide +kernel
theorem test_claim :
    (ask service 4 (.claim 4 1)).link 0 =
      some { owner := 4, target := 1, staged := none, committing := false, override := false } ∧
    reply service 4 (.claim 4 3) = some (.outOfSpace, [.u8 2, .u16 3, .u64 0]) := by decide +kernel
theorem test_stage :
    ((ask (service.setLink 0 (some (link 1 none))) 1 (.stage 1 1 (.planCancel 0))).link 0) = none ∧
    ((ask (loaded.setLink 0 (some (link 1 none))) 1 (.stage 1 1 (.planCancel 0))).link 0) = some (link 1 (some (.planCancel 0))) := by
  decide +kernel
theorem test_commit :
    (ask (loaded.setLink 0 (some (link 1 (some (.planCancel 0))))) 1 (.commit 1 1 0)).kept.lot 0 = none ∧
    (ask (loaded.setLink 0 (some (link 1 (some (.planCancel 0))))) 1 (.commit 1 1 0)).kept.generation = 1 ∧
    reply service 1 (.commit 1 1 1) = some (.denied, [.u8 0, .u16 0, .u64 0]) := by decide +kernel
theorem test_release_link : (ask (service.setLink 0 (some (link 1 none))) 1 (.releaseLink 1 1)).link 0 = none := by decide +kernel
theorem test_fixed_set :
    (ask service 0 (.fixedSet 0 0 300 40000 1000 0 0)).vol.live.w = service.vol.live.w + 200 ∧
    reply service 0 (.fixedSet 0 0 0 40000 1000 0 0) = some (.malformed, []) := by decide +kernel
theorem test_tank_manual :
    (ask service 0 (.tankManual 0 0 6000)).tank 0 =
      { applied := 5000, source := .manual, density := 10250, planned := none } := by decide +kernel
theorem test_tank_density : ((ask service 1 (.tankDensity 1 0 5999)).tank 0).density = 6000 := by decide +kernel
theorem test_tank_plan :
    ((ask service 1 (.tankPlan 1 0 (some 2000))).tank 0).planned = some 2000 ∧
    (ask service 1 (.tankPlan 1 0 (some 2000))).vol.plan.w = 410 := by decide +kernel
theorem test_channel_restore :
    (ask (service.onChannelKept 0 fun k => { k with state := .isolated, counter := 256, run := 5 }) 0 (.channelRestore 0 0)).channelKept 0 =
      { state := .active, counter := 0, run := 0, mode := .automatic } := by decide +kernel
theorem test_channel_mode_channel : ((ask service 0 (.channelModeChannel 0 38 2)).channelKept 38).mode = .manual := by decide +kernel
theorem test_channel_mode_queue_level :
    (ask service 0 (.channelModeQueueLevel 0 0)).vol.queueLevel = 1 ∧
    (ask service 0 (.channelModeQueueLevel 0 9)).vol.queueLevel = 8 := by decide +kernel
theorem test_capture_clear :
    (ask { service with vol.capture.held := some { fails := Vector.replicate 12 true, generation := 3, clock := 4 } } 0
      (.captureClear 0)).vol.capture.held = none := by decide +kernel
theorem test_capture_mode : (ask service 0 (.captureMode 0 1)).vol.capture.mode = .all := by decide +kernel
theorem test_fault_clear :
    (ask { service with
      vol.accessFault := some { port := 1, role := .planner, kind := 0x22, cause := .role, value := .none } } 0 (.faultClear 0)).vol.accessFault =
      none := by decide +kernel
theorem test_condition_mode :
    (ask service 0 (.conditionMode 0 1)).kept.mode = .sea ∧ (ask service 0 (.conditionMode 0 1)).vol.planPending = true := by
  decide +kernel
theorem test_condition_confirm : (ask service 0 (.conditionConfirm 0)).kept.notEstablished = false := by decide +kernel
theorem test_purge_ashore :
    (ask loaded 0 (.purgeAshore 0)).kept.lot 2 = none ∧ (ask loaded 0 (.purgeAshore 0)).kept.ashore = [] ∧
    reply loaded 0 (.purgeAshore 0) = some (.done, [.u16 1, .u64 1]) := by decide +kernel
theorem test_tally_control_clears_bits_without_meaning :
    (ask service 0 (.tallyControl 0 7
      { cls := 2, subevents := 255, roles := 255, groups := 255, inhibit := 0, notice := 1, readable := 255 })).vol.tallies[7].control =
      { cls := 2, subevents := 3, roles := 63, groups := 63, inhibit := false, notice := true, readable := 63 } := by decide +kernel
theorem test_tally_set : (ask service 0 (.tallySet 0 7 9)).vol.tallies[7].value = 9 := by decide +kernel
theorem test_stop_vote_set :
    (ask (craneIn service (.lifting 0 .loading)) 0 (.stopVoteSet 0 1 0)).craneState 0 = .halted .lifting 0 .loading := by decide +kernel
theorem test_stop_vote_release :
    (ask ((craneIn service (.halted .lifting 0 .loading)).onCrane 0 fun x =>
      { x with votes := x.votes.set 0 true, reasons := { vote := true, limit := false, stale := false } }) 0
      (.stopVoteRelease 0 1)).craneState 0 = .lifting 0 .loading := by decide +kernel
theorem test_clear_request :
    (ask loaded 2 (.clearRequest 2 1 0 0 { x := 50000, z := 30000, y := 5000 })).craneState 0 = .checking 0 .loading ∧
    reply loaded 2 (.clearRequest 2 2 0 0 { x := 50000, z := 30000, y := 5000 }) =
      some (.denied, [.u8 3, .u16 2, .u64 0]) := by decide +kernel
theorem test_clear_cancel :
    (ask (craneIn loaded (.cleared 0 .loading)) 2 (.clearCancel 2 1)).craneState 0 = .idle ∧
    reply (craneIn loaded (.checking 0 .loading)) 2 (.clearCancel 2 1) = some (.busy, []) := by decide +kernel
theorem test_subscribe : ((ask service 3 (.subscribe 3 0xFFFF)).port 3).subscription = 0x7FFF := by decide +kernel
theorem test_port_restart :
    ((after (service.setLink 0 (some (link 1 none))) (.portRestart 1 (some 9))).link 0) = none ∧
    ((after service (.portRestart 1 (some 9))).port 1).subscription = 0x59C7 ∧
    sending (after service (.portRestart 1 (some 9))) 1 = some (.done, []) := by decide +kernel
theorem test_reading_report :
    (after service (.readingReport 3 0 (.level 300))).vol.queue.length = 1 ∧
    (after service (.readingReport 4 0 (.level 300))).vol.accessFault =
      some { port := 4, role := .shore, kind := 0x60, cause := .role, value := .channel 0 } := by decide +kernel
theorem test_hook_on :
    (after (craneIn loaded (.cleared 0 .loading)) (.hookOn 2 1 0)).craneState 0 = .lifting 0 .loading ∧
    (after loaded (.hookOn 2 1 0)).craneState 0 = .halted .lifting 0 .loading ∧
    (after loaded (.hookOn 2 1 0)).kept.generation = 1 := by decide +kernel
/-- Lot 0 on the hook of crane 1. -/
def hooked : State :=
  craneIn { loaded with kept.lots := [(0, lot (.hookedLoading 0) 0), (1, lot (.stowed .keep 0) 0), (2, lot (.ashore 0) 0),
    (3, lot (.stowed .discharge 0) 0)] } (.lifting 0 .loading)
theorem test_land :
    (after hooked (.land 2 1 0)).kept.stowList 0 = [1, 3, 0] ∧ (after hooked (.land 2 1 0)).craneState 0 = .idle := by decide +kernel
theorem test_land_back :
    ((after hooked (.landBack 2 1 0)).kept.lot 0).map Lot.state = some .planned ∧
    (after hooked (.landBack 2 1 0)).kept.stowList 0 = [1, 3] := by decide +kernel
theorem test_land_discarded :
    let s := hooked.onPort 2 fun q => { q with subscription := 0x7FFF }
    ((after s (.land 2 1 1024)).port 2).line =
      some (.notice { kind := .unknownLot, clock := 0, subject := 0, body := [.u8 1, .u16 1024] }) ∧
    ((after s (.landBack 2 1 1023)).port 2).line =
      some (.notice { kind := .outOfOrder, clock := 0, subject := 0, body := [.u8 1, .u8 0x63, .u16 1023] }) := by decide +kernel
/-- One reading of tank 0 waits. -/
def waiting (v : Int) : State :=
  { service with vol.queue := [{ channel := 0, value := .level v, arrival := 0, port := 3, role := .gauge }] }
theorem test_apply_reading :
    ((after (waiting 5100) .applyReading).tank 0).applied = 5000 ∧
    ((after (waiting 5101) .applyReading).channelKept 0).counter = 8 := by decide +kernel
theorem test_channel_stale_expiry :
    ((after { service with
        clock := 60001
        vol.channels := Vector.replicate 39 { stale := false, reference := some { value := .level 1, arrival := 0, doubtful := false },
                                              lost := 0 } } (.channelStaleExpiry 0)).channelLive 0).stale = true := by decide +kernel
theorem test_hook_stale_expiry :
    (after { (craneIn service (.lifting 0 .loading)) with clock := 5001 } (.hookStaleExpiry 0)).craneState 0 =
      .halted .lifting 0 .loading ∧
    (after { (craneIn service (.lifting 0 .loading)) with clock := 5000 } (.hookStaleExpiry 0)).craneState 0 =
      .lifting 0 .loading := by decide +kernel
theorem test_port_silence :
    ((after { service with clock := 5000 } (.portSilence 1)).port 1).silent = true ∧
    ((after { service with clock := 4999 } (.portSilence 1)).port 1).silent = false := by decide +kernel
theorem test_live_pass_complete :
    ((after (running service .live) .livePassComplete).vol.liveVerdict).map Verdict.generation = some 0 ∧
    (after (running service .live) .livePassComplete).vol.supervisor.isSome = true := by decide +kernel
theorem test_plan_pass_complete :
    (after (running service .plan) .planPassComplete).vol.planVerdict.isSome = true ∧
    (after (running service .plan) .planPassComplete).vol.supervisor = none := by decide +kernel
/-- A live commit's TRIAL of port 0 runs: lot 0 by DIRECT-STOW. -/
def committing (override : Bool) : State :=
  holding { (running (loaded.setLink 0 (some { link 0 (some (.directStow 0)) with committing := true, override := override }))
      (.trial 0)) with
    vol.trials := (Vector.replicate 6 none).set 0 (some { role := .officer, change := .link 0 (.directStow 0) }) } 0 (.commit 0 1 0)
theorem test_commit_trial_complete :
    (after (committing false) .commitTrialComplete).kept.stowList 0 = [1, 3, 0] ∧
    (sending (after (committing false) .commitTrialComplete) 0).map Prod.fst = some .accepted := by decide +kernel
/-- A crane's TRIAL of port 2 runs: lot 0 for LOADING. -/
def clearing : State :=
  holding { (running (craneIn loaded (.checking 0 .loading)) (.trial 2)) with
    vol.trials := (Vector.replicate 6 none).set 2
      (some { role := .crane, change := .crane 0 0 .loading { x := 50000, z := 30000, y := 0 } }) } 2
    (.clearRequest 2 1 0 0 { x := 50000, z := 30000, y := 0 })
theorem test_clearance_trial_complete :
    (after clearing .clearanceTrialComplete).craneState 0 = .cleared 0 .loading ∧
    (after (clearing.onCrane 0 fun x => { x with voteInCheck := true }) .clearanceTrialComplete).craneState 0 = .idle := by
  decide +kernel
/-- A verdict with a list beyond every crane's heel limit. -/
def heeled : Verdict :=
  { set := .live, generation := 0, clock := 0, mode := .harbour, fig := { evaluate book (snap service) with list := 901 } }
theorem test_limit_event :
    (after { (craneIn service (.cleared 0 .loading)) with vol.supervisor := some heeled } .limitEvent).craneState 0 =
      .halted .cleared 0 .loading ∧
    (after { (craneIn service (.checking 0 .loading)) with vol.supervisor := some heeled } .limitEvent).craneState 0 =
      .checking 0 .loading := by decide +kernel
theorem test_frame_sent :
    ((after (service.onPort 0 fun q => { q with replies := [{ kind := 0x82, tag := 1, status := .done, body := [] }] })
      (.frameSent 0)).port 0).line = some (.reply { kind := 0x82, tag := 1, status := .done, body := [] }) := by decide +kernel
theorem test_step_ticks : step service = .next { service with clock := 1 } ∧ step { service with supply := false } =
    .next { service with supply := false } := ⟨rfl, rfl⟩
theorem test_step_takes_the_front :
    step { service with pending := [.powerOn, .limitEvent] } = exec .powerOn { service with pending := [.limitEvent] } := rfl

/-! ### For each statement, states and operands that meet the hypotheses of its clauses -/

/-- What `State.asks` takes, as a test. -/
theorem asks_of {s : State} {p : Port} {c : Instr} {roles : List Role}
    (h : (decide (s.part = .service) && s.serves p c && decide (s.role p ∈ roles)) = true) : s.asks p c roles := by
  simpa [State.asks, and_assoc] using h

/-- What `State.reads` takes in SERVICE, as a test. -/
theorem reads_of {s : State} {p : Port} {c : Instr}
    (h : (decide (s.part = .service) && s.serves p c && decide (s.role p ∈ usedRoles)) = true) : s.reads p c := by
  have h' : (s.part = .service ∧ s.serves p c = true) ∧ s.role p ∈ usedRoles := by simpa using h
  exact ⟨h'.1.2, .inr ⟨h'.1.1, h'.2⟩⟩

/-- What `State.craneMayRead` takes, as a test. -/
theorem craneMayRead_of {s : State} {p : Port} {n : Nat}
    (h : (decide (s.role p ≠ .crane) || s.ownsCrane p n) = true) : s.craneMayRead p n := by
  intro _ hr
  simpa [hr] using h

/-- What `State.commissions` takes, as a test. -/
theorem commissions_of {s : State} {p : Port} {c : Instr}
    (h : (decide (s.part = .commission) && s.serves p c) = true) : s.commissions p c := by
  simpa [State.commissions] using h

/-- What `Kept.lotsInv` takes, as a test over the records. -/
theorem lotsInv_of {k : Kept}
    (h : (tableWf Config.handles k.lots && k.lots.all fun e => decide (e.2.space < 48)) = true) : k.lotsInv := by
  simp only [Bool.and_eq_true, List.all_eq_true, decide_eq_true_eq] at h
  exact ⟨h.1, fun j l e => h.2 (j, l) ((mem_iff_tableGet _ _ h.1 j l).mpr e)⟩

/-- A read in service at port 0 is let pass. -/
abbrev readsAt (s : State) (c : Instr) : Prop := (holding s 0 c).reads 0 c

/-- A request in service at a port is let ask. -/
abbrev asksAt (s : State) (p : Port) (c : Instr) (roles : List Role) : Prop := (holding s p c).asks p c roles

/-- The state of a port changed. -/
def portIn (s : State) (f : PortState → PortState) : State := s.onPort 0 f

/-- A request, a reply and a notice. -/
def aRequest (kind : Byte) (orphaned : Bool) : Request := { kind := kind, tag := 1, payload := [], orphaned := orphaned }
def aReply : Reply := { kind := 0x82, tag := 1, status := .done, body := [] }
def aNotice (kind : NoticeKind) : Notice := { kind := kind, clock := 0, subject := 1, body := [] }

theorem witness_StepRunsTheFrontCommandOrTicks :
    { service with pending := [.powerOn, .limitEvent] }.pending = .powerOn :: [.limitEvent] ∧
    (service.pending = [] ∧ service.supply = true ∧ service.resetHeld = false) ∧
    ({ service with supply := false }.pending = [] ∧ { service with supply := false }.supply = false) ∧
    { service with resetHeld := true }.resetHeld = true := by decide +kernel
theorem witness_PowerAndResetEnterStart :
    { service with resetHeld := true }.resetHeld = true ∧ service.resetHeld = false ∧
    (∀ p sect entry vs, ¬ service.writesBook p sect entry vs) ∧ cutting.writesBook 0 2 0 [.u16 3] ∧
    (∀ sect entry vs, ¬ cutting.writesBook 1 sect entry vs) := by
  refine ⟨rfl, rfl, ?_, ⟨rfl, { kind := 3, tag := 7, payload := [2, 0, 0, 0, 3], orphaned := false }, 0, [0, 3], ?_⟩, ?_⟩
  · rintro p sect entry vs ⟨h, -⟩; exact absurd h (by decide +kernel)
  · decide +kernel
  · rintro sect entry vs ⟨-, r, q, record, h, -⟩
    exact absurd h (by rw [show cutting.inService 1 = none by decide +kernel]; simp)
/-- The checks run, on a book with its check word and on a new store, and on a condition with and without its check word. -/
def starting (k : CraneState) : State :=
  { (craneIn service k) with part := .start, checking := true, bookCheck := some book.word }
theorem witness_StartChecksDecideTheStart :
    ((starting .idle).supply = true ∧ (starting .idle).resetHeld = false ∧ (starting .idle).checking = true ∧
      (starting .idle).part = .start) ∧
    (starting .idle).bookCheck = some (starting .idle).book.word ∧ (starting .idle).keptCheck = some (starting .idle).kept.word ∧
    (starting (.lifting 0 .loading)).craneState 0 = .lifting 0 .loading ∧
    (starting (.halted .lifting 1 .discharging)).craneState 0 = .halted .lifting 1 .discharging ∧
    ((starting (.cleared 0 .loading)).craneState 0).lift = none ∧ State.reset.keptCheck ≠ some State.reset.kept.word := by
  refine ⟨?_, rfl, rfl, ?_, ?_, ?_, ?_⟩ <;> decide +kernel
theorem witness_StartChecksClearTheVolatileState :
    State.reset.supply = true ∧ State.reset.resetHeld = false ∧ State.reset.checking = true ∧ State.reset.part = .start ∧
    (State.statusNow (starting .idle)) = .valid := by
  refine ⟨rfl, rfl, rfl, rfl, ?_⟩
  simp [State.statusNow, starting, craneIn, State.setCrane, State.setKept, service]
theorem witness_WholeFrameIsDelivered :
    service.running = true ∧ (service.port 0).receiver = .hunt ∧ (List.replicate 250 (0xFF : Byte)).length ≤ 250 ∧
    ([] : List Byte).length ≤ 250 := by decide +kernel
theorem witness_BrokenFramesAreDroppedAndCounted :
    (service.running = true ∧ (service.port 0).receiver = .hunt ∧ ([1] : List Byte).length ≤ 250 ∧ 65535 < 65536 ∧
      65535 ≠ (crc16 (bytesOf 2 (2 + 1) ++ (0x13 :: 5 :: [1]))).toNat) ∧
    ((portIn service fun q => { q with receiver := .crc [1, 2] none }).port 0).receiver ≠ .hunt ∧
    10 < elapsed (({ service with clock := 11 }).port 0).lastChar 11 ∧
    ((1 : Nat) < 2 ∧ (1 : Nat) < 65536) ∧ ((252 : Nat) < 253 ∧ (253 : Nat) < 65536) := by decide +kernel
theorem witness_DeliveredRequestsQueueOrAreBusy :
    (isReportKind 0x5F = false ∧ commission.part = .commission ∧ (commission.port 0).requests.length < 4) ∧
    (isReportKind 0x80 = false ∧ service.part = .service ∧ ¬ ((0x80 : Byte) = 0x29 ∧ ([] : List Byte) = [])) ∧
    4 ≤ ((portIn service fun q => { q with requests := List.replicate 4 (aRequest 2 false), replies := List.replicate 7 aReply }).port
      0).requests.length ∧
    ((portIn service fun q => { q with requests := List.replicate 4 (aRequest 2 false), replies := List.replicate 7 aReply }).port
      0).replies.length < 8 ∧
    ((portIn service fun q => { q with requests := List.replicate 3 (aRequest 2 false) }).port 0).requests.length < 4 ∧
    State.reset.part = .start ∧
    (let u := portIn service fun q => { q with requests := List.replicate 4 (aRequest 2 false), replies := List.replicate 8 aReply }
     4 ≤ (u.port 0).requests.length ∧ 8 ≤ (u.port 0).replies.length) := by
  decide +kernel
theorem witness_RequestAndReportFramesReadBack :
    (let c : Instr := .stage 0 1 (.planLoad (List.replicate 224 0) 1 0 position (some 9))
     c.wf = true ∧ c.port = some 0 ∧ (encodeRequest c).map (fun e => e.2.length) = some 250) ∧
    (let c : Instr := .readingReport 2 35 (.hook 4294967295 (-2147483648) 0 2147483647)
     c.wf = true ∧ c.port = some 2 ∧ (encodeReport c).isSome = true) := by decide +kernel
theorem witness_FormAndPartStateGateRequests :
    ((portIn service fun q => { q with requests := [aRequest 0 false] }).inService 0 = some (aRequest 0 false) ∧
      service.part ≠ .start ∧ commandOf 0 0 [] = .unknownRequest 0) ∧
    0x29 < (0x2A : Byte).toNat ∧
    commandOf 0 0x12 [8] = .readTally 0 8 ∧
    ((holding commission 0 (.claim 0 1)).serves 0 (.claim 0 1) = true ∧ 0x13 ≤ (0x13 : Byte).toNat ∧
      commission.part = .commission ∧ commandOf 0 0x13 [1] ≠ .unknownRequest 0) ∧
    ((holding service 0 (.bookAccept 0)).serves 0 (.bookAccept 0) = true ∧ service.part = .service ∧
      commandOf 0 4 [] ≠ .unknownRequest 0 ∧ commandOf 0 3 [12, 0, 1, 2, 3] ≠ .unknownRequest 0) := by decide +kernel
theorem witness_AccessTableBreachIsDenied :
    service.part = .service ∧
    ((holding service 1 (.purgeAshore 1)).serves 1 (.purgeAshore 1) = true ∧ accessRoles (.purgeAshore 1) = some [.officer] ∧
      service.role 1 ∉ [Role.officer]) ∧
    ((holding service 5 (.readTally 5 7)).serves 5 (.readTally 5 7) = true ∧ accessRoles (.readTally 5 7) = some usedRoles ∧
      service.role 5 ∉ usedRoles ∧ 7 < 8) ∧
    (service.role 2 = .crane ∧ service.ownsCrane 2 2 = false ∧
      (holding service 2 (.clearRequest 2 2 0 0 { x := 0, z := 0, y := 0 })).serves 2
        (.clearRequest 2 2 0 0 { x := 0, z := 0, y := 0 }) = true ∧
      (holding service 2 (.clearCancel 2 2)).serves 2 (.clearCancel 2 2) = true ∧
      (holding service 2 (.stopVoteSet 2 2 0)).serves 2 (.stopVoteSet 2 2 0) = true ∧
      (holding service 2 (.stopVoteRelease 2 2)).serves 2 (.stopVoteRelease 2 2) = true ∧
      (holding service 2 (.craneRead 2 2)).serves 2 (.craneRead 2 2) = true ∧ service.ownsCrane 2 5 = false ∧
      (holding service 2 (.craneRead 2 5)).serves 2 (.craneRead 2 5) = true) ∧
    ((holding service 1 (.commit 1 1 1)).serves 1 (.commit 1 1 1) = true ∧ service.role 1 = .planner ∧ service.role 4 = .shore) ∧
    ((holding service 4 (.stage 4 1 (.directStow 0))).serves 4 (.stage 4 1 (.directStow 0)) = true ∧ service.role 4 = .shore ∧
      (Amendment.directStow 0).isLive = true) ∧
    ((holding service 1 (.readTally 1 7)).serves 1 (.readTally 1 7) = true ∧ service.role 1 ∈ usedRoles ∧
      roleIn service.vol.tallies[7].control.readable (service.role 1) = false) := by decide +kernel
theorem witness_AnswerEndsTheService :
    ((portIn service fun q => { q with requests := [aRequest 2 true] }).port 0).requests = aRequest 2 true :: [] ∧
    (aRequest 2 true).orphaned = true ∧ (aRequest 0x7F false).orphaned = false ∧ (aRequest 0x7F false).kind.toNat < 0x80 ∧
    ((portIn service fun q => { q with replies := List.replicate 7 aReply }).port 0).replies.length < 8 ∧
    8 ≤ ((portIn service fun q => { q with replies := List.replicate 8 aReply }).port 0).replies.length ∧
    (1 : Port) ≠ 0 := by decide +kernel
theorem witness_NoticesReplaceAppendOrDrop :
    ({ PortState.blank with silent := true }).silent = true ∧ PortState.blank.subscription.getLsbD 14 = false ∧
    (({ PortState.blank with subscription := 0x7FFF }).silent = false ∧
      ({ PortState.blank with subscription := 0x7FFF }).subscription.getLsbD (noticeBit .permit) = true ∧
      aNotice .permit ∈ ({ PortState.blank with notices := List.replicate 16 (aNotice .permit) }).notices) ∧
    (List.replicate 15 (aNotice .linkTaken)).length < 16 ∧ (∀ m ∈ [aNotice .verdict], m.kind ≠ .permit) ∧
    16 ≤ (List.replicate 16 (aNotice .linkTaken)).length ∧ service.part = .service ∧ commission.part ≠ .service := by
  decide +kernel
theorem witness_LinesSendRepliesFirst :
    ((portIn service fun q => { q with replies := [aReply] }).port 0).replies = aReply :: [] ∧
    (((portIn service fun q => { q with notices := [aNotice .permit] }).port 0).replies = [] ∧
      ((portIn service fun q => { q with notices := [aNotice .permit] }).port 0).notices = aNotice .permit :: []) ∧
    ((service.port 0).replies = [] ∧ (service.port 0).notices = [] ∧ (service.port 0).line = none) ∧
    ((portIn service fun q => { q with line := some (.reply aReply) }).port 0).line = some (.reply aReply) ∧
    ((portIn service fun q => { q with line := some (.notice (aNotice .permit)) }).port 0).line = some (.notice (aNotice .permit)) ∧
    65535 < 256 ^ 2 ∧ ((0 : Int) ≤ 2147483647 ∧ (2147483647 : Int) < 2147483648) ∧
    (-2147483648 ≤ (-2147483648 : Int) ∧ (-2147483648 : Int) < 0 ∧ (-1 : Int) < 0) ∧
    encodeVal (.i32 (-2147483648)) = [0x80, 0x00, 0x00, 0x00] ∧ encodeVal (.i32 (-1)) = [0xFF, 0xFF, 0xFF, 0xFF] := by
  decide +kernel
theorem witness_SilenceShedsThePort :
    (service.part = .service ∧ (service.port 0).silent = false ∧ 5000 ≤ elapsed (service.port 0).lastHeard 5000) ∧
    commission.part = .commission ∧ elapsed (service.port 0).lastHeard 4999 < 5000 ∧
    ((portIn service fun q => { q with silent := true }).port 0).silent = true ∧ State.reset.part = .start := by decide +kernel
theorem witness_RestartShedsThePort :
    service.part = .service ∧ service.role 0 ∈ usedRoles ∧ service.role 5 ∉ usedRoles ∧
    (let u := (service.onPort 5 fun q => { q with silent := false, lastHeard := service.clock }).breach 5 0x29 .role .none
     (u.port 5).replies.length < 8) ∧
    (let v := service.onPort 5 fun q => { q with replies := List.replicate 8 aReply }
     let u := (v.onPort 5 fun q => { q with silent := false, lastHeard := v.clock }).breach 5 0x29 .role .none
     8 ≤ (u.port 5).replies.length) ∧
    (holding service 0 (.portRestart 0 none)).inService 0 =
      some { kind := 0x29, tag := 7, payload := [], orphaned := false } ∧
    (holding service 0 (.portRestart 0 none)).serves 0 (.portRestart 0 none) = true := by decide +kernel
theorem witness_ReadsChangeOnlyTheirOwnPort :
    (encodeRequest (.bookRead 0 1 0) = some (1, [1, 0, 0]) ∧ readsAt service (.bookRead 0 1 0)) ∧
    (encodeRequest (.readTally 0 7) = some (0x12, [7]) ∧ readsAt service (.readTally 0 7) ∧
      State.tallyGate 7 0 (holding service 0 (.readTally 0 7)) = none) ∧
    (encodeRequest (.craneRead 2 1) = some (0x0F, [1]) ∧ (holding service 2 (.craneRead 2 1)).reads 2 (.craneRead 2 1) ∧
      (holding service 2 (.craneRead 2 1)).craneMayRead 2 1) ∧
    (service.role 5 ∉ usedRoles ∧ encodeRequest (.portStatus 5 0) = some (0x11, [0]) ∧
      (holding service 5 (.portStatus 5 0)).readsOpenly 5 (.portStatus 5 0)) :=
  ⟨⟨by decide +kernel, reads_of (by decide +kernel)⟩, ⟨by decide +kernel, reads_of (by decide +kernel), by decide +kernel⟩,
    ⟨by decide +kernel, reads_of (by decide +kernel), craneMayRead_of (by decide +kernel)⟩,
    by unfold State.readsOpenly; decide +kernel⟩
theorem witness_BookReadsAnswerTheStore :
    ((holding service 0 (.bookRead 0 7 800)).readsOpenly 0 (.bookRead 0 7 800) ∧ (service.book.read 7 800).isSome = true) ∧
    ((holding service 0 (.bookRead 0 7 801)).readsOpenly 0 (.bookRead 0 7 801) ∧ service.book.read 7 801 = none) ∧
    ((holding commission 5 (.bookStatus 5)).readsOpenly 5 (.bookStatus 5) ∧ commission.part = .commission) ∧
    (service.part = .service ∧ service.role 5 ∉ usedRoles ∧
      (holding service 5 (.bookRead 5 12 0)).readsOpenly 5 (.bookRead 5 12 0) ∧
      (holding service 5 (.bookStatus 5)).readsOpenly 5 (.bookStatus 5)) := by
  unfold State.readsOpenly
  decide +kernel
theorem witness_StowageReadsAnswerTheTable :
    (readsAt loaded (.lotRead 0 0) ∧ loaded.kept.lot 0 = some (lot .planned 0)) ∧
    (readsAt loaded (.lotRead 0 1023) ∧ 1023 < 1024 ∧ loaded.kept.lot 1023 = none) ∧ readsAt loaded (.lotRead 0 1024) ∧
    (readsAt loaded (.spaceRead 0 2 0) ∧ 2 < loaded.book.spaceCount ∧ loaded.book.spaces[2]? = some (space 2 3 40000 60000)) ∧
    (readsAt loaded (.spaceRead 0 3 0) ∧ loaded.book.spaceCount ≤ 3) ∧ readsAt loaded (.ashoreRead 0 1) ∧ loaded.kept.lotsInv :=
  ⟨⟨reads_of (by decide +kernel), by decide +kernel⟩, ⟨reads_of (by decide +kernel), by decide, by decide +kernel⟩,
    reads_of (by decide +kernel), ⟨reads_of (by decide +kernel), by decide +kernel, by decide +kernel⟩,
    ⟨reads_of (by decide +kernel), by decide +kernel⟩, reads_of (by decide +kernel), lotsInv_of (by decide +kernel)⟩
theorem witness_ChannelReadsAnswerTheRecords :
    readsAt service (.channelRead 0 38) ∧ readsAt service (.channelRead 0 39) ∧
    (readsAt service (.tankRead 0 0) ∧ 0 < service.book.tankCount ∧ service.bookStatus = .valid) ∧
    ((holding commission 0 (.tankRead 0 0)).reads 0 (.tankRead 0 0) ∧ commission.bookStatus = .unchecked) ∧
    (readsAt service (.tankRead 0 1) ∧ service.book.tankCount ≤ 1) ∧ readsAt service (.tankRead 0 32) :=
  ⟨reads_of (by decide +kernel), reads_of (by decide +kernel), ⟨reads_of (by decide +kernel), by decide +kernel, rfl⟩,
    ⟨⟨by decide +kernel, .inl rfl⟩, rfl⟩, ⟨reads_of (by decide +kernel), by decide +kernel⟩, reads_of (by decide +kernel)⟩
/-- The capture holds. -/
def holdingCapture : State := { service with vol.capture.held := some { fails := Vector.replicate 12 true, generation := 3, clock := 4 } }
theorem witness_CaptureReadShowsTheCapture :
    (readsAt service (.captureRead 0) ∧ service.vol.capture.held = none) ∧
    (readsAt holdingCapture (.captureRead 0) ∧
      holdingCapture.vol.capture.held = some { fails := Vector.replicate 12 true, generation := 3, clock := 4 }) :=
  ⟨⟨reads_of (by decide +kernel), rfl⟩, reads_of (by decide +kernel), rfl⟩
/-- The generation set alone. -/
def atGeneration (n : Nat) : State := service.setKept { service.kept with generation := n }
theorem witness_RecordReadsAnswerTheRecords :
    readsAt service (.verdictRead 0 0) ∧ readsAt service (.verdictRead 0 1) ∧ readsAt service (.verdictRead 0 2) ∧
    (readsAt service (.linkRead 0 6) ∧ service.link 5 = none) ∧
    (readsAt (service.setLink 0 (some (link 1 none))) (.linkRead 0 1) ∧
      (service.setLink 0 (some (link 1 none))).link 0 = some (link 1 none)) ∧
    readsAt service (.linkRead 0 0) ∧ readsAt service (.linkRead 0 7) ∧
    (readsAt (atGeneration 64) (.readJournal 0 0) ∧ (atGeneration 64).kept.generation ≤ 64) ∧
    (readsAt (atGeneration 65) (.readJournal 0 2) ∧ (atGeneration 65).kept.generation - 63 ≤ 2) ∧
    (readsAt (atGeneration 65) (.readJournal 0 1) ∧ 64 < (atGeneration 65).kept.generation ∧
      1 < (atGeneration 65).kept.generation - 63) ∧
    (readsAt service (.fixedRead 0 0) ∧ 0 < service.book.fixedCount) ∧
    (readsAt service (.fixedRead 0 1) ∧ service.book.fixedCount ≤ 1) ∧ readsAt service (.fixedRead 0 16) :=
  ⟨reads_of (by decide +kernel), reads_of (by decide +kernel), reads_of (by decide +kernel),
    ⟨reads_of (by decide +kernel), by decide +kernel⟩, ⟨reads_of (by decide +kernel), by decide +kernel⟩,
    reads_of (by decide +kernel), reads_of (by decide +kernel), ⟨reads_of (by decide +kernel), by decide +kernel⟩,
    ⟨reads_of (by decide +kernel), by decide +kernel⟩, ⟨reads_of (by decide +kernel), by decide +kernel, by decide +kernel⟩,
    ⟨reads_of (by decide +kernel), by decide +kernel⟩, ⟨reads_of (by decide +kernel), by decide +kernel⟩,
    reads_of (by decide +kernel)⟩
/-- A breach stands in the Access Fault Record. -/
def breached : State :=
  { service with vol.accessFault := some { port := 1, role := .planner, kind := 0x22, cause := .role, value := .none } }
theorem witness_StationReadsAnswerTheRecords :
    (readsAt service (.craneRead 0 2) ∧ (holding service 0 (.craneRead 0 2)).craneMayRead 0 2 ∧
      1 + 1 ≤ service.book.craneCount) ∧
    ((holding service 2 (.craneRead 2 1)).reads 2 (.craneRead 2 1) ∧ service.role 2 = .crane ∧
      (holding service 2 (.craneRead 2 1)).craneMayRead 2 1) ∧
    (readsAt service (.craneRead 0 3) ∧ (holding service 0 (.craneRead 0 3)).craneMayRead 0 3 ∧ service.book.craneCount < 3) ∧
    (readsAt service (.craneRead 0 0) ∧ (holding service 0 (.craneRead 0 0)).craneMayRead 0 0) ∧
    (readsAt service (.craneRead 0 5) ∧ (holding service 0 (.craneRead 0 5)).craneMayRead 0 5) ∧
    (readsAt service (.faultRead 0) ∧ service.vol.accessFault = none) ∧
    (readsAt breached (.faultRead 0) ∧
      breached.vol.accessFault = some { port := 1, role := .planner, kind := 0x22, cause := .role, value := .none }) ∧
    ((holding service 0 (.portStatus 0 5)).readsOpenly 0 (.portStatus 0 5) ∧
      (holding commission 0 (.portStatus 0 0)).readsOpenly 0 (.portStatus 0 0) ∧
      (holding service 0 (.portStatus 0 6)).readsOpenly 0 (.portStatus 0 6) ∧
      service.role 5 ∉ usedRoles ∧ (holding service 5 (.portStatus 5 5)).readsOpenly 5 (.portStatus 5 5)) ∧
    (readsAt service (.readTally 0 7) ∧ roleIn service.vol.tallies[7].control.readable (service.role 0) = true) :=
  ⟨⟨reads_of (by decide +kernel), craneMayRead_of (by decide +kernel), by decide +kernel⟩,
    ⟨reads_of (by decide +kernel), by decide +kernel, craneMayRead_of (by decide +kernel)⟩,
    ⟨reads_of (by decide +kernel), craneMayRead_of (by decide +kernel), by decide +kernel⟩,
    ⟨reads_of (by decide +kernel), craneMayRead_of (by decide +kernel)⟩,
    ⟨reads_of (by decide +kernel), craneMayRead_of (by decide +kernel)⟩, ⟨reads_of (by decide +kernel), rfl⟩,
    ⟨reads_of (by decide +kernel), rfl⟩, by unfold State.readsOpenly; decide +kernel, reads_of (by decide +kernel),
    by decide +kernel⟩
theorem witness_BookWriteStoresTheRecord :
    ((holding commission 0 (.bookWrite 0 12 5 [2, 3])).commissions 0 (.bookWrite 0 12 5 [2, 3]) ∧
      recordVals 12 5 [2, 3] = some [.u8 2, .u8 3]) ∧
    ((holding commission 0 (.bookWrite 0 12 6 [2, 3])).commissions 0 (.bookWrite 0 12 6 [2, 3]) ∧ recordVals 12 6 [2, 3] = none) :=
  ⟨⟨commissions_of (by decide +kernel), by decide +kernel⟩, commissions_of (by decide +kernel), by decide +kernel⟩
theorem witness_BookAcceptChecksAndEntersService :
    ((holding commission 0 (.bookAccept 0)).commissions 0 (.bookAccept 0) ∧ commission.book.check = none) ∧
    ((holding { commission with book.tankCount := 33 } 0 (.bookAccept 0)).commissions 0 (.bookAccept 0) ∧
      { commission with book.tankCount := 33 }.book.check = some (7, 0, .count)) :=
  ⟨⟨commissions_of (by decide +kernel), by decide +kernel⟩, commissions_of (by decide +kernel), by decide +kernel⟩
theorem witness_OnlyBookWriteChangesTheBook :
    (∃ t, exec (.bookWrite 4 12 1 [2, 3]) (holding commission 4 (.bookWrite 4 12 1 [2, 3])) = .next t) ∧
    (after (holding commission 4 (.bookWrite 4 12 1 [2, 3])) (.bookWrite 4 12 1 [2, 3])).book.ports[1] ≠ commission.book.ports[1] ∧
    (after cutting (.powerLoss (some 0))).book.hydroCount ≠ cutting.book.hydroCount :=
  ⟨⟨_, rfl⟩, by decide +kernel, by decide +kernel⟩
theorem witness_ConditionStaysStored : service.stored ∧ ∃ t, step service = .next t := ⟨fun _ => rfl, _, rfl⟩
theorem witness_GenerationAdvancesByOne :
    (∃ t, exec (.hookOn 2 1 0) loaded = .next t) ∧ (∀ p chars, Instr.hookOn 2 1 0 ≠ .frameDeliver p chars) ∧
    (after loaded (.hookOn 2 1 0)).kept.generation = loaded.kept.generation + 1 ∧
    (∃ t, exec (.frameDeliver 2 (frameBytes 0x61 0 [1, 0, 0])) loaded = .next t) ∧
    (let t := after loaded (.frameDeliver 2 (frameBytes 0x61 0 [1, 0, 0]))
     t.kept.generation = loaded.kept.generation + 1 ∧ t.kept.journal.map JournalEntry.generation = [1]) ∧
    (after loaded (.frameDeliver 2 (frameBytes 0x61 0 [1, 0, 9]))).kept.generation = loaded.kept.generation :=
  ⟨⟨_, rfl⟩, fun _ _ h => Instr.noConfusion h, by decide +kernel, ⟨_, rfl⟩, by decide +kernel, by decide +kernel⟩
theorem witness_JournalKeepsTheLastGenerations : service.kept.journalInv ∧ ∃ t, step service = .next t :=
  ⟨by unfold Kept.journalInv; decide +kernel, _, rfl⟩
/-- One lot on the hook of crane 1 and one STOWED in the hold. -/
def lifting : State :=
  craneIn { service with kept.lots := [(0, lot (.hookedLoading 0) 0), (1, lot (.stowed .keep 0) 0)],
                         kept.stow := (Vector.replicate 48 []).set 0 [1] } (.lifting 0 .loading)
theorem lifting_lot (h : Nat) :
    lifting.kept.lot h =
      if h = 0 then some (lot (.hookedLoading 0) 0) else if h = 1 then some (lot (.stowed .keep 0) 0) else none := by
  show tableGet [(0, lot (.hookedLoading 0) 0), (1, lot (.stowed .keep 0) 0)] h = _
  simp only [tableGet]
  by_cases h0 : h = 0
  · simp [h0]
  · by_cases h1 : h = 1
    · simp [h1]
    · simp [Ne.symm h0, Ne.symm h1, h0, h1]
theorem lifting_stow (n : Nat) : lifting.kept.stowList n = if n = 0 then [1] else [] := by
  show (((Vector.replicate 48 []).set 0 [1])[n]?).getD [] = _
  by_cases h0 : n = 0
  · subst h0; rfl
  · rw [Vector.getElem?_set_ne (by omega) (Ne.symm h0)]
    by_cases h1 : n < 48 <;> simp [h0, h1]
theorem witness_StowageTableStaysConsistent : lifting.kept.tableInv ∧ ∃ t, step lifting = .next t := by
  refine ⟨⟨⟨by decide +kernel, ?_⟩, ⟨by decide +kernel, ?_⟩, ?_, ?_⟩, _, rfl⟩
  · intro h l e; rw [lifting_lot] at e; split at e
    · cases e; decide
    · split at e <;> simp at e; cases e; decide
  · intro h
    show h ∈ [] ↔ _
    rw [lifting_lot]
    by_cases h0 : h = 0 <;> by_cases h1 : h = 1 <;> simp [h0, h1, lot, LotState.isAshore]
  · intro n
    rw [lifting_stow]
    refine ⟨by split <;> simp, fun h => ?_⟩
    rw [lifting_lot]
    by_cases h0 : h = 0 <;> by_cases h1 : h = 1 <;> by_cases hn : n = 0 <;> simp_all [lot, LotState.listed] <;> omega
  · intro c h d
    rw [lifting_lot]
    have hc : lifting.kept.cranes[c.val].lift = if c = 0 then some (0, .loading) else none := by
      revert c; decide +kernel
    rw [hc]
    clear hc
    by_cases h0 : h = 0 <;> by_cases h1 : h = 1 <;> by_cases hn : c = 0 <;>
      simp_all [lot, LotState.crane, LotState.direction, @eq_comm _ Direction.loading d, @eq_comm _ 0 c, @eq_comm _ 0 h]
/-- That state with its sums built. -/
def summed : State := lifting.buildSums
theorem witness_SumsStayExact :
    summed.kept.tableInv ∧ summed.sumsInv ∧ summed.bookStatus = .valid ∧ summed.part = .service ∧ summed.vol.live.w = 41900 ∧
    ∃ t, step summed = .next t :=
  ⟨witness_StowageTableStaysConsistent.1, fun _ _ => ⟨rfl, rfl⟩, rfl, rfl, by decide +kernel, _, rfl⟩
theorem witness_QueuesStayBoundedAndLinesBusy :
    service.portsBounded ∧ service.queueBounded ∧ service.linesInv ∧ ∃ t, step service = .next t :=
  ⟨fun p => by unfold PortState.bounded; revert p; decide +kernel, by unfold State.queueBounded; decide +kernel,
    fun p => by unfold PortState.lineInv; revert p; decide +kernel, _, rfl⟩
theorem witness_EvaluatorOrderAndArbiterHold : service.evaluatorInv ∧ ∃ t, step service = .next t :=
  ⟨⟨by unfold State.lruOrder; decide, fun _ _ => ⟨rfl, rfl, by decide +kernel⟩⟩, _, rfl⟩
theorem witness_PurgeAndFixedSetApplyOneChange :
    (asksAt service 0 (.purgeAshore 0) [.officer] ∧ service.kept.ashore = []) ∧
    (asksAt loaded 0 (.purgeAshore 0) [.officer] ∧ loaded.kept.ashore ≠ []) ∧
    (asksAt service 0 (.fixedSet 0 0 200000 (-20000) 80000 40000 1) [.officer] ∧ 0 < service.book.fixedCount ∧
      fixedOk service.book 200000 (-20000) 80000 40000 1 = true) ∧
    (asksAt service 0 (.fixedSet 0 0 0 0 0 0 0) [.officer] ∧ fixedOk service.book 0 0 0 0 0 = false) ∧
    (asksAt service 0 (.fixedSet 0 1 1 0 0 0 0) [.officer] ∧ service.book.fixedCount ≤ 1) ∧
    asksAt service 0 (.fixedSet 0 16 1 0 0 0 0) [.officer] :=
  ⟨⟨asks_of (by decide +kernel), rfl⟩, ⟨asks_of (by decide +kernel), by decide⟩,
    ⟨asks_of (by decide +kernel), by decide +kernel, by decide +kernel⟩, ⟨asks_of (by decide +kernel), by decide +kernel⟩,
    ⟨asks_of (by decide +kernel), by decide +kernel⟩, asks_of (by decide +kernel)⟩
theorem witness_TankRequestsSetTheFill :
    (asksAt service 0 (.tankManual 0 0 5001) [.officer] ∧ 0 < service.book.tankCount) ∧
    (asksAt service 1 (.tankDensity 1 0 20001) [.officer, .planner] ∧ 0 < service.book.tankCount) ∧
    asksAt service 1 (.tankPlan 1 0 none) [.officer, .planner] ∧ asksAt service 1 (.tankPlan 1 0 (some (-1))) [.officer, .planner] ∧
    (service.book.tankCount ≤ 1 ∧ asksAt service 0 (.tankManual 0 1 0) [.officer] ∧
      asksAt service 1 (.tankDensity 1 1 0) [.officer, .planner] ∧ asksAt service 1 (.tankPlan 1 1 none) [.officer, .planner]) ∧
    asksAt service 0 (.tankManual 0 32 0) [.officer] ∧
    (risingTable book.tanks[0].table SoundingPoint.sounding ∧ 0 ≤ book.tanks[0].consts.depth ∧ 0 < book.tanks[0].consts.refDensity) ∧
    (service.tank 0).planned = none ∧ ({ service.tank 0 with planned := some 3 }).planned = some 3 :=
  ⟨⟨asks_of (by decide +kernel), by decide +kernel⟩, ⟨asks_of (by decide +kernel), by decide +kernel⟩,
    asks_of (by decide +kernel), asks_of (by decide +kernel),
    ⟨by decide +kernel, asks_of (by decide +kernel), asks_of (by decide +kernel), asks_of (by decide +kernel)⟩,
    asks_of (by decide +kernel), by unfold risingTable; decide +kernel, by decide +kernel, rfl⟩
/-- The first `n` channels have a reading each in the queue. -/
def queued (n : Nat) : State :=
  { service with vol.queue := (List.range n).map fun k =>
      { channel := Fin.ofNat 39 k, value := .level 1, arrival := 0, port := 3, role := .gauge } }
theorem witness_ChannelRequestsSetTheChannel :
    (asksAt service 0 (.channelRestore 0 0) [.officer] ∧ service.fitted 0 = true) ∧
    (asksAt service 0 (.channelRestore 0 38) [.officer] ∧ service.fitted 38 = false) ∧
    asksAt service 0 (.channelRestore 0 39) [.officer] ∧
    asksAt service 0 (.channelModeChannel 0 38 2) [.officer] ∧ asksAt service 0 (.channelModeChannel 0 39 0) [.officer] ∧
    asksAt service 0 (.channelModeChannel 0 0 3) [.officer] ∧
    (asksAt service 0 (.channelModeQueueLevel 0 6) [.officer] ∧ service.vol.queueLevel = 6) ∧
    (asksAt (queued 7) 0 (.channelModeQueueLevel 0 0) [.officer] ∧ (queued 7).vol.queueLevel ≠ 1 ∧
      (queued 7).vol.queue.length < 1 * 8) ∧
    (asksAt (queued 8) 0 (.channelModeQueueLevel 0 1) [.officer] ∧ (queued 8).vol.queueLevel ≠ 1 ∧
      1 * 8 ≤ (queued 8).vol.queue.length) :=
  ⟨⟨asks_of (by decide +kernel), by decide +kernel⟩, ⟨asks_of (by decide +kernel), by decide +kernel⟩,
    asks_of (by decide +kernel), asks_of (by decide +kernel), asks_of (by decide +kernel), asks_of (by decide +kernel),
    ⟨asks_of (by decide +kernel), rfl⟩, ⟨asks_of (by decide +kernel), by decide +kernel, by decide +kernel⟩,
    asks_of (by decide +kernel), by decide +kernel, by decide +kernel⟩
/-- Every entry of the queue is of channel 35; the queue-high level is 1. -/
def crowded (n : Nat) : State :=
  { service with
    vol.queue := List.replicate n { channel := 35, value := .hook 1 0 0 0, arrival := 0, port := 2, role := .crane }
    vol.queueLevel := 1 }
theorem witness_ReadingReportsEnterTheQueue :
    State.reset.part = .start ∧ commission.part = .commission ∧
    (service.part = .service ∧ readingFits 34 (.level 0) = true ∧ readingFits 35 (.level 0) = false ∧
      readingFits 34 (.hook 0 0 0 0) = false) ∧
    (service.role 0 ≠ .gauge ∧ service.role 0 ≠ .crane) ∧
    (service.role 3 = .gauge ∧ 35 ≤ 35 ∧ readingFits 35 (.hook 0 0 0 0) = true) ∧
    (service.role 2 = .crane ∧ service.ownsCrane 2 (36 - 34) = false ∧ service.ownsCrane 2 (35 - 34) = true) ∧
    (service.fitted 34 = false ∨ service.fitted 34 = true) ∧ service.fitted 1 = false ∧ service.fitted 0 = true ∧
    ((crowded 1).fitted 35 = true ∧ ((crowded 1).vol.queue.find? fun x => decide (x.channel = 35)).isSome = true) ∧
    (((crowded 6).vol.queue.find? fun x => decide (x.channel = 0)) = none ∧ (crowded 6).vol.queue.length < 64 ∧
      (crowded 6).vol.queue.length + 1 ≠ (crowded 6).vol.queueLevel * 8) ∧
    (((crowded 7).vol.queue.find? fun x => decide (x.channel = 0)) = none ∧
      (crowded 7).vol.queue.length + 1 = (crowded 7).vol.queueLevel * 8 ∧ (crowded 7).vol.highArmed = true) ∧
    (((crowded 64).vol.queue.find? fun x => decide (x.channel = 0)) = none ∧ 64 ≤ (crowded 64).vol.queue.length) := by
  decide +kernel
/-- A reading of a channel, and a state with the tank's source MANUAL. -/
def reading (ch : ChannelNo) (v : ReadingValue) : QueueEntry := { channel := ch, value := v, arrival := 0, port := 3, role := .gauge }
def manual : State := service.onTank 0 fun f => { f with source := .manual }
theorem witness_ApplierAppliesTheHeadReading :
    commission.part ≠ .service ∧ service.vol.queue = [] ∧
    ((waiting 5100).part = .service ∧ (waiting 5100).vol.queue =
      { channel := 0, value := .level 5100, arrival := 0, port := 3, role := .gauge } :: [] ∧ (waiting 5100).fitted 0 = true) ∧
    ((waiting 5100).channelKept 0).step true = ({ state := .active, counter := 0, run := 0, mode := .automatic }, true) ∧
    (((queued 2).vol.queue.drop 1).head?.map QueueEntry.channel = some 1 ∧ (queued 2).fitted 1 = false) ∧
    (channelKind 0 = .tank 0 ∧ (service.tank 0).source = .gauged ∧ (manual.tank 0).source = .manual) ∧
    (channelKind 32 = .draft ∧ channelKind 33 = .draft ∧ channelKind 34 = .heel ∧ channelKind 35 = .hook 0) ∧
    (∀ e ∈ [reading 0 (.level 5100), reading 32 (.level 0), reading 34 (.level (-4500)), reading 35 (.hook 75000 50000 60000 9)],
      service.fitted e.channel = true ∧ service.plausible e = true ∧ ((service.channelKept e.channel).step true).2 = true) ∧
    (∀ e ∈ [reading 0 (.level 5101), reading 32 (.level (-1)), reading 34 (.level 4501), reading 35 (.hook 75000 50001 60000 9)],
      service.fitted e.channel = true ∧ service.plausible e = false) ∧
    (({ state := .isolated, counter := 256, run := 0, mode := .automatic } : ChannelKept).step true).2 = false := by decide +kernel
theorem witness_ChannelHealthFollowsTheCounter :
    (let k : ChannelKept := { state := .doubtful, counter := 96, run := 0, mode := .automatic }
     k.state ≠ .isolated ∧ (k.step true).1.state = .active ∧ (k.step false).1.counter = 104) ∧
    (let k : ChannelKept := { state := .isolated, counter := 256, run := 31, mode := .automatic }
     k.state = .isolated ∧ 31 ≤ k.run ∧ k.mode = .automatic) ∧
    (let k : ChannelKept := { state := .isolated, counter := 256, run := 30, mode := .automatic }
     k.state = .isolated ∧ k.run < 31) ∧
    (let k : ChannelKept := { state := .isolated, counter := 256, run := 32, mode := .confirm }
     k.mode ≠ .automatic) := by decide +kernel
/-- Channel 0 has a fresh reference from clock 0. -/
def fresh (clock : Clock) : State :=
  { service with
    clock := clock
    vol.channels := Vector.replicate 39
      { stale := false, reference := some { value := .level 1, arrival := 0, doubtful := false }, lost := 0 } }
theorem witness_ChannelConditionsAreNotified :
    ((fresh 60001).part = .service ∧ (fresh 60001).fitted 0 = true ∧ ((fresh 60001).channelLive 0).stale = false ∧
      (fresh 60001).freshness 0 < (elapsed 0 60001 : Int)) ∧
    (elapsed 0 60000 : Int) ≤ (fresh 60000).freshness 0 ∧ commission.part ≠ .service ∧ service.fitted 1 = false ∧
    (service.channelLive 0).stale = true ∧
    (service.condition 0 ≠ { state := .active, stale := false, awaiting := false } ∧ service.fitted 0 = true) ∧
    service.condition 0 = { state := .active, stale := true, awaiting := false } := by decide +kernel
theorem witness_PassCompletionReplacesTheVerdict :
    ((running service .live).vol.running = some { kind := .live, snap := snap service } ∧
      (running service .live).vol.liveVerdict = none) ∧
    (running service .plan).vol.running = some { kind := .plan, snap := snap service } ∧
    (let v := verdictOf .live book (snap service)
     v.fig.fails = (evaluate book (snap service)).fails ∧ v.fig.flags = (evaluate book (snap service)).flags) ∧
    service.vol.running = none ∧ 0 < (snap service).sums.w ∧ book.sound ∧ workedBook.sound ∧ 0 < workedSnap.sums.w := by
  refine ⟨⟨rfl, rfl⟩, rfl, ⟨rfl, rfl⟩, rfl, by decide +kernel, ?_, ?_, by decide⟩ <;> unfold Book.sound risingTable <;> decide +kernel
theorem witness_CaptureFollowsItsMode :
    (running service .live).vol.running = some { kind := .live, snap := snap service } ∧
    (evaluate book (snap service)).failing = false ∧ workedLanding.failing = true ∧ service.vol.capture.held = none ∧
    holdingCapture.vol.capture.mode = .first ∧ (∃ t, exec .planPassComplete (running service .plan) = .next t) := by
  refine ⟨rfl, by decide +kernel, test_worked_landing.2.2.2, rfl, rfl, _, rfl⟩
/-- Nothing runs, and the TRIALs of ports 4 and 1 wait. -/
def twoTrials : State :=
  { service with
    vol.trials := ((Vector.replicate 6 none).set 4 (some { role := .shore, change := .link 0 (.directStow 0) })).set 1
      (some { role := .planner, change := .link 1 (.directStow 0) }) }
theorem witness_ArbiterGrantsInItsOrder :
    (commission.part ≠ .service ∧ (running service .plan).vol.running ≠ none) ∧
    (service.part = .service ∧ service.vol.running = none ∧ { service with vol.livePending := true }.vol.livePending = true) ∧
    (twoTrials.vol.livePending = false ∧ twoTrials.vol.lru = [0] ++ 1 :: [2, 3, 4, 5] ∧ (∀ q ∈ [(0 : Port)], twoTrials.trial q = none) ∧
      twoTrials.trial 1 = some { role := .planner, change := .link 1 (.directStow 0) }) ∧
    twoTrials.lruOrder ∧
    ((∀ p, service.trial p = none) ∧ service.vol.livePending = false ∧ service.vol.planPending = false) :=
  ⟨by decide +kernel, by decide +kernel, by decide +kernel, by unfold State.lruOrder; decide, by decide +kernel⟩
theorem witness_RegisterRequestsSetAndShow :
    asksAt service 0 (.captureClear 0) [.officer] ∧ asksAt service 0 (.captureMode 0 1) [.officer] ∧
    asksAt service 0 (.captureMode 0 2) [.officer] ∧ asksAt service 0 (.faultClear 0) [.officer] ∧
    asksAt service 4 (.subscribe 4 65535) usedRoles ∧
    asksAt service 0 (.tallyControl 0 7 ⟨7, 255, 255, 255, 1, 1, 255⟩) [.officer] ∧
    asksAt service 0 (.tallyControl 0 7 ⟨8, 0, 0, 0, 0, 0, 0⟩) [.officer] ∧
    asksAt service 0 (.tallySet 0 7 4294967295) [.officer] ∧ asksAt service 0 (.tallySet 0 8 0) [.officer] ∧
    (asksAt service 0 (.conditionMode 0 0) [.officer] ∧ service.kept.mode = .harbour) ∧
    (asksAt service 0 (.conditionMode 0 1) [.officer] ∧ service.kept.mode ≠ .sea) ∧
    asksAt service 0 (.conditionMode 0 2) [.officer] ∧
    (asksAt service 0 (.conditionConfirm 0) [.officer] ∧ service.kept.notEstablished = true) ∧
    (service.setKept { service.kept with notEstablished := false }).kept.notEstablished = false := by
  refine ⟨?_, ?_, ?_, ?_, ?_, ?_, ?_, ?_, ?_, ⟨?_, rfl⟩, ⟨?_, by decide⟩, ?_, ⟨?_, rfl⟩, rfl⟩ <;> exact asks_of (by decide +kernel)
theorem witness_ClaimTakesAndReleaseFreesTheLink :
    (asksAt service 4 (.claim 4 2) [.officer, .planner, .shore] ∧ 2 < service.book.spaceCount ∧
      service.book.spaces[2]? = some (space 2 3 40000 60000) ∧ (space 2 3 40000 60000).group = (1 : Group).val + 1) ∧
    (service.setLink 0 (some (link 1 none))).link 0 = some (link 1 none) ∧ service.link 0 = none ∧
    (asksAt service 4 (.claim 4 3) [.officer, .planner, .shore] ∧ service.book.spaceCount ≤ 3) ∧
    asksAt service 1 (.releaseLink 1 1) [.officer, .planner, .shore] ∧
    asksAt service 1 (.releaseLink 1 0) [.officer, .planner, .shore] ∧ asksAt service 1 (.releaseLink 1 7) [.officer, .planner, .shore] :=
  ⟨⟨asks_of (by decide +kernel), by decide +kernel, by decide +kernel, rfl⟩, by decide +kernel, by decide +kernel,
    ⟨asks_of (by decide +kernel), by decide +kernel⟩, asks_of (by decide +kernel), asks_of (by decide +kernel),
    asks_of (by decide +kernel)⟩
/-- A link of port 1 on the hold, with and without lot 0's cancelling staged. -/
def linked (am : Option Amendment) : State := loaded.setLink 0 (some (link 1 am))
theorem witness_StageFollowsItsTable :
    asksAt (linked none) 1 (.stage 1 0 (.planCancel 0)) [.officer, .planner] ∧
    (asksAt (linked none) 1 (.stage 1 7 (.planCancel 0)) [.officer, .planner] ∧
      amendmentOk book (.planCancel 1024) = false ∧ amendmentOk book (.planCancel 1023) = true) ∧
    (asksAt (linked none) 4 (.stage 4 1 (.planCancel 0)) [.shore] ∧ (Amendment.planCancel 0).isLive = false) ∧
    (linked none).link 1 = none ∧ (linked none).link 0 = some (link 1 none) ∧
    (linked none).amendSpace (.planShift 0 1 position) ≠ some (link 1 none).target ∧
    (link 1 (some (.planCancel 0))).staged ≠ none ∧ (linked none).amendSpace (.planCancel 0) = some (link 1 none).target :=
  ⟨asks_of (by decide +kernel), ⟨asks_of (by decide +kernel), by decide +kernel, by decide +kernel⟩,
    ⟨asks_of (by decide +kernel), rfl⟩, by decide +kernel, by decide +kernel, by decide +kernel, by decide, by decide +kernel⟩
theorem witness_CommitChecksAppliesOrTries :
    asksAt (linked none) 0 (.commit 0 1 1) [.officer] ∧ asksAt (linked none) 4 (.commit 4 6 0) [.planner, .shore] ∧
    asksAt (linked none) 1 (.commit 1 7 0) [.planner, .shore] ∧
    asksAt (linked none) 4 (.commit 4 1 2) [.officer, .planner, .shore] ∧ (linked none).kept.lotsInv ∧
    ((linked none).link 5 = none ∧ (linked none).link 0 = some (link 1 none) ∧
      (linked (some (.planCancel 1))).link 0 = some (link 1 (some (.planCancel 1))) ∧
      (linked (some (.planCancel 1))).checkAmendment (.planCancel 1) = some (.wrongState, .handle 1) ∧
      ((linked none).checkAmendment (.directStow 0) = none ∧ (Amendment.directStow 0).isLive = true) ∧
      (∀ am ∈ [Amendment.planLoad [] 1 0 position none, .planShift 0 0 position, .planCancel 0, .markDischarge 1, .unmark 3],
        am.isLive = false ∧ (linked none).checkAmendment am = none)) :=
  ⟨asks_of (by decide +kernel), asks_of (by decide +kernel), asks_of (by decide +kernel), asks_of (by decide +kernel),
    lotsInv_of (by decide +kernel), by decide +kernel⟩
theorem witness_CommitTrialTakesTheFirstCase :
    workedLanding.failing = true ∧ (committing false).kept.lotsInv ∧
    ((committing true).vol.running.map Pass.kind = some (.trial 0) ∧
      (committing true).trial 0 = some { role := .officer, change := .link 0 (.directStow 0) } ∧
      (linked none).link 0 = some (link 1 none) ∧
      (((committing true).link 0).map Link.committing = some true ∧ ((committing true).link 0).map Link.override = some true ∧
        ((committing false).link 0).map Link.override = some false) ∧
      (committing false).checkAmendment (.directStow 1) = some (.wrongState, .handle 1) ∧
      (evaluate book (snap loaded)).failing = false ∧
      (∀ am ∈ [Amendment.directStow 0, .restow 1 0 position, .directRemove 3, .correctWeight 1 901],
        am.isLive = true ∧ (committing false).checkAmendment am = none)) :=
  ⟨test_worked_landing.2.2.2, lotsInv_of (by decide +kernel), by decide +kernel⟩
/-- Port 0's vote is held at crane 1. -/
def voted : State := service.onCrane 0 fun x => { x with votes := x.votes.set 0 true }
theorem witness_StopVotesHaltAndRelease :
    asksAt service 0 (.stopVoteSet 0 2 0) [.officer, .planner] ∧ asksAt service 1 (.stopVoteRelease 1 2) [.officer, .planner] ∧
    asksAt service 2 (.stopVoteSet 2 1 0) [.crane] ∧ asksAt service 0 (.stopVoteSet 0 3 0) [.officer, .planner] ∧
    asksAt service 0 (.stopVoteSet 0 9 2) [.officer, .planner] ∧ asksAt service 2 (.stopVoteSet 2 1 255) [.crane] ∧
    asksAt service 0 (.stopVoteSet 0 0 0) [.officer, .planner] ∧ asksAt service 1 (.stopVoteRelease 1 5) [.officer, .planner] ∧
    (service.ownsCrane 2 1 = true ∧ (1 : CraneNo).val + 1 ≤ service.book.craneCount ∧
      service.book.craneCount < (2 : CraneNo).val + 1 ∧
      ((voted.craneLive 0).votes[0] = true ∧ (service.craneLive 0).votes[0] ≠ true) ∧ service.craneState 0 = .idle ∧
      (craneIn service (.checking 0 .loading)).craneState 0 = .checking 0 .loading ∧
      (craneIn service (.lifting 0 .loading)).craneState 0 = .lifting 0 .loading) := by
  iterate 8 refine ⟨asks_of (by decide +kernel), ?_⟩
  decide +kernel
/-- A worst boom head over the starboard side. -/
def head : Point := { x := 50000, z := 80000, y := 40000 }
theorem witness_ClearanceRequestsTestAndTry :
    asksAt loaded 2 (.clearRequest 2 1 0 (directionCode .loading) head) [.crane] ∧ asksAt loaded 2 (.clearCancel 2 1) [.crane] ∧
    asksAt loaded 2 (.clearRequest 2 1 0 2 head) [.crane] ∧ lifting.kept.lotsInv ∧
    (loaded.ownsCrane 2 ((0 : CraneNo).val + 1) = true ∧ headOk loaded.book head = true ∧
      headOk loaded.book { head with y := 40001 } = false ∧ (0 : CraneNo).val + 1 ≤ loaded.book.craneCount ∧
      loaded.craneState 0 = .idle ∧ (craneIn loaded (.cleared 0 .loading)).craneState 0 ≠ .idle ∧
      loaded.clearanceRefusal 0 0 .loading = none ∧ loaded.clearanceRefusal 0 1023 .loading = some (.unknownLot, .handle 1023) ∧
      (loaded.checkClearance 0 0 .loading = none ∧ loaded.kept.lot 0 = some (lot .planned 0)) ∧
      (craneIn loaded (.halted .cleared 0 .loading)).craneState 0 = .halted .cleared 0 .loading ∧
      (craneIn loaded (.checking 0 .loading)).craneState 0 = .checking 0 .loading ∧
      { loaded with book.craneCount := 0 }.book.craneCount < (0 : CraneNo).val + 1) :=
  ⟨asks_of (by decide +kernel), asks_of (by decide +kernel), asks_of (by decide +kernel),
    witness_StowageTableStaysConsistent.1.1, by decide +kernel⟩
/-- Crane 2 is CLEARED for lot 1, which lot 3 overstows, and port 2 takes every notice. -/
def rival : State :=
  (loaded.setCrane 1 (.cleared 1 .discharging)).onPort 2 fun q => { q with subscription := 0x7FFF }
theorem witness_HookOnIsAccountedOrDiscarded :
    loaded.overstowedBy 1 (.handle 3) ∧ (∀ v, ¬ loaded.overstowedBy 3 v) ∧
    ((loaded.part = .service ∧ loaded.role 2 = .crane ∧ loaded.ownsCrane 2 ((0 : CraneNo).val + 1) = true) ∧
      loaded.kept.lot 1023 = none ∧ (lot (.ashore 0) 0).hooked 0 = none ∧ loaded.kept.lot 2 = some (lot (.ashore 0) 0) ∧
      (loaded.kept.lot 0 = some (lot .planned 0) ∧
        (lot .planned 0).hooked 0 = some (lot (.hookedLoading 0) 0, .loading) ∧ (loaded.craneState 0).hanging = none) ∧
      (loaded.kept.lot 1 = some (lot (.stowed .keep 0) 0) ∧
        (lot (.stowed .keep 0) 0).hooked 0 = some (lot (.hookedDischarging 0 0) 0, .discharging)) ∧
      (hooked.craneState 0).hanging ≠ none ∧ State.reset.part = .start ∧ commission.part = .commission ∧
      (1 ≤ 1 ∧ 4 ≤ 4 ∧ service.role 0 ≠ .crane) ∧ (service.role 2 = .crane ∧ service.ownsCrane 2 4 = false) ∧
      ((loaded.craneState 0).permitsHookOn 0 (lot .planned 0) = false ∧
        ((craneIn loaded (.cleared 0 .loading)).craneState 0).permitsHookOn 0 (lot .planned 0) = true) ∧
      (rival.craneState 1).reserves = some 1 ∧
      ((after rival (.hookOn 2 1 1)).port 2).line =
        some (.notice { kind := .unpermittedLift, clock := 0, subject := 0, body := [.u8 1, .u16 1, .u8 1] }) ∧
      ((after rival (.hookOn 2 1 1)).port 2).notices.map (fun n => (n.kind, n.subject)) =
        [(.overstow, 0), (.permit, 2), (.permit, 1)]) := by
  refine ⟨?_, fun v h => ?_, by decide +kernel⟩
  · obtain ⟨v, h, e⟩ := (step6_some loaded 1 (.overstowed, .handle 3)).mp (by decide +kernel)
    cases e; exact h
  · exact absurd ((step6_some loaded 3 (.overstowed, v)).mpr ⟨v, h, rfl⟩)
      (by rw [show loaded.step6 3 = none by decide +kernel]; simp)
/-- Lot 0 hangs on crane 1 weighed at 919 t, beyond the tolerance of 18 t, for a hold with a maximum weight of 1 000 t. -/
def weighing : State :=
  { (hooked.onPort 2 fun q => { q with subscription := 0x7FFF }) with
    book.spaces := book.spaces.set 0 { space 1 0 20000 40000 with maxWeight := 1000 }
    vol.cranes := hooked.vol.cranes.set 0
      { CraneLive.blank with hook := some { head := { x := 0, z := 0, y := 0 }, load := 919, arrival := 0 }, sinceHookOn := true } }
theorem witness_LandingsEndTheLift :
    (hooked.part = .service ∧ hooked.role 2 = .crane ∧ hooked.ownsCrane 2 ((0 : CraneNo).val + 1) = true) ∧
    ((hooked.craneState 0).lift = some (0, .loading) ∧ hooked.kept.lot 0 = some (lot (.hookedLoading 0) 0)) ∧
    (loaded.craneState 0).lift = none ∧ hooked.kept.lot 1023 = none ∧
    ((craneIn loaded (.halted .lifting 1 .discharging)).craneState 0).lift = some (1, .discharging) ∧
    hooked.kept.lot 1024 = none ∧ State.reset.part = .start ∧ commission.part = .commission ∧
    (1 ≤ 1 ∧ 4 ≤ 4 ∧ service.role 0 ≠ .crane) ∧ (service.role 2 = .crane ∧ service.ownsCrane 2 4 = false) ∧
    ((weighing.craneLive 0).sinceHookOn = true ∧
      weighing.book.cranes[0].tolerance * (lot (.hookedLoading 0) 0).weight < (((919 : Int) - 900).natAbs : Int) * 1000) ∧
    (weighing.spaceBook 0).map Space.maxWeight = some 1000 ∧ (after weighing (.land 2 1 0)).liveWeight 0 = 2719 ∧
    ((after weighing (.land 2 1 0)).port 2).notices.map (fun n => (n.kind, n.subject)) =
      [(.weightDisagree, 0), (.overload, 0)] := by decide +kernel
theorem witness_ClearanceTrialTakesTheFirstCase :
    (∀ d', hooked.craneState 0 ≠ .checking 0 d') ∧
    (clearing.vol.running.map Pass.kind = some (.trial 2) ∧
      clearing.trial 2 = some { role := .crane, change := .crane 0 0 .loading { x := 50000, z := 30000, y := 0 } } ∧
      clearing.craneState 0 = .checking 0 .loading ∧
      ((clearing.craneLive 0).voteInCheck = false ∧ (∀ i : Port, (clearing.craneLive 0).votes[i.val] = false)) ∧
      (voted.craneLive 0).votes[0] = true ∧
      clearing.checkClearance 0 0 .loading = none ∧ clearing.checkClearance 0 1023 .loading = some (.unknownLot, .handle 1023) ∧
      liftAllowed book.cranes[0] (evaluate book (snap loaded)) = true ∧ liftAllowed book.cranes[0] workedLanding = false) :=
  ⟨fun d' => by cases d' <;> decide +kernel, by decide +kernel⟩
theorem witness_LimitEventTestsEveryCrane :
    { service with vol.supervisor := some heeled }.vol.supervisor = some heeled ∧
    (service.vol.supervisor = none ∧ commission.part ≠ .service ∧
      (book.cranes[0].heelLimit < (heeled.fig.list.natAbs : Int) ∧ heeled.fig.list = 901) ∧
      ((800 : Int) ≤ book.cranes[0].heelLimit - book.cranes[0].hysteresis) ∧
      ((craneIn service (.cleared 0 .loading)).craneState 0 = .cleared 0 .loading ∧
        ((craneIn service (.cleared 0 .loading)).craneLive 0).reasons.limit = false) ∧ service.craneState 0 = .idle) :=
  ⟨rfl, by decide +kernel⟩
theorem witness_HookReadingsAndStaleness :
    lifting.craneState 0 = .lifting 0 .loading ∧
    (craneIn lifting (.halted .lifting 0 .loading)).craneState 0 = .halted .lifting 0 .loading ∧
    service.craneState 0 = .idle ∧
    ({ lifting with clock := 5001 }.part = .service ∧ (lifting.craneState 0).hanging ≠ none ∧
      (lifting.craneLive 0).reasons.stale = false ∧
      lifting.book.cranes[0].freshness < (elapsed (lifting.craneLive 0).staleFrom 5001 : Int)) ∧
    ¬ lifting.book.cranes[0].freshness < (elapsed (lifting.craneLive 0).staleFrom 5000 : Int) ∧
    ((lifting.onCrane 0 fun x => { x with reasons := { vote := false, limit := false, stale := true } }).craneLive 0).reasons.stale =
      true := by decide +kernel
theorem witness_CranesAreClearedOnlyByTrial :
    (∃ t, exec .clearanceTrialComplete clearing = .next t) ∧
    (after clearing .clearanceTrialComplete).craneState 0 = .cleared 0 .loading :=
  ⟨⟨_, rfl⟩, by decide +kernel⟩
/-- A tally that counts landings of CRANE ports in hold group 6, with notice-on-overflow. -/
def counting : Tally :=
  { value := 4294967295, overflow := false
    control := { cls := 1, subevents := 2, roles := 4, groups := 32, inhibit := false, notice := true, readable := 1 } }
theorem witness_TalliesCountTheirEvents :
    counting.matchesEvent { cls := .lotMoves, sub := 1, role := some .crane, group := some 6, amount := 1 } = true ∧
    counting.value + 0 ≤ 4294967295 ∧ 4294967295 < counting.value + 1 ∧ service.part = .service ∧ commission.part ≠ .service := by
  decide +kernel
/-- Crane 1 carries an unidentified load at its threshold, and the fixed item is PRESENT. -/
def carrying : State :=
  { service with
    kept.fixed := service.kept.fixed.set 0 { service.kept.fixed[0] with presence := .present }
    vol.cranes := service.vol.cranes.set 0
      { CraneLive.blank with hook := some { head := { x := 1, z := 2, y := 3 }, load := 10, arrival := 0 }, freeReading := true } }
theorem witness_WeightAftNeverDecreases :
    ((0 : Int) ≤ 1001 ∧ (0 : Int) ≤ 3 ∧ (1 : Int) ≤ 2 ∧ (0 : Int) < 3 ∧ (0 : Int) < 1 ∧ (1 : Int) < 3) ∧
    ((40000 : Int) ≤ 40000 ∧ (0 : Int) ≤ 300) ∧
    (∀ r, (service.craneLive 0).hook ≠ some r) ∧
    (loaded.kept.lot 9 = none ∧ [0, 1, 2, 3].map (fun h => (loaded.kept.lot h).map Lot.state) =
      [some .planned, some (.stowed .keep 0), some (.ashore 0), some (.stowed .discharge 0)]) ∧
    ((hooked.kept.lot 0).map Lot.state = some (.hookedLoading 0) ∧
      ((after loaded (.hookOn 2 1 1)).kept.lot 1).map Lot.state = some (.hookedDischarging 0 0)) ∧
    ((0 : TankNo).val < book.tankCount ∧ book.tankCount ≤ (1 : TankNo).val) ∧
    ((0 : Fin 16).val < carrying.book.fixedCount ∧ carrying.kept.fixed[0].presence = .present ∧
      carrying.book.fixedCount ≤ (1 : Fin 16).val) ∧
    ((0 : CraneNo).val + 1 ≤ carrying.book.craneCount ∧ (carrying.craneState 0).hanging = none ∧
      (carrying.craneLive 0).freeReading = true ∧
      (carrying.craneLive 0).hook = some { head := { x := 1, z := 2, y := 3 }, load := 10, arrival := 0 } ∧
      carrying.book.cranes[0].threshold ≤ (10 : Int)) := by
  refine ⟨by decide, by decide, fun r h => ?_, by decide +kernel⟩
  exact absurd h (by rw [show (service.craneLive 0).hook = none by decide +kernel]; simp)
end Sys2Proof.Tests
end

section
/-!
PROOF. The Exceedance Capture at the completion of a pass: what a LIVE verdict makes of it, and that the completion of a PLAN
pass and of a TRIAL leave it alone (06).
-/
namespace Sys2Proof.Machine

/-! ### The capture and a LIVE verdict (R121, R122) -/

/-- No verdict changes the capture's mode (R121). -/
theorem Capture.update_mode (c : Capture) (v : Verdict) : (c.update v).mode = c.mode := by
  unfold Capture.update
  split
  · split <;> rfl
  · rfl

/-- A COMPLIANT verdict leaves the capture as it is (R121). -/
theorem Capture.update_compliant (c : Capture) (v : Verdict) (h : v.fig.failing = false) : c.update v = c := by
  simp [Capture.update, h]

/-- A NON-COMPLIANT verdict fills an EMPTY capture in either mode (R121). -/
theorem Capture.update_empty (c : Capture) (v : Verdict) (h : v.fig.failing = true) (he : c.held = none) :
    (c.update v).held = some { fails := v.fig.fails, generation := v.generation, clock := v.clock } := by
  simp [Capture.update, h, he]

/-- In mode FIRST a HOLDING capture stands (R121). -/
theorem Capture.update_first (c : Capture) (v : Verdict) (k : Captured) (hk : c.held = some k) (hm : c.mode = .first) :
    c.update v = c := by
  simp [Capture.update, hk, hm]

/-- In mode ALL a NON-COMPLIANT verdict joins its failing set to what a HOLDING capture holds, and its generation and snapshot
clock replace those held (R122). -/
theorem Capture.update_all (c : Capture) (v : Verdict) (k : Captured) (h : v.fig.failing = true) (hk : c.held = some k)
    (hm : c.mode = .all) :
    (c.update v).held =
      some { fails := unionSets k.fails v.fig.fails, generation := v.generation, clock := v.clock } := by
  simp [Capture.update, h, hk, hm]

/-- A criterion is in the union when it is in either set. -/
theorem getElem_unionSets (a b : Vector Bool 12) (k : Fin 12) : (unionSets a b)[k.val] = (a[k.val] || b[k.val]) := by
  simp [unionSets]

/-! ### The completions: what each can do (R117, R120) -/

/-- The completion of a running LIVE pass. -/
theorem exec_livePassComplete (s : State) (snap : Snapshot) (h : s.vol.running = some { kind := .live, snap := snap }) :
    exec .livePassComplete s = .next (s.completeLive snap).settle := by
  have arm : exec .livePassComplete s = execLivePassComplete s := rfl
  simp [arm, execLivePassComplete, h]

/-- PLAN_PASS_COMPLETE completes the running PLAN pass, or is without effect. -/
theorem exec_planPassComplete_cases (s t : State) (h : exec .planPassComplete s = .next t) :
    t = s ∨ ∃ snap, s.vol.running = some { kind := .plan, snap := snap } ∧ t = (s.completePlan snap).settle := by
  have arm : exec .planPassComplete s = execPlanPassComplete s := rfl
  rw [arm, execPlanPassComplete] at h
  split at h <;> cases h
  case h_1 snap hr => exact .inr ⟨snap, hr, rfl⟩
  all_goals exact .inl rfl

/-- COMMIT_TRIAL_COMPLETE decides the running TRIAL of a link, or is without effect. -/
theorem exec_commitTrialComplete_cases (s t : State) (h : exec .commitTrialComplete s = .next t) :
    t = s ∨ ∃ p snap role g am, s.vol.running = some { kind := .trial p, snap := snap } ∧
      s.trial p = some { role := role, change := .link g am } ∧
      t = (((s.endTrial p).decideCommit p g am (evaluate s.book snap)).count
        (s.trialEvent { role := role, change := .link g am })).settle := by
  have arm : exec .commitTrialComplete s = execCommitTrialComplete s := rfl
  rw [arm, execCommitTrialComplete] at h
  split at h
  case h_1 p snap hr =>
    split at h <;> cases h
    case h_1 role g am ht => exact .inr ⟨p, snap, role, g, am, hr, ht, rfl⟩
    all_goals exact .inl rfl
  all_goals cases h; exact .inl rfl

/-- CLEARANCE_TRIAL_COMPLETE decides the running TRIAL of a crane, or is without effect. -/
theorem exec_clearanceTrialComplete_cases (s t : State) (h : exec .clearanceTrialComplete s = .next t) :
    t = s ∨ ∃ p snap role c n d q, s.vol.running = some { kind := .trial p, snap := snap } ∧
      s.trial p = some { role := role, change := .crane c n d q } ∧
      t = (((s.endTrial p).decideClearance p role c n d (evaluate s.book snap)).count
        (s.trialEvent { role := role, change := .crane c n d q })).settle := by
  have arm : exec .clearanceTrialComplete s = execClearanceTrialComplete s := rfl
  rw [arm, execClearanceTrialComplete] at h
  split at h
  case h_1 p snap hr =>
    split at h <;> cases h
    case h_1 role c n d q ht => exact .inr ⟨p, snap, role, c, n, d, q, hr, ht, rfl⟩
    all_goals exact .inl rfl
  all_goals cases h; exact .inl rfl

/-! ### The capture at each completion -/

/-- A LIVE completion updates the capture by its verdict, and nothing after it touches the capture. -/
@[simp] theorem State.completeLive_capture (s : State) (snap : Snapshot) :
    (s.completeLive snap).vol.capture = s.vol.capture.update (verdictOf .live s.book snap) := by
  simp only [State.completeLive, State.countAll_capture]
  split
  · rw [State.issue_capture]
  · rfl

/-- A PLAN completion leaves the capture alone. -/
@[simp] theorem State.completePlan_capture (s : State) (snap : Snapshot) :
    (s.completePlan snap).vol.capture = s.vol.capture := by
  simp only [State.completePlan, State.count_capture]
  split
  · rw [State.issue_capture]
  · rfl

/-- An applied amendment leaves the capture alone. -/
@[simp] theorem State.applyAmendment_capture (s : State) (am : Amendment) (p : Port) (role : Role) (ov : Bool) :
    (s.applyAmendment am p role ov).vol.capture = s.vol.capture := by
  simp [State.applyAmendment]

/-- The decision on a link's TRIAL leaves the capture alone, whichever case of R133 applies. -/
@[simp] theorem State.decideCommit_capture (s : State) (p : Port) (g : Group) (am : Amendment) (f : Figures) :
    (s.decideCommit p g am f).vol.capture = s.vol.capture := by
  have accepted (ov : Bool) : (s.acceptLive p g am f ov).vol.capture = s.vol.capture := by simp [State.acceptLive]
  unfold State.decideCommit
  split
  case h_1 => simp [State.replyLink]
  case h_2 =>
    split
    case h_1 => simp [State.refuseCommit]
    case h_2 =>
      split
      · exact accepted false
      · split
        · exact accepted true
        · simp

/-- A refused clearance leaves the capture alone. -/
@[simp] theorem State.denyClearance_capture (s : State) (c : CraneNo) : (s.denyClearance c).vol.capture = s.vol.capture := by
  simp [State.denyClearance]

/-- A granted clearance leaves the capture alone. -/
@[simp] theorem State.grantClearance_capture (s : State) (c : CraneNo) (h : Nat) (d : Direction) :
    (s.grantClearance c h d).vol.capture = s.vol.capture := by
  simp [State.grantClearance]

/-- The decision on a crane's TRIAL leaves the capture alone, whichever case of R150 applies. -/
@[simp] theorem State.decideClearance_capture (s : State) (p : Port) (role : Role) (c : CraneNo) (h : Nat) (d : Direction)
    (f : Figures) : (s.decideClearance p role c h d f).vol.capture = s.vol.capture := by
  simp only [State.decideClearance]
  split
  · simp
  · split
    · simp
    · split
      case h_1 => simp
      case h_2 => split <;> simp

/-- After the completion of a LIVE pass and the grant that follows it, the capture is the one updated by a verdict with the
figures, the generation and the clock of the pass's snapshot. -/
theorem exec_livePassComplete_capture (s : State) (snap : Snapshot)
    (h : s.vol.running = some { kind := .live, snap := snap }) :
    ∃ (t : State) (v : Verdict), exec .livePassComplete s = .next t ∧ t.vol.capture = s.vol.capture.update v ∧
      v.fig = evaluate s.book snap ∧ v.generation = snap.generation ∧ v.clock = snap.clock :=
  ⟨_, verdictOf .live s.book snap, exec_livePassComplete s snap h, by simp, rfl, rfl, rfl⟩

/-- PLAN passes do not reach the capture (R121). -/
theorem exec_planPassComplete_capture (s t : State) (h : exec .planPassComplete s = .next t) :
    t.vol.capture = s.vol.capture := by
  obtain rfl | ⟨snap, -, rfl⟩ := exec_planPassComplete_cases s t h
  · rfl
  · simp

/-- The TRIALs of links do not reach the capture (R121). -/
theorem exec_commitTrialComplete_capture (s t : State) (h : exec .commitTrialComplete s = .next t) :
    t.vol.capture = s.vol.capture := by
  obtain rfl | ⟨p, snap, role, g, am, -, -, rfl⟩ := exec_commitTrialComplete_cases s t h
  · rfl
  · simp

/-- The TRIALs of cranes do not reach the capture (R121). -/
theorem exec_clearanceTrialComplete_capture (s t : State) (h : exec .clearanceTrialComplete s = .next t) :
    t.vol.capture = s.vol.capture := by
  obtain rfl | ⟨p, snap, role, c, n, d, q, -, -, rfl⟩ := exec_clearanceTrialComplete_cases s t h
  · rfl
  · simp

/-- Settles O44: the capture of a LIVE completion is the one updated by its verdict, and each mode's part is a case of that
update; the other completions leave it alone. -/
theorem captureFollowsItsMode : Obligations.CaptureFollowsItsMode := by
  unfold Obligations.CaptureFollowsItsMode
  refine ⟨fun s snap hr => ?_, fun s t h => ?_⟩
  · obtain ⟨t, v, ht, hc, hfig, hgen, hclock⟩ := exec_livePassComplete_capture s snap hr
    simp only [← hfig, ← hgen, ← hclock]
    refine ⟨t, ht, ?_, fun hf => ?_, fun hf he => ?_, fun k hf hk => ⟨fun hm => ?_, fun hm => ?_⟩⟩ <;> rw [hc]
    · exact Capture.update_mode ..
    · rw [Capture.update_compliant _ _ hf]
    · exact Capture.update_empty _ _ hf he
    · rw [Capture.update_first _ _ k hk hm, hk]
    · exact ⟨_, Capture.update_all _ _ k hf hk hm, rfl, rfl, getElem_unionSets k.fails _⟩
  · obtain h | h | h := h
    · exact exec_planPassComplete_capture s t h
    · exact exec_commitTrialComplete_capture s t h
    · exact exec_clearanceTrialComplete_capture s t h

end Sys2Proof.Machine
end

section
/-!
PROOF. The arbiter's grant: the pass it chooses in each case of R113, and the state after it (06).
-/
namespace Sys2Proof.Machine

/-! ### The waiting TRIAL that stands earliest (R113) -/

/-- The earliest waiting TRIAL is that of a port before which none in the LRU order waits. -/
theorem State.nextTrial_of_split (s : State) (before : List Port) (p : Port) (after : List Port) (t : Trial)
    (hl : s.vol.lru = before ++ p :: after) (hb : ∀ q ∈ before, s.trial q = none) (ht : s.trial p = some t) :
    s.nextTrial = some (p, t) := by
  have none_before : before.findSome? (fun q => (s.trial q).map fun t => (q, t)) = none :=
    List.findSome?_eq_none_iff.mpr fun q hq => by simp [hb q hq]
  simp [State.nextTrial, hl, List.findSome?_append, none_before, ht]

/-- No TRIAL is next when no port has one. -/
theorem State.nextTrial_none (s : State) (h : ∀ p, s.trial p = none) : s.nextTrial = none :=
  List.findSome?_eq_none_iff.mpr fun q _ => by simp [h q]

/-- In an order without repetition, a port that moves to the most-recent end leaves the rest as it stood (R114). -/
theorem lruMove_split (before after : List Port) (p : Port) (h : (before ++ p :: after).Nodup) :
    lruMove (before ++ p :: after) p = before ++ after ++ [p] := by
  obtain ⟨-, hafter, hapart⟩ := List.nodup_append.mp h
  have kept (l : List Port) (hp : p ∉ l) : l.filter (fun q => decide (q ≠ p)) = l :=
    List.filter_eq_self.mpr fun q hq => decide_eq_true fun e => hp (e ▸ hq)
  have hb : p ∉ before := fun hm => hapart p hm p List.mem_cons_self rfl
  have ha : p ∉ after := (List.nodup_cons.mp hafter).1
  rw [lruMove, List.filter_append, List.filter_cons_of_neg (by simp), kept before hb, kept after ha]

/-- The LRU order names no port twice (R114). -/
theorem State.lruOrder.nodup {s : State} (h : s.lruOrder) : s.vol.lru.Nodup :=
  (List.Perm.nodup_iff h).mpr (by decide)

/-! ### What the arbiter chooses (R112, R113) -/

/-- Outside SERVICE, and while a pass runs, the arbiter chooses nothing. -/
theorem State.choice_closed (s : State) (h : s.part ≠ .service ∨ s.vol.running ≠ none) : s.choice = none :=
  if_neg fun ⟨hp, hr⟩ => h.elim (· hp) (· hr)

section Free
variable (s : State) (hp : s.part = .service) (hr : s.vol.running = none)
include hp hr

/-- A pending LIVE job is chosen first. -/
theorem State.choice_live (hl : s.vol.livePending = true) :
    s.choice = some { kind := .live, snap := s.snapshot s.vol.live (some s.observe) } := by
  simp [State.choice, hp, hr, hl]

/-- Without a LIVE job, the earliest waiting TRIAL is chosen. -/
theorem State.choice_trial (hl : s.vol.livePending = false) (p : Port) (t : Trial) (hn : s.nextTrial = some (p, t)) :
    s.choice = some { kind := .trial p, snap := s.snapshot (s.proposedSums t.change) none } := by
  simp [State.choice, hp, hr, hl, hn]

/-- Without a LIVE job and without a TRIAL, the choice is the PLAN job when it is pending. -/
theorem State.choice_plan (hl : s.vol.livePending = false) (hn : s.nextTrial = none) :
    s.choice = if s.vol.planPending then some { kind := .plan, snap := s.snapshot s.vol.plan none } else none := by
  simp [State.choice, hp, hr, hl, hn]

end Free

/-! ### The state after a grant -/

/-- Nothing chosen is nothing granted. -/
theorem State.grant_of_none (s : State) (h : s.choice = none) : s.grant = s := by
  simp [State.grant, h]

/-- The chosen pass runs, its job's mark is cleared, and a TRIAL's port moves in the LRU order. -/
theorem State.grant_of_choice (s : State) (pass : Pass) (h : s.choice = some pass) :
    s.grant =
      { s with
        vol.running := some pass
        vol.livePending := s.vol.livePending && decide (pass.kind ≠ .live)
        vol.planPending := s.vol.planPending && decide (pass.kind ≠ .plan)
        vol.lru := pass.kind.lruAfter s.vol.lru } := by
  simp [State.grant, h]

section Free
variable (s : State) (hp : s.part = .service) (hr : s.vol.running = none)
include hp hr

/-- The grant of a pending LIVE job. -/
theorem State.grant_livePass (hl : s.vol.livePending = true) :
    s.grant =
      { s with
        vol.running := some { kind := .live, snap := s.snapshot s.vol.live (some s.observe) }
        vol.livePending := false } := by
  rw [s.grant_of_choice _ (s.choice_live hp hr hl)]
  simp [PassKind.lruAfter]

/-- The grant of the earliest waiting TRIAL: its port moves from its place in the LRU order to the most-recent end. -/
theorem State.grant_trialPass (hl : s.vol.livePending = false) (ho : s.lruOrder) (before : List Port) (p : Port)
    (after : List Port) (t : Trial) (hs : s.vol.lru = before ++ p :: after) (hb : ∀ q ∈ before, s.trial q = none)
    (ht : s.trial p = some t) :
    s.grant =
      { s with
        vol.running := some { kind := .trial p, snap := s.snapshot (s.proposedSums t.change) none }
        vol.lru := before ++ after ++ [p] } := by
  have hn := s.nextTrial_of_split before p after t hs hb ht
  have moved : lruMove s.vol.lru p = before ++ after ++ [p] := by
    rw [hs]; exact lruMove_split before after p (hs ▸ ho.nodup)
  rw [s.grant_of_choice _ (s.choice_trial hp hr hl p t hn)]
  simp [PassKind.lruAfter, moved]

/-- The grant of a pending PLAN job, for which a LIVE job and the TRIALs leave room. -/
theorem State.grant_planPass (hl : s.vol.livePending = false) (ht : ∀ p, s.trial p = none) (hq : s.vol.planPending = true) :
    s.grant =
      { s with
        vol.running := some { kind := .plan, snap := s.snapshot s.vol.plan none }
        vol.planPending := false } := by
  have hc := (s.choice_plan hp hr hl (s.nextTrial_none ht)).trans (if_pos hq)
  rw [s.grant_of_choice _ hc]
  simp [PassKind.lruAfter]

/-- With no job waiting nothing is granted. -/
theorem State.grant_idle (hl : s.vol.livePending = false) (ht : ∀ p, s.trial p = none) (hq : s.vol.planPending = false) :
    s.grant = s :=
  s.grant_of_none ((s.choice_plan hp hr hl (s.nextTrial_none ht)).trans (by simp [hq]))

end Free

/-- Settles O45: the end of an operation grants and then begins frames, and the grant takes the cases of R113 in their order. -/
theorem arbiterGrantsInItsOrder : Obligations.ArbiterGrantsInItsOrder := by
  unfold Obligations.ArbiterGrantsInItsOrder
  refine fun s => ⟨rfl, fun h => s.grant_of_none (s.choice_closed h), fun hp hr => ⟨?_, ?_, ?_, ?_⟩⟩
  · exact s.grant_livePass hp hr
  · exact s.grant_trialPass hp hr
  · exact s.grant_planPass hp hr
  · exact s.grant_idle hp hr

end Sys2Proof.Machine
end

section
/-!
PROOF. The amendment links: what CLAIM, RELEASE-LINK and STAGE do in SERVICE, by the owner of the link (07).
-/
namespace Sys2Proof.Machine

/-! ### Hold groups and gates -/

/-- The number of a hold group names it. -/
@[simp] theorem groupIdx_val_add_one (g : Group) : groupIdx (g.val + 1) = some g := by
  have : 1 ≤ g.val + 1 ∧ g.val + 1 ≤ 6 := by omega
  simp [groupIdx, this]

/-- A number outside 1 to 6 names no hold group (R127). -/
theorem groupIdx_eq_none {n : Nat} (h : n = 0 ∨ 7 ≤ n) : groupIdx n = none :=
  dif_neg (by omega)

/-- The gate of some roles lets each of them pass. -/
theorem State.onlyRoles_eq_none {s : State} {p : Port} {roles : List Role} (v : RefValue) (h : s.role p ∈ roles) :
    s.onlyRoles roles v p = none :=
  if_pos (List.contains_iff_mem.2 h)

/-- A request that is no read and no writing of the book reaches its owning block from a port of one of its roles. -/
theorem State.serve_onlyRoles {s : State} {p : Port} {cmd : Instr} {roles : List Role} {v : RefValue}
    {block : State → State} (h : s.asks p cmd roles) :
    s.serve p cmd .condition (State.onlyRoles roles v p) block = block s := by
  obtain ⟨hpart, hserves, hrole⟩ := h
  exact s.serve_service p cmd _ _ _ hserves hpart (by decide) (State.onlyRoles_eq_none v hrole)

/-- The gate of STAGE lets an OFFICER or PLANNER port pass, and a SHORE port with a plan-only kind (R130). -/
theorem State.stageGate_eq_none {s : State} {p : Port} (n : Nat) {am : Amendment}
    (h : s.role p ∈ [.officer, .planner] ∨ (s.role p ∈ [.shore] ∧ am.isLive = false)) : s.stageGate n am p = none := by
  have mayStage : ¬ (s.role p = .shore ∧ am.isLive = true) := by rintro ⟨hr, hl⟩; simp [hr, hl] at h
  have hasRole : s.role p ∈ linkRoles := by
    obtain h | ⟨h, -⟩ := h
    · exact List.mem_append_left [.shore] h
    · exact List.mem_append_right [.officer, .planner] h
  rw [State.stageGate, if_neg mayStage, State.onlyRoles_eq_none _ hasRole]

/-- A space of the book is found by its number. -/
theorem State.spaceBook_eq_some {s : State} {space : Nat} {b : Space} (hn : space < s.book.spaceCount)
    (hb : s.book.spaces[space]? = some b) : s.spaceBook space = some b :=
  (if_pos hn).trans hb

/-- A number from the count of the book's spaces up names no space. -/
theorem State.spaceBook_eq_none {s : State} {space : Nat} (hn : s.book.spaceCount ≤ space) : s.spaceBook space = none :=
  if_neg (Nat.not_lt.2 hn)

/-! ### CLAIM (R128) -/

/-- Taking the link of another port tells the old owner alone by LINK-TAKEN. -/
theorem State.takeLink_other {s : State} {p : Port} {g : Group} {l : Link} (space : Nat) (hl : s.link g = some l)
    (ho : l.owner ≠ p) :
    s.takeLink p g space =
      (s.issueTo l.owner .linkTaken 0 [.u8 (g.val + 1), .u8 l.target, .u8 p.val]).setLink g
        (some { owner := p, target := space, staged := none, committing := false, override := false }) := by
  simp [State.takeLink, hl, ho, groupNo]

/-- Taking an invalid link or an own one sends no notice. -/
theorem State.takeLink_free {s : State} {p : Port} {g : Group} (space : Nat)
    (h : s.link g = none ∨ ∃ l, s.link g = some l ∧ l.owner = p) :
    s.takeLink p g space =
      s.setLink g (some { owner := p, target := space, staged := none, committing := false, override := false }) := by
  obtain hl | ⟨l, hl, ho⟩ := h
  · simp [State.takeLink, hl]
  · simp [State.takeLink, hl, ho]

/-- CLAIM of a space that exists takes the link of its hold group and answers the contents summary. -/
theorem exec_claim_found {s : State} {p : Port} {space : Nat} {b : Space} {g : Group}
    (h : s.asks p (.claim p space) linkRoles) (hb : s.spaceBook space = some b) (hg : b.group = g.val + 1) :
    exec (.claim p space) s = .next ((s.takeLink p g space).answer p .done (s.summary space b)).settle := by
  have arm : exec (.claim p space) s = execClaim p space s := rfl
  rw [arm, execClaim, State.serve_onlyRoles h]
  simp [hb, hg, State.done]

/-- CLAIM of a space that does not exist is OUT-OF-SPACE. -/
theorem exec_claim_outOfSpace {s : State} {p : Port} {space : Nat} (h : s.asks p (.claim p space) linkRoles)
    (hb : s.spaceBook space = none) : exec (.claim p space) s = .next (s.refuse p .outOfSpace (.space space)) := by
  have arm : exec (.claim p space) s = execClaim p space s := rfl
  rw [arm, execClaim, State.serve_onlyRoles h]
  simp [hb]

/-! ### RELEASE-LINK (R135) -/

/-- RELEASE-LINK of a number that names no hold group is MALFORMED. -/
theorem exec_releaseLink_malformed {s : State} {p : Port} {n : Nat} (h : s.asks p (.releaseLink p n) linkRoles)
    (hn : groupIdx n = none) : exec (.releaseLink p n) s = .next (s.answer p .malformed []) := by
  have arm : exec (.releaseLink p n) s = execReleaseLink p n s := rfl
  rw [arm, execReleaseLink, State.serve_onlyRoles h]
  simp [hn, State.malformed]

section ReleaseLink
variable {s : State} {p : Port} {n : Nat} {g : Group} (h : s.asks p (.releaseLink p n) linkRoles)
  (hn : groupIdx n = some g)
include h hn

/-- RELEASE-LINK invalidates the requesting port's own link. -/
theorem exec_releaseLink_own {l : Link} (hl : s.link g = some l) (ho : l.owner = p) :
    exec (.releaseLink p n) s = .next ((s.setLink g none).answer p .done []) := by
  have arm : exec (.releaseLink p n) s = execReleaseLink p n s := rfl
  rw [arm, execReleaseLink, State.serve_onlyRoles h]
  simp [hn, hl, ho, State.done]

/-- RELEASE-LINK of an invalid link or another port's is LINK-ABSENT, and the link stands. -/
theorem exec_releaseLink_absent (hl : s.link g = none ∨ ∃ l, s.link g = some l ∧ l.owner ≠ p) :
    exec (.releaseLink p n) s = .next (s.answer p .linkAbsent []) := by
  have arm : exec (.releaseLink p n) s = execReleaseLink p n s := rfl
  rw [arm, execReleaseLink, State.serve_onlyRoles h]
  obtain hl | ⟨l, hl, ho⟩ := hl
  · simp [hn, hl]
  · simp [hn, hl, ho]

end ReleaseLink

/-! ### STAGE by the columns of R129 -/

/-- First column: on an invalid link or another port's the amendment is ignored. -/
theorem State.stageOn_ignored {s : State} {p : Port} {g : Group} (am : Amendment)
    (h : s.link g = none ∨ ∃ l, s.link g = some l ∧ l.owner ≠ p) : s.stageOn p g am = s.answer p .stageIgnored [] := by
  obtain hl | ⟨l, hl, ho⟩ := h
  · simp [State.stageOn, hl]
  · simp [State.stageOn, hl, ho]

section Own
variable {s : State} {p : Port} {g : Group} {l : Link} {am : Amendment} (hl : s.link g = some l) (ho : l.owner = p)
include hl ho

/-- Second and third column: an own link is lost where the space is not the target or something is staged already. -/
theorem State.stageOn_lost (h : s.amendSpace am ≠ some l.target ∨ l.staged ≠ none) :
    s.stageOn p g am = ((s.setLink g none).answer p .linkLost []).count (s.amendmentEvent 3 p g) := by
  have notStored : ¬ (s.amendSpace am = some l.target ∧ l.staged = none) := fun ⟨ht, hs⟩ => h.elim (· ht) (· hs)
  rw [State.stageOn, hl]
  simp only [ho, ne_eq, not_true_eq_false, if_false, if_neg notStored]

/-- Last column: an own link with its target and nothing staged stores the amendment. -/
theorem State.stageOn_stored (ht : s.amendSpace am = some l.target) (hs : l.staged = none) :
    s.stageOn p g am = (s.setLink g (some { l with staged := some am })).answer p .done [] := by
  simp [State.stageOn, hl, ho, ht, hs, State.done]

end Own

section Stage
variable {s : State} {p : Port} {n : Nat} {am : Amendment} (hpart : s.part = .service)
  (hserves : s.serves p (.stage p n am) = true) (hgate : s.stageGate n am p = none)
include hpart hserves hgate

/-- STAGE that its gate lets pass is MALFORMED where no hold group is named or a field lies outside its range (R127). -/
theorem exec_stage_malformed (h : groupIdx n = none ∨ amendmentOk s.book am = false) :
    exec (.stage p n am) s = .next (s.answer p .malformed []) := by
  have arm : exec (.stage p n am) s = execStage p n am s := rfl
  rw [arm, execStage, s.serve_service p _ _ _ _ hserves hpart (by decide) hgate]
  obtain h | h := h <;> simp [h, State.malformed]

/-- STAGE that its gate lets pass and whose fields are in their ranges acts on the link of the hold group named. -/
theorem exec_stage_wellFormed {g : Group} (hn : groupIdx n = some g) (hok : amendmentOk s.book am = true) :
    exec (.stage p n am) s = .next (s.stageOn p g am).settle := by
  have arm : exec (.stage p n am) s = execStage p n am s := rfl
  rw [arm, execStage, s.serve_service p _ _ _ _ hserves hpart (by decide) hgate]
  simp [hn, hok]

end Stage

/-- Settles O48: a well-formed STAGE is `State.stageOn`, whose columns are tested in the order of R129. -/
theorem stageFollowsItsTable : Obligations.StageFollowsItsTable := by
  unfold Obligations.StageFollowsItsTable
  intro s p n am h
  obtain ⟨hpart, hserves, hgate⟩ :
      s.part = .service ∧ s.serves p (.stage p n am) = true ∧ s.stageGate n am p = none := by
    obtain ⟨hpart, hserves, hrole⟩ | ⟨⟨hpart, hserves, hrole⟩, hlive⟩ := h
    · exact ⟨hpart, hserves, State.stageGate_eq_none n (.inl hrole)⟩
    · exact ⟨hpart, hserves, State.stageGate_eq_none n (.inr ⟨hrole, hlive⟩)⟩
  refine ⟨fun hbad => ?malformed, fun g hn hok => ?wellFormed⟩
  case malformed =>
    exact exec_stage_malformed hpart hserves hgate ((or_assoc.2 hbad).imp_left groupIdx_eq_none)
  case wellFormed =>
    subst hn
    rw [exec_stage_wellFormed hpart hserves hgate (groupIdx_val_add_one g) hok]
    refine ⟨fun hl => ?_, fun l hl ho => ⟨fun hlost => ?_, fun ht hs => ?_⟩⟩
    · rw [State.stageOn_ignored am hl]
    · rw [State.stageOn_lost hl ho hlost, State.amendmentEvent, groupNo]
    · rw [State.stageOn_stored hl ho ht hs]

/-- Settles O47: CLAIM by `State.takeLink`, with and without an old owner to tell, and RELEASE-LINK by the link's owner. -/
theorem claimTakesAndReleaseFreesTheLink : Obligations.ClaimTakesAndReleaseFreesTheLink := by
  unfold Obligations.ClaimTakesAndReleaseFreesTheLink
  intro s p
  refine ⟨fun space b g h hn hb hg => ?found, fun space h hn => ?outOfSpace, fun g h => ?release, fun n h hn => ?badGroup⟩
  case found =>
    rw [exec_claim_found h (State.spaceBook_eq_some hn hb) hg]
    refine ⟨fun l hl ho => ?_, fun hfree => ?_⟩
    · rw [State.takeLink_other space hl ho]; rfl
    · rw [State.takeLink_free space hfree]; rfl
  case outOfSpace => exact exec_claim_outOfSpace h (State.spaceBook_eq_none hn)
  case release =>
    have hg := groupIdx_val_add_one g
    exact ⟨fun l hl ho => exec_releaseLink_own h hg hl ho, exec_releaseLink_absent h hg⟩
  case badGroup => exact exec_releaseLink_malformed h (groupIdx_eq_none hn)

end Sys2Proof.Machine
end

section
/-!
PROOF. What one operation of the engine can move: the quiet operations, which leave the retained condition, the sums, the Reading
Queue and the crane records alone, and the operations that leave the arbiter and the lines at rest. Every command is later
composed of these (01, 02, 04, 06, 07, 09).
-/
namespace Sys2Proof.Machine

/-! ### The bounds of a port (R163, R166, R173) -/

theorem PortState.bounded.discard {q : PortState} (h : q.bounded) : q.discard.bounded := by
  obtain ⟨hreq, hrep, hnot, -⟩ := h
  exact ⟨hreq, hrep, hnot, Nat.min_le_right _ _⟩

theorem PortState.bounded.pump {q : PortState} (h : q.bounded) : q.pump.bounded := by
  obtain ⟨hreq, hrep, hnot, hdis⟩ := h
  rcases q.pump_cases with e | ⟨r, rest, -, hr, e⟩ | ⟨n, rest, -, -, hn, e⟩ <;> rw [e]
  · exact ⟨hreq, hrep, hnot, hdis⟩
  · rw [hr, List.length_cons] at hrep
    exact ⟨hreq, Nat.le_of_succ_le hrep, hnot, hdis⟩
  · rw [hn, List.length_cons] at hnot
    exact ⟨hreq, hrep, Nat.le_of_succ_le hnot, hdis⟩

/-- A list below its bound takes one more. -/
theorem length_append_one_le {α : Type} {l : List α} {n : Nat} (h : l.length < n) (x : α) : (l ++ [x]).length ≤ n := by
  rw [List.length_append, List.length_singleton]
  exact h

theorem PortState.bounded.pushReply {q : PortState} (h : q.bounded) (r : Reply) : (q.pushReply r).bounded := by
  rcases q.pushReply_cases r with ⟨hlt, e⟩ | ⟨-, e⟩ <;> rw [e]
  · obtain ⟨hreq, -, hnot, hdis⟩ := h
    exact ⟨hreq, length_append_one_le hlt _, hnot, hdis⟩
  · exact h.discard

theorem PortState.bounded.pushNotice {q : PortState} (h : q.bounded) (n : Notice) : (q.pushNotice n).bounded := by
  obtain ⟨hreq, hrep, hnot, hdis⟩ := h
  rcases q.pushNotice_cases n with e | e | ⟨hlt, e⟩ | ⟨-, e⟩ <;> rw [e]
  · exact ⟨hreq, hrep, hnot, hdis⟩
  · exact ⟨hreq, hrep, by simpa using hnot, hdis⟩
  · exact ⟨hreq, hrep, length_append_one_le hlt _, hdis⟩
  · exact ⟨hreq, hrep, hnot, hdis⟩

theorem PortState.bounded.answer {q : PortState} (h : q.bounded) (st : Status) (body : List Val) :
    (q.answer st body).bounded := by
  unfold PortState.answer
  split
  · exact h
  · rename_i r rest hr
    have shorter : PortState.bounded { q with requests := rest } := by
      obtain ⟨hreq, hrep, hnot, hdis⟩ := h
      rw [hr, List.length_cons] at hreq
      exact ⟨Nat.le_of_succ_le hreq, hrep, hnot, hdis⟩
    dsimp only
    split
    · exact shorter
    · exact (shorter.pushReply _).pump

theorem PortState.bounded.enqueue {q : PortState} (h : q.bounded) (r : Request) : (q.enqueue r).bounded := by
  unfold PortState.enqueue
  split
  · rename_i hlt
    obtain ⟨-, hrep, hnot, hdis⟩ := h
    exact ⟨length_append_one_le hlt _, hrep, hnot, hdis⟩
  · exact (h.pushReply _).pump

theorem PortState.shed_requests (q : PortState) :
    q.shed.requests = (q.requests.take 1).map fun r => { r with orphaned := true } := by
  unfold PortState.shed
  cases q.requests <;> simp

theorem PortState.bounded.shed {q : PortState} (h : q.bounded) : q.shed.bounded := by
  obtain ⟨-, -, -, hdis⟩ := h
  refine ⟨?_, Nat.zero_le _, Nat.zero_le _, hdis⟩
  rw [q.shed_requests, List.length_map, List.length_take]
  omega

theorem PortState.bounded.dropPartial {q : PortState} (h : q.bounded) : q.dropPartial.bounded := by
  unfold PortState.dropPartial
  split
  · exact h.discard
  · exact h

/-! ### A free line has nothing waiting (R175) -/

/-- After the pump nothing waits for a free line. -/
theorem PortState.pump_lineInv (q : PortState) : q.pump.lineInv := by
  intro hfree
  rcases q.pump_cases with e | ⟨r, rest, -, -, e⟩ | ⟨n, rest, -, -, -, e⟩ <;> rw [e] at hfree ⊢
  · revert hfree
    rw [← e]
    unfold PortState.pump
    intro hfree
    split at hfree
    · rename_i f hf; rw [hf] at hfree; cases hfree
    · split at hfree
      · cases hfree
      · cases hfree
      · rename_i hr hn
        exact ⟨by simp [*], by simp [*]⟩
  · cases hfree
  · cases hfree

theorem PortState.lineInv.answer {q : PortState} (h : q.lineInv) (st : Status) (body : List Val) :
    (q.answer st body).lineInv := by
  unfold PortState.answer
  split
  · exact h
  · dsimp only
    split
    · exact h
    · exact PortState.pump_lineInv _

theorem PortState.lineInv.enqueue {q : PortState} (h : q.lineInv) (r : Request) : (q.enqueue r).lineInv := by
  unfold PortState.enqueue
  split
  · exact h
  · exact PortState.pump_lineInv _

theorem PortState.lineInv.dropPartial {q : PortState} (h : q.lineInv) : q.dropPartial.lineInv := by
  unfold PortState.dropPartial
  split <;> exact h

/-! ### Quiet operations -/

/-- From `s` to `t` the engine does nothing that the retained condition, the sums, the Reading Queue or the crane records show,
and keeps the bounds of the ports and the LRU order. -/
structure State.Quiet (s t : State) : Prop where
  part : t.part = s.part
  book : t.book = s.book
  bookStatus : t.bookStatus = s.bookStatus
  pending : t.pending = s.pending
  kept : t.kept = s.kept
  keptCheck : t.keptCheck = s.keptCheck
  queue : t.vol.queue = s.vol.queue
  cranes : t.vol.cranes = s.vol.cranes
  live : t.vol.live = s.vol.live
  plan : t.vol.plan = s.vol.plan
  lru : s.lruOrder → t.lruOrder
  bounded : s.portsBounded → t.portsBounded

namespace State.Quiet

theorem refl (s : State) : s.Quiet s := ⟨rfl, rfl, rfl, rfl, rfl, rfl, rfl, rfl, rfl, rfl, id, id⟩

theorem trans {s t u : State} (h : s.Quiet t) (k : t.Quiet u) : s.Quiet u :=
  ⟨k.part.trans h.part, k.book.trans h.book, k.bookStatus.trans h.bookStatus, k.pending.trans h.pending,
   k.kept.trans h.kept, k.keptCheck.trans h.keptCheck, k.queue.trans h.queue, k.cranes.trans h.cranes,
   k.live.trans h.live, k.plan.trans h.plan, k.lru ∘ h.lru, k.bounded ∘ h.bounded⟩

end State.Quiet

/-- A change of one port that keeps its bounds is quiet. -/
theorem State.onPort_quiet (s : State) (p : Port) (f : PortState → PortState)
    (h : (s.port p).bounded → (f (s.port p)).bounded) : s.Quiet (s.onPort p f) := by
  refine ⟨rfl, rfl, rfl, rfl, rfl, rfl, rfl, rfl, rfl, rfl, id, fun hs q => ?_⟩
  rw [State.onPort_port]
  split
  · exact h (hs p)
  · exact hs q

theorem State.answer_quiet (s : State) (p : Port) (st : Status) (body : List Val) : s.Quiet (s.answer p st body) :=
  s.onPort_quiet p _ fun h => h.answer st body

theorem State.discardAt_quiet (s : State) (p : Port) : s.Quiet (s.discardAt p) := s.onPort_quiet p _ fun h => h.discard

theorem State.hear_quiet (s : State) (p : Port) : s.Quiet (s.hear p) := s.onPort_quiet p _ fun h => h

theorem notifyAll_bounded (ports : Vector PortState 6) (n : Notice) (h : ∀ p : Port, ports[p.val].bounded) (p : Port) :
    (notifyAll ports n)[p.val].bounded := by
  rw [notifyAll, Vector.getElem_map]
  exact (h p).pushNotice n

theorem State.issue_quiet (s : State) (kind : NoticeKind) (subject : Nat) (body : List Val) :
    s.Quiet (s.issue kind subject body) := by
  refine ⟨rfl, rfl, rfl, rfl, rfl, rfl, rfl, rfl, rfl, rfl, id, fun hs p => ?_⟩
  unfold State.issue State.port
  dsimp only
  split
  · exact notifyAll_bounded _ _ hs p
  · exact hs p

theorem State.issueTo_eq (s : State) (p : Port) (kind : NoticeKind) (subject : Nat) (body : List Val) :
    s.issueTo p kind subject body =
      if s.part = .service then s.onPort p fun q => q.pushNotice (s.notice kind subject body) else s := by
  unfold State.issueTo
  split <;> rfl

theorem State.issueTo_quiet (s : State) (p : Port) (kind : NoticeKind) (subject : Nat) (body : List Val) :
    s.Quiet (s.issueTo p kind subject body) := by
  rw [s.issueTo_eq]
  split
  · exact s.onPort_quiet p _ fun h => h.pushNotice _
  · exact .refl s

theorem State.permitNotice_quiet (s : State) (c : CraneNo) : s.Quiet (s.permitNotice c) := s.issue_quiet _ _ _

/-- The bounds of the ports that a count of events carries along. -/
def Counting.bounded (c : Counting) : Prop := ∀ p : Port, c.ports[p.val].bounded

theorem Counting.bounded.offer {c : Counting} (h : c.bounded) (s : State) (e : TallyEvent) (i : Fin 8) :
    (s.offer e c i).bounded := by
  unfold State.offer
  dsimp only
  split
  · intro p
    dsimp only
    split
    · exact notifyAll_bounded _ _ h p
    · exact h p
  · exact h

theorem Counting.bounded.offerAll {c : Counting} (h : c.bounded) (s : State) (e : TallyEvent) :
    (s.offerAll c e).bounded := by
  unfold State.offerAll
  generalize List.finRange 8 = is
  induction is generalizing c with
  | nil => exact h
  | cons i is ih => exact ih (h.offer s e i)

theorem Counting.bounded.offerEach {c : Counting} (h : c.bounded) (s : State) (es : List TallyEvent) :
    (es.foldl s.offerAll c).bounded := by
  induction es generalizing c with
  | nil => exact h
  | cons e es ih =>
    rw [List.foldl_cons]
    exact ih (h.offerAll s e)

theorem State.counted_bounded (s : State) (es : List TallyEvent) (h : s.portsBounded) : (s.counted es).bounded :=
  Counting.bounded.offerEach (c := { tallies := s.vol.tallies, ports := s.vol.ports }) h s es

theorem State.countAll_quiet (s : State) (es : List TallyEvent) : s.Quiet (s.countAll es) :=
  ⟨rfl, rfl, rfl, rfl, rfl, rfl, rfl, rfl, rfl, rfl, id, fun h => s.counted_bounded es h⟩

theorem State.count_quiet (s : State) (e : TallyEvent) : s.Quiet (s.count e) := s.countAll_quiet [e]

theorem State.pumpAll_quiet (s : State) : s.Quiet s.pumpAll := by
  refine ⟨rfl, rfl, rfl, rfl, rfl, rfl, rfl, rfl, rfl, rfl, id, fun hs p => ?_⟩
  rw [State.pumpAll_port]
  exact (hs p).pump

/-- Moving a port to the most-recent end gives an ordering of the same ports (R114). -/
theorem lruMove_perm (lru : List Port) (p : Port) (hp : p ∈ lru) (hn : lru.Nodup) : (lruMove lru p).Perm lru := by
  have herase : lru.filter (fun q => decide (q ≠ p)) = lru.erase p := by
    rw [hn.erase_eq_filter]
    exact List.filter_congr fun q _ => by by_cases h : q = p <;> simp [h]
  rw [lruMove, herase]
  exact List.perm_append_comm.trans (List.perm_cons_erase hp).symm

theorem State.lruOrder.mem {s : State} (h : s.lruOrder) (p : Port) : p ∈ s.vol.lru :=
  h.mem_iff.2 (by revert p; decide)

theorem State.grant_quiet (s : State) : s.Quiet s.grant := by
  refine ⟨by simp, by simp, by simp, by simp, by simp, by simp, by simp, by simp, by simp, by simp, fun h => ?_, fun hs p => ?_⟩
  · rcases s.grant_cases with ⟨-, e⟩ | ⟨pass, -, e⟩ <;> rw [e]
    · exact h
    · unfold State.lruOrder
      dsimp only
      cases pass.kind with
      | live => exact h
      | plan => exact h
      | trial p => exact (lruMove_perm _ p (h.mem p) h.nodup).trans h
  · have : s.grant.port p = s.port p := by simp [State.port]
    rw [this]
    exact hs p

theorem State.settle_quiet (s : State) : s.Quiet s.settle := s.grant_quiet.trans s.grant.pumpAll_quiet

theorem State.setLink_quiet (s : State) (g : Group) (l : Option Link) : s.Quiet (s.setLink g l) :=
  ⟨rfl, rfl, rfl, rfl, rfl, rfl, rfl, rfl, rfl, rfl, id, id⟩

theorem State.breakLinks_quiet (s : State) (test : Link → Bool) : s.Quiet (s.breakLinks test) :=
  ⟨rfl, rfl, rfl, rfl, rfl, rfl, rfl, rfl, rfl, rfl, id, id⟩

theorem State.pendLive_quiet (s : State) : s.Quiet s.pendLive :=
  ⟨rfl, rfl, rfl, rfl, rfl, rfl, rfl, rfl, rfl, rfl, id, id⟩

theorem State.pendPlan_quiet (s : State) : s.Quiet s.pendPlan :=
  ⟨rfl, rfl, rfl, rfl, rfl, rfl, rfl, rfl, rfl, rfl, id, id⟩

theorem State.endTrial_quiet (s : State) (p : Port) : s.Quiet (s.endTrial p) :=
  ⟨rfl, rfl, rfl, rfl, rfl, rfl, rfl, rfl, rfl, rfl, id, id⟩

theorem State.onChannelLive_quiet (s : State) (ch : ChannelNo) (f : ChannelLive → ChannelLive) :
    s.Quiet (s.onChannelLive ch f) :=
  ⟨rfl, rfl, rfl, rfl, rfl, rfl, rfl, rfl, rfl, rfl, id, id⟩

theorem State.onTally_quiet (s : State) (i : Fin 8) (f : Tally → Tally) : s.Quiet (s.onTally i f) :=
  ⟨rfl, rfl, rfl, rfl, rfl, rfl, rfl, rfl, rfl, rfl, id, id⟩

theorem State.breach_quiet (s : State) (p : Port) (kind : Byte) (cause : Cause) (v : RefValue) :
    s.Quiet (s.breach p kind cause v) := by
  unfold State.breach
  refine State.Quiet.trans ?_ ((State.issue_quiet _ _ _ _).trans (State.count_quiet _ _))
  exact ⟨rfl, rfl, rfl, rfl, rfl, rfl, rfl, rfl, rfl, rfl, id, id⟩

/-! ### The arbiter and the lines at rest (R112, R175) -/

/-- From `s` to `t` nothing begins to wait, for the arbiter or for a free line. -/
structure State.Calm (s t : State) : Prop where
  part : t.part = s.part
  running : t.vol.running = s.vol.running
  livePending : t.vol.livePending = s.vol.livePending
  planPending : t.vol.planPending = s.vol.planPending
  trials : t.vol.trials = s.vol.trials
  lru : t.vol.lru = s.vol.lru
  lines : s.linesInv → t.linesInv

namespace State.Calm

theorem refl (s : State) : s.Calm s := ⟨rfl, rfl, rfl, rfl, rfl, rfl, id⟩

theorem trans {s t u : State} (h : s.Calm t) (k : t.Calm u) : s.Calm u :=
  ⟨k.part.trans h.part, k.running.trans h.running, k.livePending.trans h.livePending,
   k.planPending.trans h.planPending, k.trials.trans h.trials, k.lru.trans h.lru, k.lines ∘ h.lines⟩

/-- Where nothing begins to wait, the arbiter's invariant stands. -/
theorem evaluatorInv {s t : State} (h : s.Calm t) (hs : s.evaluatorInv) : t.evaluatorInv := by
  obtain ⟨horder, hbusy⟩ := hs
  refine ⟨by rw [State.lruOrder, h.lru]; exact horder, fun hp hr => ?_⟩
  rw [h.livePending, h.planPending]
  obtain ⟨hl, hq, ht⟩ := hbusy (h.part ▸ hp) (h.running ▸ hr)
  refine ⟨hl, hq, fun p => ?_⟩
  rw [State.trial, h.trials]
  exact ht p

end State.Calm

/-- A change of one port that leaves nothing waiting for its free line is calm. -/
theorem State.onPort_calm (s : State) (p : Port) (f : PortState → PortState)
    (h : (s.port p).lineInv → (f (s.port p)).lineInv) : s.Calm (s.onPort p f) := by
  refine ⟨rfl, rfl, rfl, rfl, rfl, rfl, fun hs q => ?_⟩
  rw [State.onPort_port]
  split
  · exact h (hs p)
  · exact hs q

theorem State.answer_calm (s : State) (p : Port) (st : Status) (body : List Val) : s.Calm (s.answer p st body) :=
  s.onPort_calm p _ fun h => h.answer st body

/-- After an operation settles no line is free with something waiting. -/
theorem State.settle_linesInv (s : State) : s.settle.linesInv := by
  intro p
  rw [State.settle, State.pumpAll_port]
  exact PortState.pump_lineInv _

/-- An order of all ports finds a waiting TRIAL, if there is one. -/
theorem State.nextTrial_eq_none {s : State} (ho : s.lruOrder) (h : s.nextTrial = none) (p : Port) : s.trial p = none := by
  have := List.findSome?_eq_none_iff.1 h p (ho.mem p)
  simpa using this

/-- After an operation settles in SERVICE, a free arbiter has no job waiting. -/
theorem State.settle_arbiterBusy (s : State) (ho : s.lruOrder) : s.settle.arbiterBusy := by
  intro hp hr
  rw [State.settle_part] at hp
  have hrun : s.settle.vol.running = s.grant.vol.running := by simp [State.settle]
  rcases s.grant_cases with ⟨hc, e⟩ | ⟨pass, -, e⟩
  · rw [hrun, e] at hr
    have hfree : s.part = .service ∧ s.vol.running = none := ⟨hp, hr⟩
    rw [State.choice, if_pos hfree] at hc
    have ht : ∀ p, s.settle.trial p = s.trial p := fun p => by simp [State.trial]
    have hl : s.settle.vol.livePending = s.vol.livePending := by simp [State.settle, e]
    have hq : s.settle.vol.planPending = s.vol.planPending := by simp [State.settle, e]
    rw [hl, hq]
    split at hc
    · cases hc
    · rename_i hlive
      split at hc
      · cases hc
      · rename_i hnext
        refine ⟨by simpa using hlive, ?_, fun p => (ht p).trans (s.nextTrial_eq_none ho hnext p)⟩
        simpa using hc
  · rw [hrun, e] at hr
    cases hr

end Sys2Proof.Machine
end

section
/-!
PROOF. The Stowage Table under each change of the table: the lot records, the stow sequence lists, the ashore list and the crane
records stay in agreement (R21, R25, R39, R143, R145).
-/
namespace Sys2Proof.Machine

/-! ### A change of one lot -/

/-- The lot of a handle is one that the list of a space holds (R39). -/
def Kept.listedIn (k : Kept) (h n : Nat) : Prop := ∃ l, k.lot h = some l ∧ l.state.listed = true ∧ l.space = n

/-- The lot of a handle is ASHORE (R25). -/
def Kept.ashoreLot (k : Kept) (h : Nat) : Prop := ∃ l, k.lot h = some l ∧ l.state.isAshore = true

/-- The lot of a handle is HOOKED on a crane in a direction (R145). -/
def Kept.hookedOn (k : Kept) (h : Nat) (c : CraneNo) (d : Direction) : Prop :=
  ∃ l, k.lot h = some l ∧ l.state.crane = some c ∧ l.state.direction = some d

/-- Lot and direction of what hangs on a crane in the retained condition. -/
def Kept.lift (k : Kept) (c : CraneNo) : Option (Nat × Direction) := k.cranes[c.val].lift

/-- A handle with a record is below 1024 (R21). -/
theorem Kept.lotsInv.lt {k : Kept} (hk : k.lotsInv) {h : Nat} {l : Lot} (hl : k.lot h = some l) : h < 1024 :=
  ((tableWf_iff _ _).1 hk.1).2 h (List.mem_map.2 ⟨(h, l), (mem_iff_tableGet _ _ hk.1 h l).2 hl, rfl⟩)

theorem Kept.listedIn_congr {k k' : Kept} {h : Nat} (e : k'.lot h = k.lot h) (n : Nat) : k'.listedIn h n ↔ k.listedIn h n := by
  unfold Kept.listedIn; rw [e]

theorem Kept.ashoreLot_congr {k k' : Kept} {h : Nat} (e : k'.lot h = k.lot h) : k'.ashoreLot h ↔ k.ashoreLot h := by
  unfold Kept.ashoreLot; rw [e]

theorem Kept.hookedOn_congr {k k' : Kept} {h : Nat} (e : k'.lot h = k.lot h) (c : CraneNo) (d : Direction) :
    k'.hookedOn h c d ↔ k.hookedOn h c d := by
  unfold Kept.hookedOn; rw [e]

theorem Kept.listedIn_iff {k : Kept} {h : Nat} {l : Lot} (e : k.lot h = some l) (n : Nat) :
    k.listedIn h n ↔ l.state.listed = true ∧ l.space = n := by
  simp [Kept.listedIn, e]

theorem Kept.ashoreLot_iff {k : Kept} {h : Nat} {l : Lot} (e : k.lot h = some l) :
    k.ashoreLot h ↔ l.state.isAshore = true := by
  simp [Kept.ashoreLot, e]

theorem Kept.hookedOn_iff {k : Kept} {h : Nat} {l : Lot} (e : k.lot h = some l) (c : CraneNo) (d : Direction) :
    k.hookedOn h c d ↔ l.state.crane = some c ∧ l.state.direction = some d := by
  simp [Kept.hookedOn, e]

theorem Kept.not_listedIn {k : Kept} {h : Nat} (e : k.lot h = none) (n : Nat) : ¬ k.listedIn h n := by
  simp [Kept.listedIn, e]

theorem Kept.not_ashoreLot {k : Kept} {h : Nat} (e : k.lot h = none) : ¬ k.ashoreLot h := by
  simp [Kept.ashoreLot, e]

theorem Kept.not_hookedOn {k : Kept} {h : Nat} (e : k.lot h = none) (c : CraneNo) (d : Direction) : ¬ k.hookedOn h c d := by
  simp [Kept.hookedOn, e]

/-- A change of one lot, with the lists and the crane records that follow it, keeps the Stowage Table in agreement. -/
theorem Kept.tableInv.change {k k' : Kept} (h : Nat) (hk : k.tableInv)
    (frame : ∀ j, j ≠ h → k'.lot j = k.lot j)
    (wf : tableWf Config.handles k'.lots = true)
    (space : ∀ l, k'.lot h = some l → l.space < 48)
    (ashoreNodup : k'.ashore.Nodup) (ashoreOther : ∀ j, j ≠ h → (j ∈ k'.ashore ↔ j ∈ k.ashore))
    (ashoreSelf : h ∈ k'.ashore ↔ k'.ashoreLot h)
    (stowNodup : ∀ n, (k'.stowList n).Nodup) (stowOther : ∀ n j, j ≠ h → (j ∈ k'.stowList n ↔ j ∈ k.stowList n))
    (stowSelf : ∀ n, h ∈ k'.stowList n ↔ k'.listedIn h n)
    (hook : k'.hookInv) : k'.tableInv := by
  obtain ⟨hlots, hashore, hstow, -⟩ := hk
  refine ⟨⟨wf, fun j l hj => ?_⟩, ⟨ashoreNodup, fun j => ?_⟩, fun n => ⟨stowNodup n, fun j => ?_⟩, hook⟩ <;>
    by_cases e : j = h
  · subst e; exact space l hj
  · exact hlots.2 j l (frame j e ▸ hj)
  · subst e; exact ashoreSelf
  · exact (ashoreOther j e).trans ((hashore.2 j).trans (Kept.ashoreLot_congr (frame j e)).symm)
  · subst e; exact stowSelf n
  · exact (stowOther n j e).trans (((hstow n).2 j).trans (Kept.listedIn_congr (frame j e) n).symm)

/-- A change that leaves what hangs on each crane, and which lots are HOOKED, as they were. -/
theorem Kept.hookInv.same {k k' : Kept} (hk : k.hookInv) (cranes : ∀ c, k'.lift c = k.lift c)
    (lots : ∀ h c d, k'.hookedOn h c d ↔ k.hookedOn h c d) : k'.hookInv := by
  intro c h d
  change k'.lift c = _ ↔ k'.hookedOn h c d
  rw [cranes c, lots h c d]
  exact hk c h d

/-- A change of one lot that is HOOKED neither before nor after. -/
theorem Kept.hookInv.unhooked {k k' : Kept} (h : Nat) (hk : k.hookInv) (cranes : k'.cranes = k.cranes)
    (frame : ∀ j, j ≠ h → k'.lot j = k.lot j) (before : ∀ c d, ¬ k.hookedOn h c d) (after : ∀ c d, ¬ k'.hookedOn h c d) :
    k'.hookInv := by
  refine hk.same (fun c => by rw [Kept.lift, Kept.lift, cranes]) fun j c d => ?_
  by_cases e : j = h
  · subst e; exact iff_of_false (after c d) (before c d)
  · exact Kept.hookedOn_congr (frame j e) c d

/-- A change of one lot and one crane: no other lot hangs on the crane, and the lot hangs on no other crane. -/
theorem Kept.hookInv.move {k k' : Kept} (h : Nat) (c : CraneNo) (hk : k.hookInv)
    (frame : ∀ j, j ≠ h → k'.lot j = k.lot j) (cranes : ∀ e, e ≠ c → k'.lift e = k.lift e)
    (alone : ∀ j d, k.lift c = some (j, d) → j = h)
    (before : ∀ e d, k.hookedOn h e d → e = c) (after : ∀ e d, k'.hookedOn h e d → e = c)
    (now : ∀ j d, k'.lift c = some (j, d) ↔ j = h ∧ k'.hookedOn h c d) : k'.hookInv := by
  intro e j d
  change k'.lift e = _ ↔ k'.hookedOn j e d
  by_cases hec : e = c
  · subst hec
    rw [now j d]
    by_cases hj : j = h
    · subst hj; simp
    · refine iff_of_false (fun hc => hj hc.1) fun hc => hj (alone j d ?_)
      exact (hk e j d).2 ((Kept.hookedOn_congr (frame j hj) e d).1 hc)
  · rw [cranes e hec]
    refine (hk e j d).trans ?_
    by_cases hj : j = h
    · subst hj
      exact iff_of_false (fun hc => hec (before e d hc)) fun hc => hec (after e d hc)
    · exact (Kept.hookedOn_congr (frame j hj) e d).symm

/-- The agreement looks at the lots, the lists and what hangs on each crane alone. -/
theorem Kept.tableInv.congr {k k' : Kept} (hk : k.tableInv) (lots : k'.lots = k.lots) (ashore : k'.ashore = k.ashore)
    (stow : k'.stow = k.stow) (cranes : ∀ c, k'.lift c = k.lift c) : k'.tableInv := by
  obtain ⟨hlots, hashore, hstow, hhook⟩ := hk
  have lot : ∀ h, k'.lot h = k.lot h := fun h => by rw [Kept.lot, Kept.lot, lots]
  have list : ∀ n, k'.stowList n = k.stowList n := fun n => by rw [Kept.stowList, Kept.stowList, stow]
  refine ⟨⟨by rw [lots]; exact hlots.1, fun h l => by rw [lot]; exact hlots.2 h l⟩,
    ⟨by rw [ashore]; exact hashore.1, fun h => by rw [ashore, lot]; exact hashore.2 h⟩,
    fun n => by simp only [list, lot]; exact hstow n, hhook.same cranes fun h c d => Kept.hookedOn_congr (lot h) c d⟩

/-! ### A list with one handle added or taken out -/

theorem nodup_append_singleton {l : List Nat} {h : Nat} (hl : l.Nodup) (hh : h ∉ l) : (l ++ [h]).Nodup := by
  rw [List.nodup_append]
  refine ⟨hl, by simp, fun a ha b hb => ?_⟩
  rw [List.mem_singleton.1 hb]
  exact fun e => hh (e ▸ ha)

/-! ### Amendments (R27 to R33) -/

/-- Taking a handle, which can free one, keeps the canonical form. -/
theorem Kept.takeHandle_wf (k : Kept) (h : tableWf Config.handles k.lots = true) :
    tableWf Config.handles k.takeHandle.2.lots = true := by
  unfold Kept.takeHandle
  dsimp only
  split
  · exact h
  · split
    · exact h
    · exact tableWf_erase _ _ _ h

/-- The lot table after an amendment is in canonical form. -/
theorem State.amendKept_wf (s : State) (am : Amendment) (p : Port) (role : Role) (hk : s.kept.tableInv)
    (hc : s.checkAmendment am = none) : tableWf Config.handles (s.amendKept am p role).lots = true := by
  have hl : s.kept.lotsInv := hk.1
  have put : ∀ h l l', s.kept.lot h = some l → tableWf Config.handles (s.kept.putLot h l').lots = true :=
    fun h l l' hlot => tableWf_put _ _ _ _ (hl.lt hlot) hl.1
  cases am
  case planLoad mark weight n q hazard =>
    obtain ⟨-, -, -, hcase, -⟩ := s.amendKept_amendedTo (.planLoad mark weight n q hazard) p role hl hc
    simp only [State.amendTarget, Amendment.handle, Option.getD_none] at hcase
    have hbound : s.kept.takeHandle.1 < 1024 := by
      rcases hcase with ⟨hlt, -⟩ | ⟨-, hashore⟩
      · exact hlt
      · obtain ⟨l, hlot, -⟩ := (hk.2.1.2 s.kept.takeHandle.1).1 (by rw [hashore]; exact List.mem_cons_self ..)
        exact hl.lt hlot
    exact tableWf_put _ _ _ _ hbound (s.kept.takeHandle_wf hl.1)
  case planCancel g => exact tableWf_erase _ _ _ hl.1
  all_goals
    simp only [State.amendKept]
    split
    · exact hl.1
    · rename_i l hlot; exact put _ _ _ hlot

/-- A destination that the constraint check has passed is one of the 48 spaces (R44). -/
theorem step3_space {s : State} {n : Nat} {q : Position} (h : s.step3 n q = none) : n < 48 := by
  refine Classical.byContradiction fun hge => ?_
  have : s.spaceBook n = none := by
    unfold State.spaceBook
    split
    · exact Vector.getElem?_eq_none (by omega)
    · rfl
  simp [State.step3, this] at h

/-- The space that an amendment takes its lot to is one of the 48. -/
theorem State.checkAmendment_space (s : State) (am : Amendment) (hc : s.checkAmendment am = none) (n : Nat)
    (hn : am.carried = some n) : n < 48 := by
  cases am <;> simp only [Amendment.carried, Option.some.injEq, reduceCtorEq] at hn <;> subst hn
  case planLoad =>
    exact step3_space (firstRefusal_none _ hc (s.step3 _ _) (List.mem_cons_self ..))
  case planShift g n q =>
    simp only [State.checkAmendment] at hc
    split at hc
    · cases hc
    · exact step3_space (firstRefusal_none _ hc (s.step3 n q) (by simp))
  case restow g n q =>
    simp only [State.checkAmendment] at hc
    split at hc
    · cases hc
    · exact step3_space (firstRefusal_none _ hc (s.step3 n q) (by simp))

/-- A change of one lot that its lists and the crane records do not show. -/
theorem Kept.tableInv.relot {k k' : Kept} (h : Nat) (hk : k.tableInv)
    (frame : ∀ j, j ≠ h → k'.lot j = k.lot j) (wf : tableWf Config.handles k'.lots = true)
    (space : ∀ l, k'.lot h = some l → l.space < 48)
    (stow : ∀ n, k'.stowList n = k.stowList n) (ashore : k'.ashore = k.ashore) (cranes : k'.cranes = k.cranes)
    (listed : ∀ n, k'.listedIn h n ↔ k.listedIn h n) (isAshore : k'.ashoreLot h ↔ k.ashoreLot h)
    (before : ∀ c d, ¬ k.hookedOn h c d) (after : ∀ c d, ¬ k'.hookedOn h c d) : k'.tableInv := by
  obtain ⟨-, hashore, hstow, hhook⟩ := id hk
  refine hk.change h frame wf space ?_ (fun j _ => by rw [ashore]) ?_ (fun n => ?_) (fun n j _ => by rw [stow])
    (fun n => ?_) (hhook.unhooked h cranes frame before after)
  · rw [ashore]; exact hashore.1
  · rw [ashore, isAshore]; exact hashore.2 h
  · rw [stow]; exact (hstow n).1
  · rw [stow, listed]; exact (hstow n).2 h

/-- An amendment that the constraint check has passed keeps the Stowage Table in agreement. -/
theorem State.amendKept_tableInv (s : State) (am : Amendment) (p : Port) (role : Role) (hk : s.kept.tableInv)
    (hc : s.checkAmendment am = none) : (s.amendKept am p role).tableInv := by
  have hto := s.amendKept_amendedTo am p role hk.1 hc
  have wf := s.amendKept_wf am p role hk hc
  have carried := s.checkAmendment_space am hc
  generalize s.amendKept am p role = k at hto wf
  generalize s.amendTarget am = h at hto
  obtain ⟨hframe, frame, heffect⟩ := hto
  have cranes : k.cranes = s.kept.cranes := by rw [hframe]
  have unhooked {k : Kept} {l : Lot} (e : k.lot h = some l) (hs : l.state.crane = none) : ∀ c d, ¬ k.hookedOn h c d :=
    fun c d => by rw [Kept.hookedOn_iff e, hs]; simp
  obtain ⟨hlots, ⟨hanodup, hamem⟩, hstow, hhook⟩ := id hk
  have inSpace : ∀ l, s.kept.lot h = some l → l.space < 48 := fun l => hlots.2 h l
  cases am with
  | planLoad mark weight n q hazard =>
    obtain ⟨stow, hcase, hnew⟩ := heffect
    have space : ∀ l, k.lot h = some l → l.space < 48 := fun l e => by
      rw [hnew] at e; cases e; exact carried n rfl
    have after := unhooked hnew rfl
    have notListed (m : Nat) : ¬ k.listedIn h m := by rw [Kept.listedIn_iff hnew]; simp [LotState.listed]
    have notAshore : ¬ k.ashoreLot h := by rw [Kept.ashoreLot_iff hnew]; simp [LotState.isAshore]
    rcases hcase with ⟨-, hfree, -, hashore⟩ | ⟨-, hashore⟩
    · exact Kept.tableInv.relot h hk frame wf space stow hashore cranes
        (fun m => iff_of_false (notListed m) (Kept.not_listedIn hfree m)) (iff_of_false notAshore (Kept.not_ashoreLot hfree))
        (Kept.not_hookedOn hfree) after
    · obtain ⟨l, hlot, hl⟩ := (hamem h).1 (by rw [hashore]; exact List.mem_cons_self ..)
      rw [hashore, List.nodup_cons] at hanodup
      have before := unhooked hlot (by revert hl; cases l.state <;> simp [LotState.isAshore, LotState.crane])
      have oldNotListed (m : Nat) : h ∉ s.kept.stowList m := by
        rw [(hstow m).2 h]
        change ¬ s.kept.listedIn h m
        rw [Kept.listedIn_iff hlot]
        revert hl; cases l.state <;> simp [LotState.isAshore, LotState.listed]
      refine Kept.tableInv.change h hk frame wf space
        hanodup.2 (fun j hj => by rw [hashore]; simp [hj]) (iff_of_false hanodup.1 notAshore) (fun m => by rw [stow]; exact (hstow m).1)
        (fun m j _ => by rw [stow]) (fun m => ?_) (hhook.unhooked h cranes frame before after)
      rw [stow]
      exact iff_of_false (oldNotListed m) (notListed m)
  | planShift g n q =>
    obtain ⟨-, ⟨stow, hashore⟩, l, hlot, hs, hnew⟩ := heffect
    refine Kept.tableInv.relot h hk frame wf (fun _ e => ?_) stow hashore cranes
      (fun m => ?_) ?_ (unhooked hlot (by rw [hs]; rfl)) (unhooked hnew (by dsimp only; rw [hs]; rfl))
    · rw [hnew] at e; cases e; exact carried n rfl
    · rw [Kept.listedIn_iff hlot, Kept.listedIn_iff hnew]; simp [hs, LotState.listed]
    · rw [Kept.ashoreLot_iff hlot, Kept.ashoreLot_iff hnew]
  | planCancel g =>
    obtain ⟨-, ⟨stow, hashore⟩, ⟨l, hlot, hs⟩, hnew⟩ := heffect
    refine Kept.tableInv.relot h hk frame wf (fun _ e => ?_) stow hashore cranes
      (fun m => ?_) ?_ (unhooked hlot (by rw [hs]; rfl)) (Kept.not_hookedOn hnew)
    · rw [hnew] at e; cases e
    · rw [Kept.listedIn_iff hlot]; simp [hs, LotState.listed, Kept.not_listedIn hnew]
    · rw [Kept.ashoreLot_iff hlot]; simp [hs, LotState.isAshore, Kept.not_ashoreLot hnew]
  | markDischarge g =>
    obtain ⟨-, ⟨stow, hashore⟩, l, t, hlot, hs, hnew⟩ := heffect
    refine Kept.tableInv.relot h hk frame wf (fun _ e => ?_) stow hashore cranes
      (fun m => ?_) ?_ (unhooked hlot (by rw [hs]; rfl)) (unhooked hnew rfl)
    · rw [hnew] at e; cases e; exact inSpace l hlot
    · rw [Kept.listedIn_iff hlot, Kept.listedIn_iff hnew]; simp [hs, LotState.listed]
    · rw [Kept.ashoreLot_iff hlot, Kept.ashoreLot_iff hnew]; simp [hs, LotState.isAshore]
  | unmark g =>
    obtain ⟨-, ⟨stow, hashore⟩, l, t, hlot, hs, hnew⟩ := heffect
    refine Kept.tableInv.relot h hk frame wf (fun _ e => ?_) stow hashore cranes
      (fun m => ?_) ?_ (unhooked hlot (by rw [hs]; rfl)) (unhooked hnew rfl)
    · rw [hnew] at e; cases e; exact inSpace l hlot
    · rw [Kept.listedIn_iff hlot, Kept.listedIn_iff hnew]; simp [hs, LotState.listed]
    · rw [Kept.ashoreLot_iff hlot, Kept.ashoreLot_iff hnew]; simp [hs, LotState.isAshore]
  | correctWeight g w =>
    obtain ⟨-, ⟨stow, hashore⟩, l, hlot, hs, hnew⟩ := heffect
    have free : l.state.crane = none := by rcases hs with hs | ⟨i, t, hs⟩ <;> rw [hs] <;> rfl
    refine Kept.tableInv.relot h hk frame wf (fun _ e => ?_) stow hashore cranes
      (fun m => ?_) ?_ (unhooked hlot free) (unhooked hnew free)
    · rw [hnew] at e; cases e; exact inSpace l hlot
    · rw [Kept.listedIn_iff hlot, Kept.listedIn_iff hnew]
    · rw [Kept.ashoreLot_iff hlot, Kept.ashoreLot_iff hnew]
  | directStow g =>
    obtain ⟨-, hashore, l, hlot, hs, hnew, stow⟩ := heffect
    have old (m : Nat) : h ∉ s.kept.stowList m := by
      rw [(hstow m).2 h]
      change ¬ s.kept.listedIn h m
      rw [Kept.listedIn_iff hlot]; simp [hs, LotState.listed]
    refine Kept.tableInv.change h hk frame wf (fun _ e => ?_) (hashore ▸ hanodup)
      (fun j _ => by rw [hashore]) ?_ (fun m => ?_) (fun m j hj => ?_) (fun m => ?_)
      (hhook.unhooked h cranes frame (unhooked hlot (by rw [hs]; rfl)) (unhooked hnew rfl))
    · rw [hnew] at e; cases e; exact inSpace l hlot
    · rw [hashore]
      refine ((hamem h).trans (Kept.ashoreLot_iff hlot)).trans ?_
      rw [Kept.ashoreLot_iff hnew]; simp [hs, LotState.isAshore]
    · rw [stow]; split
      · exact nodup_append_singleton (hstow m).1 (old m)
      · exact (hstow m).1
    · rw [stow]; split <;> simp [hj]
    · rw [stow, Kept.listedIn_iff hnew]; split <;> simp [*, LotState.listed, eq_comm]
  | restow g n q =>
    obtain ⟨-, hashore, l, i, t, hlot, hs, hnew, stow⟩ := heffect
    have hmem (m : Nat) : h ∈ s.kept.stowList m ↔ l.space = m := by
      refine ((hstow m).2 h).trans ?_
      change s.kept.listedIn h m ↔ _
      rw [Kept.listedIn_iff hlot]; simp [hs, LotState.listed]
    have hrest (m : Nat) : h ∉ (if m = l.space then (s.kept.stowList m).filter fun j => j ≠ h else s.kept.stowList m) := by
      split
      · simp
      · rw [hmem]; exact fun e => absurd e.symm ‹_›
    have hrestNodup (m : Nat) :
        (if m = l.space then (s.kept.stowList m).filter fun j => j ≠ h else s.kept.stowList m).Nodup := by
      split
      · exact (hstow m).1.filter _
      · exact (hstow m).1
    refine Kept.tableInv.change h hk frame wf (fun _ e => ?_) (hashore ▸ hanodup)
      (fun j _ => by rw [hashore]) ?_ (fun m => ?_) (fun m j hj => ?_) (fun m => ?_)
      (hhook.unhooked h cranes frame (unhooked hlot (by rw [hs]; rfl)) (unhooked hnew rfl))
    · rw [hnew] at e; cases e; exact carried n rfl
    · rw [hashore]
      refine ((hamem h).trans (Kept.ashoreLot_iff hlot)).trans ?_
      rw [Kept.ashoreLot_iff hnew]; simp [hs, LotState.isAshore]
    · rw [stow]
      by_cases hm : m = n
      · rw [if_pos hm]; exact nodup_append_singleton (hrestNodup m) (hrest m)
      · rw [if_neg hm, List.append_nil]; exact hrestNodup m
    · rw [stow]; split <;> split <;> simp [hj]
    · rw [stow, Kept.listedIn_iff hnew, List.mem_append]
      have absent := hrest m
      by_cases hm : m = n
      · simp [hm, LotState.listed]
      · rw [if_neg hm]
        refine iff_of_false (fun e => e.elim absent (by simp)) fun e => hm e.2.symm
  | directRemove g =>
    obtain ⟨-, hashore, l, i, t, hlot, hs, hnew, stow⟩ := heffect
    have hmem (m : Nat) : h ∈ s.kept.stowList m ↔ l.space = m := by
      refine ((hstow m).2 h).trans ?_
      change s.kept.listedIn h m ↔ _
      rw [Kept.listedIn_iff hlot]; simp [hs, LotState.listed]
    have notIn : h ∉ s.kept.ashore := by
      rw [hamem h]
      change ¬ s.kept.ashoreLot h
      rw [Kept.ashoreLot_iff hlot]; simp [hs, LotState.isAshore]
    refine Kept.tableInv.change h hk frame wf (fun _ e => ?_)
      (by rw [hashore]; exact nodup_append_singleton hanodup notIn)
      (fun j hj => by rw [hashore]; simp [hj]) ?_ (fun m => ?_) (fun m j hj => ?_) (fun m => ?_)
      (hhook.unhooked h cranes frame (unhooked hlot (by rw [hs]; rfl)) (unhooked hnew rfl))
    · rw [hnew] at e; cases e; exact inSpace l hlot
    · rw [hashore, Kept.ashoreLot_iff hnew]; simp [LotState.isAshore]
    · rw [stow]; split
      · exact (hstow m).1.filter _
      · exact (hstow m).1
    · rw [stow]; split <;> simp [hj]
    · rw [stow, Kept.listedIn_iff hnew]
      split
      · simp [LotState.listed]
      · rw [hmem]; simp [LotState.listed]; exact fun e => absurd e.symm ‹_›

end Sys2Proof.Machine
end

section
/-!
PROOF. The Stowage Table under hook-on, landing, land-back, the purge of the ashore list, and the changes of crane records (R26,
R34 to R36, R143, R145).
-/
namespace Sys2Proof.Machine

/-! ### Reading one crane after a change of another -/

theorem getElem_set_crane (v : Vector CraneState 4) (c e : CraneNo) (k : CraneState) :
    (v.set c.val k c.isLt)[e.val] = if e = c then k else v[e.val] := by
  rw [Vector.getElem_set]
  simp [Fin.ext_iff, eq_comm]

theorem State.setCrane_craneState (s : State) (c : CraneNo) (k : CraneState) (e : CraneNo) :
    (s.setCrane c k).craneState e = if e = c then k else s.craneState e :=
  getElem_set_crane ..

theorem State.onCrane_craneLive (s : State) (c : CraneNo) (f : CraneLive → CraneLive) (e : CraneNo) :
    (s.onCrane c f).craneLive e = if e = c then f (s.craneLive c) else s.craneLive e := by
  simp only [State.craneLive, State.onCrane_cranes, updAt, Vector.getElem_set]
  by_cases h : e = c
  · simp [h]
  · have : c.val ≠ e.val := fun hv => h (Fin.ext hv.symm)
    simp [h, this]

theorem State.toIdle_craneState (s : State) (c e : CraneNo) :
    (s.toIdle c).craneState e = if e = c then .idle else s.craneState e :=
  s.setCrane_craneState c .idle e

/-- What hangs on a crane is the lot of its lift. -/
theorem CraneState.hanging_eq (k : CraneState) : k.hanging = k.lift.map Prod.fst := by
  rcases k with _ | _ | _ | _ | ⟨_ | _, _, _⟩ <;> rfl

theorem CraneState.lift_eq_none_iff (k : CraneState) : k.lift = none ↔ k.hanging = none := by
  rw [k.hanging_eq, Option.map_eq_none_iff]

/-! ### Several cranes sent IDLE (R145) -/

/-- Sending cranes IDLE touches the crane records alone. -/
theorem State.toIdles_frame (s : State) (cs : List CraneNo) :
    cs.foldl State.toIdle s =
      { s with
        kept.cranes := (cs.foldl State.toIdle s).kept.cranes
        keptCheck := (cs.foldl State.toIdle s).keptCheck
        vol.cranes := (cs.foldl State.toIdle s).vol.cranes } := by
  induction cs generalizing s with
  | nil => rfl
  | cons c cs ih => rw [List.foldl_cons, ih]; rfl

theorem State.toIdles_craneState (s : State) (cs : List CraneNo) (e : CraneNo) :
    (cs.foldl State.toIdle s).craneState e = if e ∈ cs then .idle else s.craneState e := by
  induction cs generalizing s with
  | nil => simp
  | cons c cs ih =>
    rw [List.foldl_cons, ih, State.toIdle_craneState]
    by_cases h : e ∈ cs <;> by_cases h' : e = c <;> simp [h, h']

/-- A crane that is not among those sent IDLE keeps its volatile record. -/
theorem State.toIdles_craneLive (s : State) (cs : List CraneNo) (e : CraneNo) (he : e ∉ cs) :
    (cs.foldl State.toIdle s).craneLive e = s.craneLive e := by
  induction cs generalizing s with
  | nil => rfl
  | cons c cs ih =>
    rw [List.mem_cons, not_or] at he
    rw [List.foldl_cons, ih _ he.2, State.toIdle, State.onCrane_craneLive, if_neg he.1]
    rfl

/-- A crane sent IDLE keeps its hook reading and its free-reading mark. -/
theorem State.toIdles_reading (s : State) (cs : List CraneNo) (e : CraneNo) :
    ((cs.foldl State.toIdle s).craneLive e).hook = (s.craneLive e).hook ∧
      ((cs.foldl State.toIdle s).craneLive e).freeReading = (s.craneLive e).freeReading := by
  induction cs generalizing s with
  | nil => exact ⟨rfl, rfl⟩
  | cons c cs ih =>
    rw [List.foldl_cons]
    obtain ⟨hhook, hfree⟩ := ih (s.toIdle c)
    rw [hhook, hfree, State.toIdle, State.onCrane_craneLive]
    by_cases he : e = c
    · rw [if_pos he, he]; exact ⟨rfl, rfl⟩
    · rw [if_neg he]; exact ⟨rfl, rfl⟩

/-- Nothing hangs on a crane that reserves a lot (R145). -/
theorem CraneState.lift_of_reserves {k : CraneState} {h : Nat} (hr : k.reserves = some h) : k.lift = none := by
  rcases k with _ | _ | _ | _ | ⟨_ | _, _, _⟩ <;> simp_all [CraneState.reserves, CraneState.lift]

theorem State.mem_rivals (s : State) (c : CraneNo) (h : Nat) (e : CraneNo) :
    e ∈ s.rivals c h ↔ e ≠ c ∧ (s.craneState e).reserves = some h := by
  simp [State.rivals]

/-! ### A change of a crane record -/

/-- A crane record set with the same lot hanging keeps the Stowage Table in agreement. -/
theorem Kept.tableInv.setCrane {s : State} (hk : s.kept.tableInv) (c : CraneNo) (k : CraneState)
    (h : k.lift = (s.craneState c).lift) : (s.setCrane c k).kept.tableInv := by
  refine hk.congr rfl rfl rfl fun e => ?_
  change ((s.setCrane c k).craneState e).lift = (s.craneState e).lift
  rw [State.setCrane_craneState]
  split
  · rename_i he; rw [he, h]
  · rfl

/-! ### Hook-on (R34, R145, R152) -/

/-- The state of an accounted hook-on before the change is recorded: the lot HOOKED, the cranes that reserved it IDLE, and this
crane LIFTING or HALTED. -/
def State.hookOnMoved (s : State) (p : Port) (c : CraneNo) (h : Nat) (l l' : Lot) (d : Direction) : State :=
  let permitted := (s.craneState c).permitsHookOn h l
  (((s.rivals c h).foldl State.toIdle (s.setKept (s.kept.putLot h (l'.from p (s.role p))))).setCrane c
      (if permitted then .lifting h d else .halted .lifting h d)).onCrane c
    fun k => k.afterHookOn permitted s.clock (s.kept.generation + 1)

/-- What a lot is before and after a hook-on (R34). -/
theorem Lot.hooked_cases {l l' : Lot} {c : CraneNo} {d : Direction} (h : l.hooked c = some (l', d)) :
    (l.state = .planned ∧ d = .loading ∧ l' = { l with state := .hookedLoading c }) ∨
    ∃ i t, l.state = .stowed i t ∧ d = .discharging ∧ l' = { l with state := .hookedDischarging c t } := by
  unfold Lot.hooked at h
  split at h <;> simp only [Option.some.injEq, Prod.mk.injEq, reduceCtorEq] at h
  · rename_i hs; exact .inl ⟨hs, h.2.symm, h.1.symm⟩
  · rename_i i t hs; exact .inr ⟨i, t, hs, h.2.symm, h.1.symm⟩

section HookOn
variable {s : State} {c : CraneNo} {h : Nat} {l l' : Lot} {d : Direction} (p : Port)

theorem State.hookOnMoved_frame : s.hookOnMoved p c h l l' d =
    { s with
      kept := { s.kept.putLot h (l'.from p (s.role p)) with cranes := (s.hookOnMoved p c h l l' d).kept.cranes }
      keptCheck := (s.hookOnMoved p c h l l' d).keptCheck
      vol.cranes := (s.hookOnMoved p c h l l' d).vol.cranes } := by
  unfold State.hookOnMoved
  rw [State.toIdles_frame]
  rfl

theorem State.hookOnMoved_lots : (s.hookOnMoved p c h l l' d).kept.lots =
    (s.kept.putLot h (l'.from p (s.role p))).lots := by
  rw [State.hookOnMoved_frame]

theorem State.hookOnMoved_lot (j : Nat) :
    (s.hookOnMoved p c h l l' d).kept.lot j = if j = h then some (l'.from p (s.role p)) else s.kept.lot j := by
  rw [Kept.lot, State.hookOnMoved_lots]
  exact s.kept.putLot_lot h _ j

theorem State.hookOnMoved_craneState (e : CraneNo) : (s.hookOnMoved p c h l l' d).craneState e =
    if e = c then (if (s.craneState c).permitsHookOn h l then .lifting h d else .halted .lifting h d)
    else if e ∈ s.rivals c h then .idle else s.craneState e := by
  change State.craneState (State.setCrane _ c _) e = _
  rw [State.setCrane_craneState, State.toIdles_craneState]
  rfl

/-- Another crane carries what it carried. -/
theorem State.hookOnMoved_lift_other {e : CraneNo} (he : e ≠ c) :
    ((s.hookOnMoved p c h l l' d).craneState e).lift = (s.craneState e).lift := by
  rw [State.hookOnMoved_craneState, if_neg he]
  split
  · rename_i hr; rw [CraneState.lift_of_reserves ((s.mem_rivals c h e).1 hr).2]; rfl
  · rfl

theorem State.hookOnMoved_lift_self : ((s.hookOnMoved p c h l l' d).craneState c).lift = some (h, d) := by
  rw [State.hookOnMoved_craneState, if_pos rfl]
  split <;> rfl

/-- A hook-on keeps the Stowage Table in agreement. -/
theorem State.hookOnMoved_tableInv (hk : s.kept.tableInv) (hlot : s.kept.lot h = some l)
    (hh : l.hooked c = some (l', d)) (hfree : (s.craneState c).hanging = none) :
    (s.hookOnMoved p c h l l' d).kept.tableInv := by
  obtain ⟨hlots, ⟨hanodup, hamem⟩, hstow, hhook⟩ := id hk
  have hnew : (s.hookOnMoved p c h l l' d).kept.lot h = some (l'.from p (s.role p)) := by
    rw [State.hookOnMoved_lot, if_pos rfl]
  have frame : ∀ j, j ≠ h → (s.hookOnMoved p c h l l' d).kept.lot j = s.kept.lot j := fun j hj => by
    rw [State.hookOnMoved_lot, if_neg hj]
  have hashore : (s.hookOnMoved p c h l l' d).kept.ashore = s.kept.ashore := by rw [State.hookOnMoved_frame]; rfl
  have hlist : ∀ n, (s.hookOnMoved p c h l l' d).kept.stowList n = s.kept.stowList n := fun n => by
    rw [State.hookOnMoved_frame]; rfl
  have hspace : l'.space = l.space := by rcases Lot.hooked_cases hh with ⟨-, -, e⟩ | ⟨i, t, -, -, e⟩ <;> rw [e]
  have hlisted : l'.state.listed = l.state.listed := by
    rcases Lot.hooked_cases hh with ⟨hs, -, e⟩ | ⟨i, t, hs, -, e⟩ <;> rw [e, hs] <;> rfl
  have hafter : l'.state.isAshore = l.state.isAshore := by
    rcases Lot.hooked_cases hh with ⟨hs, -, e⟩ | ⟨i, t, hs, -, e⟩ <;> rw [e, hs] <;> rfl
  have hcrane : l'.state.crane = some c ∧ l'.state.direction = some d := by
    rcases Lot.hooked_cases hh with ⟨-, hd, e⟩ | ⟨i, t, -, hd, e⟩ <;> rw [e, hd] <;> exact ⟨rfl, rfl⟩
  have hbefore : l.state.crane = none := by
    rcases Lot.hooked_cases hh with ⟨hs, -, -⟩ | ⟨i, t, hs, -, -⟩ <;> rw [hs] <;> rfl
  have listed (n : Nat) : (s.hookOnMoved p c h l l' d).kept.listedIn h n ↔ s.kept.listedIn h n := by
    rw [Kept.listedIn_iff hnew, Kept.listedIn_iff hlot]
    simp only [Lot.from, hlisted, hspace]
  refine hk.change h frame ?_ (fun l₁ e => ?_) (hashore ▸ hanodup) (fun j _ => by rw [hashore]) ?_
    (fun n => hlist n ▸ (hstow n).1) (fun n j _ => by rw [hlist]) (fun n => ?_) ?_
  · rw [State.hookOnMoved_lots]
    exact tableWf_put _ _ _ _ (hlots.lt hlot) hlots.1
  · rw [hnew] at e; cases e
    simp only [Lot.from, hspace]
    exact hlots.2 h l hlot
  · rw [hashore, Kept.ashoreLot_iff hnew]
    refine (hamem h).trans ((Kept.ashoreLot_iff hlot).trans ?_)
    simp only [Lot.from, hafter]
  · rw [hlist, listed]; exact (hstow n).2 h
  · refine hhook.move h c frame (fun e he => State.hookOnMoved_lift_other p he) (fun j d' hj => ?_) (fun e d' he => ?_)
      (fun e d' he => ?_) fun j d' => ?_
    · change (s.craneState c).lift = _ at hj
      rw [(CraneState.lift_eq_none_iff _).2 hfree] at hj; cases hj
    · rw [Kept.hookedOn_iff hlot, hbefore] at he; cases he.1
    · rw [Kept.hookedOn_iff hnew] at he
      simp only [Lot.from, hcrane.1, Option.some.injEq] at he
      exact he.1.symm
    · change ((s.hookOnMoved p c h l l' d).craneState c).lift = _ ↔ _
      rw [State.hookOnMoved_lift_self, Kept.hookedOn_iff hnew]
      simp only [Lot.from, hcrane, Option.some.injEq, Prod.mk.injEq, true_and]
      exact and_congr_left' eq_comm
end HookOn

/-! ### Landing and land-back (R35, R36) -/

theorem State.endLift_craneState (s : State) (c e : CraneNo) :
    (s.endLift c).craneState e = if e = c then .idle else s.craneState e :=
  s.toIdle_craneState c e

/-- A landing or land-back finds the lot HOOKED on the crane, in the direction of the lift. -/
theorem State.accountable_eq_some {s : State} {c : CraneNo} {h : Nat} {l : Lot} {d : Direction}
    (ha : s.accountable c h = some (l, d)) : (s.craneState c).lift = some (h, d) ∧ s.kept.lot h = some l := by
  unfold State.accountable at ha
  split at ha
  · rename_i h' d' l₁ hlift hlot
    split at ha
    · rename_i e; cases ha; subst e; exact ⟨hlift, hlot⟩
    · cases ha
  · cases ha

/-- The state of a lot that hangs on a crane (R143, R145). -/
theorem Kept.tableInv.hooked {s : State} (hk : s.kept.tableInv) {c : CraneNo} {h : Nat} {l : Lot} {d : Direction}
    (hlift : (s.craneState c).lift = some (h, d)) (hlot : s.kept.lot h = some l) :
    (d = .loading ∧ l.state = .hookedLoading c) ∨ ∃ t, d = .discharging ∧ l.state = .hookedDischarging c t := by
  obtain ⟨-, -, -, hhook⟩ := hk
  obtain ⟨l₁, hl₁, hc, hd⟩ := (hhook c h d).1 hlift
  rw [hlot] at hl₁; cases hl₁
  revert hc hd
  rcases hs : l.state with _ | c' | ⟨c', t⟩ | _ | _ <;>
    simp [LotState.crane, LotState.direction] <;> intro hc hd <;> subst hc hd <;> simp

/-- The end of a lift keeps the table in agreement: the lot leaves the crane as `l'`, and its lists follow. -/
theorem Kept.tableInv.endLift {s : State} (hk : s.kept.tableInv) (c : CraneNo) {h : Nat} {l l' : Lot} {d : Direction} (k : Kept)
    (hlift : (s.craneState c).lift = some (h, d)) (hlot : s.kept.lot h = some l)
    (lots : k.lots = tablePut s.kept.lots h l') (cranes : k.cranes = s.kept.cranes) (hspace : l'.space = l.space)
    (free : l'.state.crane = none) (ashoreNodup : k.ashore.Nodup)
    (ashoreOther : ∀ j, j ≠ h → (j ∈ k.ashore ↔ j ∈ s.kept.ashore)) (ashoreSelf : h ∈ k.ashore ↔ l'.state.isAshore = true)
    (stowNodup : ∀ n, (k.stowList n).Nodup) (stowOther : ∀ n j, j ≠ h → (j ∈ k.stowList n ↔ j ∈ s.kept.stowList n))
    (stowSelf : ∀ n, h ∈ k.stowList n ↔ l'.state.listed = true ∧ l.space = n) :
    ((s.setKept k).endLift c).kept.tableInv := by
  obtain ⟨hlots, -, -, hhook⟩ := id hk
  have lot (j : Nat) : ((s.setKept k).endLift c).kept.lot j = if j = h then some l' else s.kept.lot j := by
    change tableGet k.lots j = _
    rw [lots]
    exact s.kept.putLot_lot h l' j
  have hnew : ((s.setKept k).endLift c).kept.lot h = some l' := by rw [lot, if_pos rfl]
  have frame : ∀ j, j ≠ h → ((s.setKept k).endLift c).kept.lot j = s.kept.lot j := fun j hj => by rw [lot, if_neg hj]
  have lift (e : CraneNo) : ((s.setKept k).endLift c).kept.lift e = if e = c then none else s.kept.lift e := by
    change (((s.setKept k).endLift c).craneState e).lift = _
    rw [State.endLift_craneState]
    split
    · rfl
    · change (k.cranes[e.val]).lift = _; rw [cranes]; rfl
  refine hk.change h frame ?_ (fun l₁ e => ?_) ashoreNodup ashoreOther ?_ stowNodup stowOther (fun n => ?_) ?_
  · change tableWf _ k.lots = _
    rw [lots]; exact tableWf_put _ _ _ _ (hlots.lt hlot) hlots.1
  · rw [hnew] at e; cases e
    rw [hspace]; exact hlots.2 h l hlot
  · rw [Kept.ashoreLot_iff hnew]; exact ashoreSelf
  · rw [Kept.listedIn_iff hnew, hspace]; exact stowSelf n
  · refine hhook.move h c frame (fun e he => by rw [lift, if_neg he]) (fun j d' hj => ?_) (fun e d' he => ?_)
      (fun e d' he => ?_) fun j d' => ?_
    · change (s.craneState c).lift = _ at hj
      rw [hlift] at hj; cases hj; rfl
    · obtain ⟨l₁, hl₁, hc, -⟩ := (hhook c h d).1 hlift
      rw [Kept.hookedOn_iff hlot] at he
      rw [hlot] at hl₁; cases hl₁
      rw [hc] at he; cases he.1; rfl
    · rw [Kept.hookedOn_iff hnew, free] at he; cases he.1
    · rw [lift, if_pos rfl, Kept.hookedOn_iff hnew, free]; simp

section Landing
variable {s : State} {c : CraneNo} {h : Nat} {l : Lot} {d : Direction}

/-- A landing keeps the Stowage Table in agreement. -/
theorem State.landed_tableInv (hk : s.kept.tableInv) (hlift : (s.craneState c).lift = some (h, d)) (hlot : s.kept.lot h = some l)
    (p : Port) (role : Role) (w : Option Int) :
    ((s.setKept (s.kept.land h ((l.landed d s.clock w).from p role) d)).endLift c).kept.tableInv := by
  obtain ⟨hlots, ⟨hanodup, hamem⟩, hstow, -⟩ := id hk
  have hn : l.space < 48 := hlots.2 h l hlot
  have hmem (n : Nat) : h ∈ s.kept.stowList n ↔ l.state.listed = true ∧ l.space = n :=
    ((hstow n).2 h).trans (Kept.listedIn_iff hlot n)
  have notAshore : l.state.isAshore = false → h ∉ s.kept.ashore := fun e hin => by
    have := (Kept.ashoreLot_iff hlot).1 ((hamem h).1 hin)
    rw [e] at this; cases this
  rcases hk.hooked hlift hlot with ⟨rfl, hs⟩ | ⟨t, rfl, hs⟩
  · have list (n : Nat) : (s.kept.land h ((l.landed .loading s.clock w).from p role) .loading).stowList n =
        if n = l.space then s.kept.stowList n ++ [h] else s.kept.stowList n :=
      Kept.stowAppend_stowList _ _ _ _ hn
    refine hk.endLift c _ hlift hlot rfl rfl rfl rfl hanodup (fun _ _ => .rfl) (iff_of_false (notAshore (by rw [hs]; rfl)) (by simp [Lot.from, Lot.landed, LotState.isAshore]))
      (fun n => ?_) (fun n j hj => ?_) fun n => ?_
    · rw [list]; split
      · exact nodup_append_singleton (hstow n).1 (by rw [hmem, hs]; simp [LotState.listed])
      · exact (hstow n).1
    · rw [list]; split <;> simp [hj]
    · rw [list]
      simp only [Lot.from, Lot.landed, LotState.listed, true_and]
      split
      · rename_i e; simp [e]
      · rename_i e; rw [hmem, hs]; simp [LotState.listed, Ne.symm e]
  · have list (n : Nat) : (s.kept.land h ((l.landed .discharging s.clock w).from p role) .discharging).stowList n =
        if n = l.space then (s.kept.stowList n).filter fun j => j ≠ h else s.kept.stowList n :=
      Kept.stowRemove_stowList _ _ _ _ hn
    refine hk.endLift c _ hlift hlot rfl rfl rfl rfl (nodup_append_singleton hanodup (notAshore (by rw [hs]; rfl)))
      (fun j hj => by simp [Kept.land, Kept.stowRemove, Kept.putLot, hj]) (iff_of_true (by simp [Kept.land]) rfl) (fun n => ?_) (fun n j hj => ?_) fun n => ?_
    · rw [list]; split
      · exact (hstow n).1.filter _
      · exact (hstow n).1
    · rw [list]; split <;> simp [hj]
    · rw [list]
      simp only [Lot.from, Lot.landed, LotState.listed, Bool.false_eq_true, false_and, iff_false]
      split
      · simp
      · rename_i e; rw [hmem]; exact fun hc => e hc.2.symm

/-- A land-back keeps the Stowage Table in agreement. -/
theorem State.landedBack_tableInv (hk : s.kept.tableInv) (hlift : (s.craneState c).lift = some (h, d))
    (hlot : s.kept.lot h = some l) (p : Port) (role : Role) :
    ((s.setKept (s.kept.putLot h ((l.landedBack d).from p role))).endLift c).kept.tableInv := by
  obtain ⟨-, ⟨hanodup, hamem⟩, hstow, -⟩ := id hk
  have hash : h ∈ s.kept.ashore ↔ l.state.isAshore = true := (hamem h).trans (Kept.ashoreLot_iff hlot)
  have hmem (n : Nat) : h ∈ s.kept.stowList n ↔ l.state.listed = true ∧ l.space = n :=
    ((hstow n).2 h).trans (Kept.listedIn_iff hlot n)
  rcases hk.hooked hlift hlot with ⟨rfl, hs⟩ | ⟨t, rfl, hs⟩ <;>
    refine hk.endLift c _ hlift hlot rfl rfl rfl rfl hanodup (fun _ _ => .rfl) (hash.trans ?_) (fun n => (hstow n).1)
      (fun _ _ _ => .rfl) fun n => (hmem n).trans ?_ <;>
    rw [hs] <;> exact .rfl
end Landing

/-! ### The purge of the ashore list (R26) -/

theorem Kept.freeLots_frame (k : Kept) (hs : List Nat) :
    hs.foldl Kept.freeLot k = { k with lots := (hs.foldl Kept.freeLot k).lots } := by
  induction hs generalizing k with
  | nil => rfl
  | cons h hs ih => rw [List.foldl_cons, ih]; rfl

theorem Kept.freeLots_lot (k : Kept) (hs : List Nat) (j : Nat) :
    (hs.foldl Kept.freeLot k).lot j = if j ∈ hs then none else k.lot j := by
  induction hs generalizing k with
  | nil => simp
  | cons h hs ih =>
    rw [List.foldl_cons, ih, Kept.freeLot_lot]
    by_cases e : j ∈ hs <;> by_cases e' : j = h <;> simp [e, e']

theorem Kept.freeLots_wf (k : Kept) (hs : List Nat) (h : tableWf Config.handles k.lots = true) :
    tableWf Config.handles (hs.foldl Kept.freeLot k).lots = true := by
  induction hs generalizing k with
  | nil => exact h
  | cons j hs ih => exact ih _ (tableWf_erase _ _ _ h)

theorem Kept.purge_lot (k : Kept) (j : Nat) : k.purge.lot j = if j ∈ k.ashore then none else k.lot j :=
  k.freeLots_lot k.ashore j

theorem Kept.purge_frame (k : Kept) : k.purge = { k with lots := k.purge.lots, ashore := [] } := by
  rw [Kept.purge, Kept.freeLots_frame]

/-- The purge keeps the Stowage Table in agreement: only ASHORE lots are freed. -/
theorem Kept.purge_tableInv (k : Kept) (hk : k.tableInv) : k.purge.tableInv := by
  obtain ⟨hlots, ⟨-, hamem⟩, hstow, hhook⟩ := hk
  have freed {j : Nat} (hj : j ∈ k.ashore) : ∃ l, k.lot j = some l ∧ l.state.isAshore = true := (hamem j).1 hj
  have list (n : Nat) : k.purge.stowList n = k.stowList n := by rw [k.purge_frame]; rfl
  have hashore : k.purge.ashore = [] := rfl
  refine ⟨⟨k.freeLots_wf k.ashore hlots.1, fun h l hl => ?_⟩, ⟨hashore ▸ List.nodup_nil, fun h => ?_⟩, fun n => ?_, ?_⟩
  · rw [Kept.purge_lot] at hl
    split at hl
    · cases hl
    · exact hlots.2 h l hl
  · rw [hashore, Kept.purge_lot]
    split
    · simp
    · rename_i hnot
      exact iff_of_false (by simp) fun hc => hnot ((hamem h).2 hc)
  · rw [list]
    refine ⟨(hstow n).1, fun h => ((hstow n).2 h).trans ?_⟩
    change k.listedIn h n ↔ k.purge.listedIn h n
    by_cases hj : h ∈ k.ashore
    · obtain ⟨l, hlot, hl⟩ := freed hj
      have gone : k.purge.lot h = none := by rw [Kept.purge_lot, if_pos hj]
      refine iff_of_false ?_ (Kept.not_listedIn gone n)
      rw [Kept.listedIn_iff hlot]
      revert hl; cases l.state <;> simp [LotState.isAshore, LotState.listed]
    · exact (Kept.listedIn_congr (by rw [Kept.purge_lot, if_neg hj]) n).symm
  · refine hhook.same (fun c => by rw [k.purge_frame]; rfl) fun h c d => ?_
    by_cases hj : h ∈ k.ashore
    · obtain ⟨l, hlot, hl⟩ := freed hj
      have gone : k.purge.lot h = none := by rw [Kept.purge_lot, if_pos hj]
      refine iff_of_false (Kept.not_hookedOn gone c d) ?_
      rw [Kept.hookedOn_iff hlot]
      revert hl; cases l.state <;> simp [LotState.isAshore, LotState.crane]
    · exact Kept.hookedOn_congr (by rw [Kept.purge_lot, if_neg hj]) c d

end Sys2Proof.Machine
end

section
/-!
PROOF. The sums under a change of the condition: what each item contributes before and after, and that the differences keep both
sets exact (R74, R75, R78, R79).
-/
namespace Sys2Proof.Machine

/-! ### The sum over every possible item -/

/-- Every contributor besides the lightship that a condition can have, a free handle among them. -/
def everyItem : List Item :=
  (List.range 1024).map .lot ++ (List.finRange 32).map .tank ++ (List.finRange 16).map .fixed ++ (List.finRange 4).map .hook

/-- The images of distinct things under an injective function are distinct. -/
theorem nodup_map_of_injective {α β : Type} {f : α → β} (hf : ∀ a b, f a = f b → a = b) {l : List α} (h : l.Nodup) :
    (l.map f).Nodup :=
  List.Pairwise.map f (fun a b hne he => hne (hf a b he)) h

theorem everyItem_nodup : everyItem.Nodup := by
  have lots : ((List.range 1024).map Item.lot).Nodup := nodup_map_of_injective (fun _ _ => Item.lot.inj) List.nodup_range
  have tanks : ((List.finRange 32).map Item.tank).Nodup := nodup_map_of_injective (fun _ _ => Item.tank.inj) (List.nodup_finRange 32)
  have fixed : ((List.finRange 16).map Item.fixed).Nodup := nodup_map_of_injective (fun _ _ => Item.fixed.inj) (List.nodup_finRange 16)
  have hooks : ((List.finRange 4).map Item.hook).Nodup := nodup_map_of_injective (fun _ _ => Item.hook.inj) (List.nodup_finRange 4)
  unfold everyItem
  refine List.nodup_append.2 ⟨List.nodup_append.2 ⟨List.nodup_append.2 ⟨lots, tanks, ?_⟩, fixed, ?_⟩, hooks, ?_⟩ <;>
    · intro i hi j hj he
      subst he
      cases i <;> simp at hi hj

theorem mem_everyItem (i : Item) : i ∈ everyItem ↔ ∀ h, i = .lot h → h < 1024 := by
  cases i <;> simp [everyItem]

/-- A part of a set built afresh: the lightship and every possible item, of which a free handle contributes nothing (R79). -/
theorem built_everyItem (part : SumSet → Int) (hp : additive part) (s : State) (hl : s.kept.lotsInv) (item : Item → SumSet)
    (ofLot : Lot → SumSet) (hlot : ∀ h, item (.lot h) = ((s.kept.lot h).map ofLot).getD SumSet.zero) :
    part ((SumSet.total (s.items.map item)).add (lightship s.book.hull)) =
      part (lightship s.book.hull) + (everyItem.map fun i => part (item i)).sum := by
  have held : ∀ e ∈ s.kept.lots, part (item (.lot e.1)) = part (ofLot e.2) := fun e he => by
    have : s.kept.lot e.1 = some e.2 := (mem_iff_tableGet _ _ hl.1 e.1 e.2).1 he
    rw [hlot, this]; rfl
  have handle (h : Nat) : part (item (.lot h)) = ((tableGet s.kept.lots h).map fun l => part (ofLot l)).getD 0 := by
    rw [hlot, Kept.lot]
    cases tableGet s.kept.lots h <;> simp [hp.1]
  have lots : (s.kept.lots.map fun e => part (item (.lot e.1))).sum =
      ((List.range 1024).map fun h => part (item (.lot h))).sum := by
    rw [List.map_congr_left held, sum_records Config.handles s.kept.lots hl.1 fun l => part (ofLot l)]
    exact congrArg List.sum (List.map_congr_left fun h _ => (handle h).symm)
  rw [built_part part hp, lots]
  simp only [everyItem, List.map_append, List.map_map, List.sum_append_int, Function.comp_def]

theorem State.itemLive_lot (s : State) (h : Nat) : s.itemLive (.lot h) = ((s.kept.lot h).map s.lotLive).getD SumSet.zero := by
  simp only [State.itemLive]; cases s.kept.lot h <;> rfl

theorem State.itemPlan_lot (s : State) (h : Nat) : s.itemPlan (.lot h) = ((s.kept.lot h).map s.lotPlan).getD SumSet.zero := by
  simp only [State.itemPlan]; cases s.kept.lot h <;> rfl

theorem State.builtLive_part (part : SumSet → Int) (hp : additive part) (s : State) (hl : s.kept.lotsInv) :
    part s.builtLive = part (lightship s.book.hull) + (everyItem.map fun i => part (s.itemLive i)).sum :=
  built_everyItem part hp s hl s.itemLive s.lotLive s.itemLive_lot

theorem State.builtPlan_part (part : SumSet → Int) (hp : additive part) (s : State) (hl : s.kept.lotsInv) :
    part s.builtPlan = part (lightship s.book.hull) + (everyItem.map fun i => part (s.itemPlan i)).sum :=
  built_everyItem part hp s hl s.itemPlan s.lotPlan s.itemPlan_lot

/-! ### Differences keep the sums exact (R78) -/

/-- Where one of a list's terms changes, the sum changes by its difference. -/
theorem sum_map_replace_one {α : Type} {l : List α} {c : α} {f g : α → Int} (hl : l.Nodup) (hc : c ∈ l)
    (hsame : ∀ a ∈ l, a ≠ c → g a = f a) : (l.map g).sum = (l.map f).sum - f c + g c := by
  induction l with
  | nil => cases hc
  | cons a l ih =>
    obtain ⟨ha, hl⟩ := List.nodup_cons.1 hl
    simp only [List.map_cons, List.sum_cons]
    by_cases he : a = c
    · have rest : l.map g = l.map f :=
        List.map_congr_left fun b hb => hsame b (List.mem_cons_of_mem a hb) fun h => ha (by rw [he, ← h]; exact hb)
      rw [rest, he]
      omega
    · have tail := ih hl ((List.mem_cons.1 hc).resolve_left fun h => he h.symm) fun b hb => hsame b (List.mem_cons_of_mem a hb)
      rw [tail, hsame a List.mem_cons_self he]
      omega

/-- Where some of a list's terms change, the sum changes by their difference. -/
theorem sum_map_replace {α : Type} [DecidableEq α] (l changed : List α) (f g : α → Int) (hl : l.Nodup) (hc : changed.Nodup)
    (hsub : ∀ a ∈ changed, a ∈ l) (hsame : ∀ a ∈ l, a ∉ changed → g a = f a) :
    (l.map g).sum = (l.map f).sum - (changed.map f).sum + (changed.map g).sum := by
  induction changed generalizing f with
  | nil =>
    rw [List.map_congr_left fun a ha => hsame a ha List.not_mem_nil]
    simp only [List.map_nil, List.sum_nil]
    omega
  | cons c cs ih =>
    obtain ⟨hcs, hnodup⟩ := List.nodup_cons.1 hc
    have first := sum_map_replace_one (f := f) (g := fun a => if a = c then g c else f a) hl (hsub c List.mem_cons_self)
      fun a _ ha => if_neg ha
    have others : (cs.map fun a => if a = c then g c else f a) = cs.map f :=
      List.map_congr_left fun a ha => by
        have other : a ≠ c := fun he => hcs (he ▸ ha)
        rw [if_neg other]
    have rest := ih (fun a => if a = c then g c else f a) hnodup (fun a ha => hsub a (List.mem_cons_of_mem c ha)) fun a ha hn => by
      by_cases he : a = c
      · rw [if_pos he, he]
      · rw [if_neg he]
        exact hsame a ha fun hm => (List.mem_cons.1 hm).elim he hn
    rw [others] at rest
    simp only [List.map_cons, List.sum_cons, if_pos] at first ⊢
    omega

/-- Both sum sets are exact (R74). -/
def State.sumsExact (s : State) : Prop := s.vol.live = s.builtLive ∧ s.vol.plan = s.builtPlan

/-- The items whose contributions can differ between two states; every other contributes the same. -/
def State.sameBut (s u : State) (items : List Item) : Prop :=
  ∀ i, i ∉ items → u.itemLive i = s.itemLive i ∧ u.itemPlan i = s.itemPlan i

/-- A change whose items' old contributions are subtracted and new ones added keeps both sets exact. -/
theorem State.sumsExact.shift {s u : State} {items : List Item} (hs : s.sumsExact) (hbook : u.book = s.book)
    (hls : s.kept.lotsInv) (hlu : u.kept.lotsInv) (hnodup : items.Nodup) (hmem : ∀ i ∈ items, i ∈ everyItem)
    (hsame : s.sameBut u items)
    (hlive : u.vol.live = shiftSums s.vol.live (items.map s.itemLive) (items.map u.itemLive))
    (hplan : u.vol.plan = shiftSums s.vol.plan (items.map s.itemPlan) (items.map u.itemPlan)) : u.sumsExact := by
  refine ⟨SumSet.ext_parts _ _ fun part hp => ?_, SumSet.ext_parts _ _ fun part hp => ?_⟩
  · have := sum_map_replace everyItem items (fun i => part (s.itemLive i)) (fun i => part (u.itemLive i)) everyItem_nodup hnodup
      hmem fun i _ hi => by rw [(hsame i hi).1]
    rw [hlive, shiftSums_part part hp, hs.1, s.builtLive_part part hp hls, u.builtLive_part part hp hlu, hbook, this]
    simp only [List.map_map, Function.comp_def]
    omega
  · have := sum_map_replace everyItem items (fun i => part (s.itemPlan i)) (fun i => part (u.itemPlan i)) everyItem_nodup hnodup
      hmem fun i _ hi => by rw [(hsame i hi).2]
    rw [hplan, shiftSums_part part hp, hs.2, s.builtPlan_part part hp hls, u.builtPlan_part part hp hlu, hbook, this]
    simp only [List.map_map, Function.comp_def]
    omega

/-! ### What the contributions depend on -/

/-- The contributions look at the book, the retained condition and the crane records alone. -/
theorem State.items_congr {s t : State} (hbook : t.book = s.book) (hkept : t.kept = s.kept) (hcranes : t.vol.cranes = s.vol.cranes) :
    t.itemLive = s.itemLive ∧ t.itemPlan = s.itemPlan := by
  have : t = { t with book := s.book, kept := s.kept, vol.cranes := s.vol.cranes } := by rw [← hbook, ← hkept, ← hcranes]
  rw [this]
  exact ⟨rfl, rfl⟩

/-- A tank's fill stands, but for its source. -/
def TankFill.sameFill (f g : TankFill) : Prop := g.applied = f.applied ∧ g.density = f.density ∧ g.planned = f.planned

/-- What is the same in two conditions for every contribution but those of the items named. -/
structure State.SameFor (s u : State) (items : List Item) : Prop where
  book : u.book = s.book
  lot : ∀ h, .lot h ∉ items → u.kept.lot h = s.kept.lot h
  head : ∀ h l c, .lot h ∉ items → s.kept.lot h = some l → l.state.crane = some c → u.boomHead c l = s.boomHead c l
  tank : ∀ t : TankNo, .tank t ∉ items → (s.tank t).sameFill (u.tank t)
  fixed : ∀ i : Fin 16, .fixed i ∉ items → u.kept.fixed[i.val] = s.kept.fixed[i.val]
  hook : ∀ c : CraneNo, .hook c ∉ items → u.unidentified c = s.unidentified c

/-- Every item that is not named contributes the same. -/
theorem State.SameFor.sameBut {s u : State} {items : List Item} (h : s.SameFor u items) : s.sameBut u items := by
  intro i hi
  cases i with
  | lot n =>
    rw [State.itemLive_lot, State.itemLive_lot, State.itemPlan_lot, State.itemPlan_lot, h.lot n hi]
    cases hl : s.kept.lot n with
    | none => exact ⟨rfl, rfl⟩
    | some l =>
      have head c hc := h.head n l c hi hl hc
      simp only [Option.map_some, Option.getD_some, State.lotLive, State.lotPlan, h.book]
      cases hs : l.state with
      | planned => simp
      | hookedLoading c => simp [head c (by rw [hs]; rfl)]
      | hookedDischarging c t => simp [head c (by rw [hs]; rfl)]
      | stowed i t => simp
      | ashore t => simp
  | tank t =>
    obtain ⟨happlied, hdensity, hplanned⟩ := h.tank t hi
    simp only [State.itemLive, State.itemPlan, State.tankExists, State.tankBook, State.currentContents, State.plannedContents,
      h.book, happlied, hdensity, hplanned]
    exact ⟨rfl, rfl⟩
  | fixed i =>
    constructor <;> simp only [State.itemLive, State.itemPlan, h.book, h.fixed i hi]
  | hook c => simp only [State.itemLive, State.itemPlan, h.book, h.hook c hi, and_self]

/-- The unidentified load follows from the book, what hangs on the crane, its hook reading and its free-reading mark (R154). -/
theorem State.unidentified_congr {s u : State} {c : CraneNo} (hbook : u.book = s.book)
    (hhanging : (u.craneState c).hanging = (s.craneState c).hanging) (hhook : (u.craneLive c).hook = (s.craneLive c).hook)
    (hfree : (u.craneLive c).freeReading = (s.craneLive c).freeReading) : u.unidentified c = s.unidentified c := by
  unfold State.unidentified State.craneExists
  rw [hhanging, hhook, hfree, hbook]

/-- A crane on which a lot hangs carries no unidentified load (R154). -/
theorem State.unidentified_of_hanging {s : State} {c : CraneNo} {h : Nat} (hh : (s.craneState c).hanging = some h) :
    s.unidentified c = none := by
  unfold State.unidentified
  rw [hh]

/-- Where book, lots, tanks, fixed items and crane records stand, every contribution is the same. -/
theorem State.SameFor.of_eq {s u : State} (hbook : u.book = s.book) (hlots : u.kept.lots = s.kept.lots)
    (htanks : u.kept.tanks = s.kept.tanks) (hfixed : u.kept.fixed = s.kept.fixed) (hcranes : u.kept.cranes = s.kept.cranes)
    (hlive : u.vol.cranes = s.vol.cranes) : s.SameFor u [] where
  book := hbook
  lot h _ := by rw [Kept.lot, Kept.lot, hlots]
  head h l c _ _ _ := by simp only [State.boomHead, State.assumedHead, State.craneLive, hbook, hlive]
  tank t _ := by rw [State.tank, State.tank, htanks]; exact ⟨rfl, rfl, rfl⟩
  fixed i _ := by rw [hfixed]
  hook c _ := State.unidentified_congr hbook (by rw [State.craneState, hcranes]; rfl) (by rw [State.craneLive, hlive]; rfl)
    (by rw [State.craneLive, hlive]; rfl)

/-- A change that leaves every contribution and the sums as they were keeps them exact. -/
theorem State.sumsExact.same {s u : State} (hs : s.sumsExact) (hls : s.kept.lotsInv) (hlu : u.kept.lotsInv)
    (hsame : s.SameFor u []) (hlive : u.vol.live = s.vol.live) (hplan : u.vol.plan = s.vol.plan) : u.sumsExact := by
  have still (c : SumSet) : shiftSums c [] [] = c := SumSet.ext_parts _ _ fun part hp => by rw [shiftSums_part part hp]; simp
  exact hs.shift hsame.book hls hlu List.nodup_nil (by simp) hsame.sameBut (hlive.trans (still _).symm)
    (hplan.trans (still _).symm)

/-- The differences of the items that a change touches keep both sets exact (R78). -/
theorem State.sumsExact.accumulate {s u : State} {items : List Item} (hs : s.sumsExact) (hls : s.kept.lotsInv)
    (hlu : u.kept.lotsInv) (hnodup : items.Nodup) (hmem : ∀ i ∈ items, i ∈ everyItem) (hbook : u.book = s.book)
    (hsame : s.sameBut u items) (hlive : u.vol.live = s.vol.live) (hplan : u.vol.plan = s.vol.plan) : (u.accumulate s items).sumsExact := by
  obtain ⟨el, ep⟩ := State.items_congr (s := u) (t := u.accumulate s items) rfl rfl rfl
  refine hs.shift (u := u.accumulate s items) hbook hls hlu hnodup hmem (fun i hi => ?_) ?_ ?_
  · rw [el, ep]; exact hsame i hi
  · rw [el, ← hlive]; rfl
  · rw [ep, ← hplan]; rfl

/-- A lot that hangs on a crane is the one the crane names. -/
theorem Kept.tableInv.lift_of_hooked {s : State} (hk : s.kept.tableInv) {h : Nat} {l : Lot} {c : CraneNo}
    (hlot : s.kept.lot h = some l) (hc : l.state.crane = some c) : ∃ d, (s.craneState c).lift = some (h, d) := by
  obtain ⟨-, -, -, hhook⟩ := hk
  obtain ⟨d, hd⟩ : ∃ d, l.state.direction = some d := by
    cases hs : l.state <;> simp [hs, LotState.crane] at hc <;> simp [LotState.direction]
  exact ⟨d, (hhook c h d).2 ⟨l, hlot, hc, hd⟩⟩

end Sys2Proof.Machine
end

section
/-!
PROOF. What a command can move: a chain of quiet operations, changes of the Reading Queue, of the retained condition's fields, of
tanks and of crane records, and changes of the table that are applied with their generation and Journal entry (R37). Each
invariant is kept by each link of the chain.
-/
namespace Sys2Proof.Machine

/-! ### The links of a chain -/

/-- The crane is CLEARED for the lot in the direction, or HALTED from it. -/
def CraneState.clearedFor (k : CraneState) (h : Nat) (d : Direction) : Prop := k = .cleared h d ∨ k = .halted .cleared h d

/-- Fields of the retained condition change that neither the table nor a contribution shows: channels, mode, the confirmation and
the source of tanks. -/
structure Kept.SameTable (k k' : Kept) : Prop where
  lots : k'.lots = k.lots
  stow : k'.stow = k.stow
  ashore : k'.ashore = k.ashore
  fixed : k'.fixed = k.fixed
  cranes : k'.cranes = k.cranes
  journal : k'.journal = k.journal
  generation : k'.generation = k.generation
  tanks : ∀ t : TankNo, k.tanks[t.val].sameFill k'.tanks[t.val]

/-- The crane record set to `k` carries the same lot, and becomes CLEARED only from CLEARED, from HALTED from it or, in the
completion of a clearance TRIAL, from CHECKING; such a completion makes none CHECKING (R144, R147, R150). -/
structure CraneState.Follows (grants : Bool) (k' k : CraneState) : Prop where
  lift : k'.lift = k.lift
  cleared : ∀ h d, k'.clearedFor h d → k.clearedFor h d ∨ (grants = true ∧ ∃ d', k = .checking h d')
  checking : ∀ h d, k' = .checking h d → grants = true → k = .checking h d

/-- A hook reading handed to a crane, but for the halt reasons (R153). -/
def State.handReading (s : State) (c : CraneNo) (r : HookReading) : State :=
  match (s.craneState c).hanging with
  | some h => (s.onCrane c fun k => { k.takeReading r with boom := some r.head, staleFrom := s.clock }).accumulate s [.lot h]
  | none => (s.onCrane c fun k => { k.takeReading r with freeReading := true }).accumulate s [.hook c]

/-- A change of the table made from `s` to `u`, not yet recorded: it touches the retained condition and the crane records alone,
keeps the table in agreement and every contribution but the items', and clears no crane. -/
structure State.TableChange (s u : State) (items : List Item) : Prop where
  frame : u = { s with kept := u.kept, keptCheck := u.keptCheck, vol.cranes := u.vol.cranes }
  journal : u.kept.journal = s.kept.journal
  generation : u.kept.generation = s.kept.generation
  nodup : items.Nodup
  table : s.kept.tableInv → u.kept.tableInv
  mem : s.kept.tableInv → ∀ i ∈ items, i ∈ everyItem
  same : s.kept.tableInv → s.sameBut u items
  cleared : ∀ e h d, (u.craneState e).clearedFor h d → (s.craneState e).clearedFor h d
  checking : ∀ e h d, u.craneState e = .checking h d → s.craneState e = .checking h d

/-- From `s` to `t` the engine moves by a chain of links with `n` applied changes of the table; `grants` says whether the chain is
the completion of a clearance TRIAL. -/
inductive State.Moves (grants : Bool) (s : State) : Nat → State → Prop
  | refl : Moves grants s 0 s
  | quiet {n : Nat} {t u : State} : Moves grants s n t → t.Quiet u → Moves grants s n u
  | queue {n : Nat} {t : State} (q : List QueueEntry) : Moves grants s n t →
      (t.queueBounded → q.length ≤ 64 ∧ (q.map QueueEntry.channel).Nodup) → Moves grants s n { t with vol.queue := q }
  | fields {n : Nat} {t : State} (k : Kept) : Moves grants s n t → t.kept.SameTable k → Moves grants s n (t.setKept k)
  | tank {n : Nat} {t : State} (m : TankNo) (f : TankFill → TankFill) : Moves grants s n t → Moves grants s n (t.changeTank m f)
  | crane {n : Nat} {t : State} (c : CraneNo) (k : CraneState) : Moves grants s n t →
      k.Follows grants (t.craneState c) → Moves grants s n (t.setCrane c k)
  | craneLive {n : Nat} {t : State} (c : CraneNo) (f : CraneLive → CraneLive) : Moves grants s n t →
      (f (t.craneLive c)).hook = (t.craneLive c).hook → (f (t.craneLive c)).freeReading = (t.craneLive c).freeReading →
      ((f (t.craneLive c)).boom = (t.craneLive c).boom ∨ (t.craneState c).lift = none) → Moves grants s n (t.onCrane c f)
  | reading {n : Nat} {t : State} (c : CraneNo) (r : HookReading) : Moves grants s n t → Moves grants s n (t.handReading c r)
  | change {n : Nat} {t u : State} {items : List Item} (r : ChangeRecord) (affected : List Nat) : Moves grants s n t →
      t.TableChange u items → Moves grants s (n + 1) (u.applied t r affected items)

namespace State.Moves
variable {g : Bool} {s t u : State} {n m : Nat}

theorem trans (h : s.Moves g n t) (k : t.Moves g m u) : s.Moves g (n + m) u := by
  induction k with
  | refl => exact h
  | quiet _ hq ih => exact ih.quiet hq
  | queue q _ hq ih => exact ih.queue q hq
  | fields k _ hk ih => exact ih.fields k hk
  | tank m f _ ih => exact ih.tank m f
  | crane c k _ hk ih => exact ih.crane c k hk
  | craneLive c f _ h1 h2 h3 ih => exact ih.craneLive c f h1 h2 h3
  | reading c r _ ih => exact ih.reading c r
  | change r a _ hc ih => exact ih.change r a hc

theorem of_quiet (h : s.Quiet t) : s.Moves g 0 t := refl.quiet h

end State.Moves

/-! ### What every link leaves alone -/

/-- From `s` to `t` part state, book and waiting commands stand, and the bounds of the ports and the LRU order are kept. -/
structure State.Stays (s t : State) : Prop where
  part : t.part = s.part
  book : t.book = s.book
  bookStatus : t.bookStatus = s.bookStatus
  pending : t.pending = s.pending
  lru : s.lruOrder → t.lruOrder
  bounded : s.portsBounded → t.portsBounded

theorem State.Stays.trans {s t u : State} (h : s.Stays t) (k : t.Stays u) : s.Stays u :=
  ⟨k.part.trans h.part, k.book.trans h.book, k.bookStatus.trans h.bookStatus, k.pending.trans h.pending, k.lru ∘ h.lru,
   k.bounded ∘ h.bounded⟩

theorem State.handReading_frame (s : State) (c : CraneNo) (r : HookReading) :
    s.handReading c r =
      { s with
        vol.cranes := (s.handReading c r).vol.cranes
        vol.live := (s.handReading c r).vol.live
        vol.plan := (s.handReading c r).vol.plan
        vol.livePending := (s.handReading c r).vol.livePending
        vol.planPending := (s.handReading c r).vol.planPending } := by
  unfold State.handReading
  split <;> rfl

theorem State.Moves.stays {g : Bool} {s t : State} {n : Nat} (h : s.Moves g n t) : s.Stays t := by
  induction h with
  | refl => exact ⟨rfl, rfl, rfl, rfl, id, id⟩
  | quiet _ hq ih => exact ih.trans ⟨hq.part, hq.book, hq.bookStatus, hq.pending, hq.lru, hq.bounded⟩
  | queue => rename_i ih; exact ih.trans ⟨rfl, rfl, rfl, rfl, id, id⟩
  | fields => rename_i ih; exact ih.trans ⟨rfl, rfl, rfl, rfl, id, id⟩
  | tank => rename_i ih; exact ih.trans ⟨rfl, rfl, rfl, rfl, id, id⟩
  | crane => rename_i ih; exact ih.trans ⟨rfl, rfl, rfl, rfl, id, id⟩
  | craneLive => rename_i ih; exact ih.trans ⟨rfl, rfl, rfl, rfl, id, id⟩
  | reading c r _ ih =>
    refine ih.trans ?_
    rw [State.handReading_frame]
    exact ⟨rfl, rfl, rfl, rfl, id, id⟩
  | change r a _ hc ih =>
    refine ih.trans ?_
    rw [hc.frame]
    exact ⟨rfl, rfl, rfl, rfl, id, id⟩

/-! ### The check word (R19) -/

theorem State.Moves.stored {g : Bool} {s t : State} {n : Nat} (h : s.Moves g n t) (hs : s.stored) : t.stored := by
  induction h with
  | refl => exact hs
  | quiet _ hq ih =>
    intro hp
    rw [hq.keptCheck, hq.kept]
    exact ih (hq.part ▸ hp)
  | queue q _ _ ih => exact ih
  | fields => exact fun _ => rfl
  | tank => exact fun _ => rfl
  | crane => exact fun _ => rfl
  | craneLive c f _ _ _ _ ih => exact ih
  | reading c r _ ih => rw [State.handReading_frame]; exact ih
  | change => exact fun _ => rfl

/-! ### The Reading Queue (R52) -/

theorem State.Moves.queueBounded {g : Bool} {s t : State} {n : Nat} (h : s.Moves g n t) (hs : s.queueBounded) :
    t.queueBounded := by
  induction h with
  | refl => exact hs
  | quiet _ hq ih => rw [State.queueBounded, hq.queue]; exact ih
  | queue q _ hq ih => exact hq ih
  | fields k _ _ ih => exact ih
  | tank m f _ ih => exact ih
  | crane c k _ _ ih => exact ih
  | craneLive c f _ _ _ _ ih => exact ih
  | reading c r _ ih => rw [State.handReading_frame]; exact ih
  | change r a _ hc ih => rw [hc.frame]; exact ih

/-! ### Generation and Journal (R139, R140) -/

/-- The newest 64 of a list. -/
def newest {α : Type} (l : List α) : List α := l.drop (l.length - 64)

theorem newest_append {α : Type} (l m : List α) : newest (newest l ++ m) = newest (l ++ m) := by
  unfold newest
  rw [List.length_append, List.length_drop, List.length_append, List.drop_append, List.drop_append, List.drop_drop,
    List.length_drop]
  congr 2 <;> omega

/-- The generations of the Journal's entries. -/
def Kept.generations (k : Kept) : List Nat := k.journal.map JournalEntry.generation

theorem Kept.record_generations (k : Kept) (r : ChangeRecord) :
    (k.record r).generations = newest (k.generations ++ [k.generation + 1]) := by
  obtain ⟨e, he, -, -, -, -, -, -, -, hj⟩ := k.record_journal r
  simp [Kept.generations, newest, hj, he]

/-- The generation advances by the number of applied changes, and the Journal takes their entries. -/
theorem State.Moves.journal {g : Bool} {s t : State} {n : Nat} (h : s.Moves g n t) :
    t.kept.generation = s.kept.generation + n ∧
    (n = 0 → t.kept.journal = s.kept.journal) ∧
    (n ≠ 0 → t.kept.generations = newest (s.kept.generations ++ List.range' (s.kept.generation + 1) n)) := by
  induction h with
  | refl => exact ⟨rfl, fun _ => rfl, fun h => absurd rfl h⟩
  | quiet _ hq ih => rw [hq.kept]; exact ih
  | queue q _ _ ih => exact ih
  | fields k _ hk ih =>
    simp only [State.setKept_kept, Kept.generations, hk.journal, hk.generation]
    exact ih
  | tank m f _ ih => exact ih
  | crane c k _ _ ih => exact ih
  | craneLive c f _ _ _ _ ih => exact ih
  | reading c r _ ih => rw [State.handReading_frame]; exact ih
  | @change n t u items r a _ hc ih =>
    obtain ⟨hgen, hsame, hnew⟩ := ih
    rw [State.applied_kept]
    refine ⟨by rw [Kept.record_generation, hc.generation, hgen]; omega, fun h => absurd h (Nat.succ_ne_zero n), fun _ => ?_⟩
    have hu : u.kept.generations = t.kept.generations := by rw [Kept.generations, hc.journal]; rfl
    rw [Kept.record_generations, hu, hc.generation, hgen, List.range'_concat]
    by_cases hn : n = 0
    · subst hn
      have : t.kept.generations = s.kept.generations := by rw [Kept.generations, hsame rfl]; rfl
      simp [this]
    · rw [hnew hn, newest_append]
      simp [Nat.add_assoc, Nat.add_comm 1 n]

/-! ### The table and the sums (R21, R25, R39, R74, R143) -/

/-- Sums that stay exact keep the invariant, where book status and part state stand. -/
theorem State.sumsInv.of_exact {s t : State} (hs : s.sumsInv) (hstatus : t.bookStatus = s.bookStatus) (hpart : t.part = s.part)
    (h : s.sumsExact → t.sumsExact) : t.sumsInv := fun hb hp => h (hs (hstatus ▸ hb) (hpart ▸ hp))

/-- A change of the fields that no contribution shows leaves every contribution. -/
theorem Kept.SameTable.sameFor {s : State} {k : Kept} (h : s.kept.SameTable k) : s.SameFor (s.setKept k) [] where
  book := rfl
  lot n _ := by rw [State.setKept_kept, Kept.lot, Kept.lot, h.lots]
  head _ _ _ _ _ _ := rfl
  tank t _ := h.tanks t
  fixed i _ := by rw [State.setKept_kept, h.fixed]
  hook c _ := State.unidentified_congr rfl (by rw [State.craneState, State.setKept_kept, h.cranes]; rfl) rfl rfl

theorem State.changeTank_sameFor (s : State) (m : TankNo) (f : TankFill → TankFill) : s.SameFor (s.onTank m f) [.tank m] where
  book := rfl
  lot _ _ := rfl
  head _ _ _ _ _ _ := rfl
  tank t ht := by
    have hne : m.val ≠ t.val := fun e => ht (List.mem_singleton.2 (congrArg Item.tank (Fin.ext e.symm)))
    simp only [State.tank, State.onTank_kept, updAt, Vector.getElem_set, if_neg hne]
    exact ⟨rfl, rfl, rfl⟩
  fixed _ _ := rfl
  hook _ _ := rfl

/-- A crane record set with the same lot hanging leaves every contribution. -/
theorem State.setCrane_sameFor (s : State) (c : CraneNo) (k : CraneState) (h : k.lift = (s.craneState c).lift) :
    s.SameFor (s.setCrane c k) [] where
  book := rfl
  lot _ _ := rfl
  head _ _ _ _ _ _ := rfl
  tank _ _ := ⟨rfl, rfl, rfl⟩
  fixed _ _ := rfl
  hook e _ := by
    refine State.unidentified_congr rfl ?_ rfl rfl
    rw [State.setCrane_craneState]
    split
    · rename_i he; rw [he, CraneState.hanging_eq, CraneState.hanging_eq, h]
    · rfl

/-- A crane's volatile record changed but for what the contributions show leaves every contribution. -/
theorem State.onCrane_sameFor (s : State) (hk : s.kept.tableInv) (c : CraneNo) (f : CraneLive → CraneLive)
    (hhook : (f (s.craneLive c)).hook = (s.craneLive c).hook)
    (hfree : (f (s.craneLive c)).freeReading = (s.craneLive c).freeReading)
    (hboom : (f (s.craneLive c)).boom = (s.craneLive c).boom ∨ (s.craneState c).lift = none) : s.SameFor (s.onCrane c f) [] where
  book := rfl
  lot _ _ := rfl
  head h l e _ hlot hc := by
    rw [State.boomHead, State.onCrane_craneLive]
    split
    · rename_i he
      subst he
      obtain ⟨d, hlift⟩ := hk.lift_of_hooked hlot hc
      rw [hboom.resolve_right fun hn => by rw [hlift] at hn; cases hn]
      rfl
    · rfl
  tank _ _ := ⟨rfl, rfl, rfl⟩
  fixed _ _ := rfl
  hook e _ := by
    refine State.unidentified_congr rfl rfl ?_ ?_ <;> rw [State.onCrane_craneLive] <;> split
    · rename_i he; rw [he, hhook]
    · rfl
    · rename_i he; rw [he, hfree]
    · rfl

/-- What a lot hanging on a crane makes of a hook reading: its own place, and no other contribution. -/
theorem State.reading_hanging_sameFor (s : State) (hk : s.kept.tableInv) (c : CraneNo) (f : CraneLive → CraneLive) (h : Nat)
    (hh : (s.craneState c).hanging = some h) : s.SameFor (s.onCrane c f) [.lot h] where
  book := rfl
  lot _ _ := rfl
  head j l e hj hlot hc := by
    have hne : e ≠ c := fun he => by
      subst he
      obtain ⟨d, hlift⟩ := hk.lift_of_hooked hlot hc
      rw [CraneState.hanging_eq, hlift] at hh
      cases hh
      exact hj (List.mem_singleton.2 rfl)
    rw [State.boomHead, State.onCrane_craneLive, if_neg hne]
    rfl
  tank _ _ := ⟨rfl, rfl, rfl⟩
  fixed _ _ := rfl
  hook e _ := by
    by_cases he : e = c
    · subst he
      rw [State.unidentified_of_hanging hh]
      exact State.unidentified_of_hanging (s := s.onCrane e f) hh
    · exact State.unidentified_congr rfl rfl (by rw [State.onCrane_craneLive, if_neg he])
        (by rw [State.onCrane_craneLive, if_neg he])

/-- What a crane without a lot makes of a hook reading: its own unidentified load. -/
theorem State.reading_free_sameFor (s : State) (hk : s.kept.tableInv) (c : CraneNo) (f : CraneLive → CraneLive)
    (hh : (s.craneState c).hanging = none) : s.SameFor (s.onCrane c f) [.hook c] where
  book := rfl
  lot _ _ := rfl
  head j l e _ hlot hc := by
    have hne : e ≠ c := fun he => by
      subst he
      obtain ⟨d, hlift⟩ := hk.lift_of_hooked hlot hc
      rw [CraneState.hanging_eq, hlift] at hh
      cases hh
    rw [State.boomHead, State.onCrane_craneLive, if_neg hne]
    rfl
  tank _ _ := ⟨rfl, rfl, rfl⟩
  fixed _ _ := rfl
  hook e he := by
    have hne : e ≠ c := fun e' => he (List.mem_singleton.2 (congrArg Item.hook e'))
    exact State.unidentified_congr rfl rfl (by rw [State.onCrane_craneLive, if_neg hne])
      (by rw [State.onCrane_craneLive, if_neg hne])

/-- A crane's item and a tank's are items, and so is that of a lot with a record. -/
theorem mem_everyItem_lot {k : Kept} (hk : k.tableInv) {h : Nat} {l : Lot} (hl : k.lot h = some l) : .lot h ∈ everyItem :=
  (mem_everyItem _).2 fun _ e => by cases e; exact hk.1.lt hl

theorem State.handReading_sumsExact (s : State) (hk : s.kept.tableInv) (c : CraneNo) (r : HookReading) (hs : s.sumsExact) :
    (s.handReading c r).sumsExact := by
  unfold State.handReading
  split
  · rename_i h hh
    refine hs.accumulate hk.1 hk.1 (by simp) (fun i hi => ?_) rfl (s.reading_hanging_sameFor hk c _ h hh).sameBut rfl rfl
    rw [List.mem_singleton.1 hi]
    rw [CraneState.hanging_eq] at hh
    obtain ⟨⟨j, d⟩, hlift, rfl⟩ := Option.map_eq_some_iff.1 hh
    obtain ⟨l, hl, -⟩ := (hk.2.2.2 c j d).1 hlift
    exact mem_everyItem_lot hk hl
  · rename_i hh
    exact hs.accumulate hk.1 hk.1 (by simp) (by simp [mem_everyItem]) rfl (s.reading_free_sameFor hk c _ hh).sameBut
      rfl rfl

theorem State.applied_sumsExact {s u : State} {items : List Item} (hc : s.TableChange u items) (hk : s.kept.tableInv)
    (hs : s.sumsExact) (r : ChangeRecord) (a : List Nat) : (u.applied s r a items).sumsExact := by
  have hlu := (hc.table hk).1
  have hacc : (u.accumulate s items).sumsExact :=
    hs.accumulate hk.1 hlu hc.nodup (hc.mem hk) (by rw [hc.frame]) (hc.same hk) (by rw [hc.frame]) (by rw [hc.frame])
  exact hacc.same hlu hlu (State.SameFor.of_eq rfl rfl rfl rfl rfl rfl) rfl rfl

theorem State.Moves.table {g : Bool} {s t : State} {n : Nat} (h : s.Moves g n t) (hs : s.kept.tableInv) : t.kept.tableInv := by
  induction h with
  | refl => exact hs
  | quiet _ hq ih => rw [hq.kept]; exact ih
  | queue q _ _ ih => exact ih
  | fields k _ hk ih => exact ih.congr hk.lots hk.ashore hk.stow fun c => by rw [State.setKept_kept, Kept.lift, hk.cranes]; rfl
  | tank m f _ ih => exact ih.congr rfl rfl rfl fun _ => rfl
  | crane c k _ hk ih => exact ih.setCrane c k hk.lift
  | craneLive c f _ _ _ _ ih => exact ih
  | reading c r _ ih => rw [State.handReading_frame]; exact ih
  | change r a _ hc ih =>
    rw [State.applied_kept]
    exact (hc.table ih).congr rfl rfl rfl fun _ => rfl

theorem State.Moves.sums {g : Bool} {s t : State} {n : Nat} (h : s.Moves g n t) (hs : s.kept.tableInv) (hi : s.sumsInv) :
    t.sumsInv := by
  refine hi.of_exact h.stays.bookStatus h.stays.part fun hx => ?_
  clear hi
  induction h with
  | refl => exact hx
  | quiet hm hq ih =>
    have ht := hm.table hs
    exact ih.same ht.1 (by rw [hq.kept]; exact ht.1)
      (State.SameFor.of_eq hq.book (by rw [hq.kept]) (by rw [hq.kept]) (by rw [hq.kept]) (by rw [hq.kept]) hq.cranes) hq.live hq.plan
  | queue q hm _ ih => exact ih.same (hm.table hs).1 (hm.table hs).1 (State.SameFor.of_eq rfl rfl rfl rfl rfl rfl) rfl rfl
  | fields k hm hk ih => exact ih.same (hm.table hs).1 ((hm.fields k hk).table hs).1 hk.sameFor rfl rfl
  | tank m f hm ih =>
    exact ih.accumulate (hm.table hs).1 (hm.table hs).1 (by simp) (by simp [mem_everyItem]) rfl
      (State.changeTank_sameFor _ m f).sameBut rfl rfl
  | crane c k hm hk ih =>
    exact ih.same (hm.table hs).1 ((hm.crane c k hk).table hs).1 (State.setCrane_sameFor _ c k hk.lift) rfl rfl
  | craneLive c f hm h1 h2 h3 ih =>
    exact ih.same (hm.table hs).1 (hm.table hs).1 (State.onCrane_sameFor _ (hm.table hs) c f h1 h2 h3) rfl rfl
  | reading c r hm ih => exact State.handReading_sumsExact _ (hm.table hs) c r ih
  | change r a hm hc ih => exact State.applied_sumsExact hc (hm.table hs) ih r a

/-! ### CLEARED cranes (R144) -/

theorem State.Moves.cleared {g : Bool} {s t : State} {n : Nat} (h : s.Moves g n t) (c : CraneNo) (j : Nat) (d : Direction) :
    ((t.craneState c).clearedFor j d →
      (s.craneState c).clearedFor j d ∨ (g = true ∧ ∃ d', s.craneState c = .checking j d')) ∧
    (t.craneState c = .checking j d → g = true → s.craneState c = .checking j d) := by
  induction h generalizing j d with
  | refl => exact ⟨.inl, fun h _ => h⟩
  | quiet _ hq ih => rw [State.craneState, hq.kept]; exact ih j d
  | queue q _ _ ih => exact ih j d
  | fields k _ hk ih => rw [State.craneState, State.setKept_kept, hk.cranes]; exact ih j d
  | tank m f _ ih => exact ih j d
  | crane e k _ hk ih =>
    rw [State.setCrane_craneState]
    split
    · rename_i he
      subst he
      refine ⟨fun hcl => ?_, fun hch hg => (ih j d).2 (hk.checking j d hch hg) hg⟩
      rcases hk.cleared j d hcl with hold | ⟨hg, d', hd'⟩
      · exact (ih j d).1 hold
      · exact .inr ⟨hg, d', (ih j d').2 hd' hg⟩
    · exact ih j d
  | craneLive e f _ _ _ _ ih => exact ih j d
  | reading e r _ ih => rw [State.handReading_frame]; exact ih j d
  | change r a _ hc ih => exact ⟨fun h => (ih j d).1 (hc.cleared c j d h), fun h hg => (ih j d).2 (hc.checking c j d h) hg⟩

end Sys2Proof.Machine
end

section
/-!
PROOF. The shared operations of the blocks as chains: what the Channel Unit, the Crane Supervisor, the Stowage Table and the
Evaluator move, and that each operation ends with the arbiter and the lines at rest (03, 06, 07, 08).
-/
namespace Sys2Proof.Machine

/-! ### The effect of an operation -/

/-- From `s` to `t` a chain with `n` applied changes, at whose end no line is free with something waiting and no job waits for a
free arbiter, as before it. -/
structure State.Effect (g : Bool) (n : Nat) (s t : State) : Prop where
  moves : s.Moves g n t
  lines : s.linesInv → t.linesInv
  arbiter : s.evaluatorInv → t.evaluatorInv

theorem State.Effect.refl (g : Bool) (s : State) : s.Effect g 0 s := ⟨.refl, id, id⟩

theorem State.Effect.trans {g : Bool} {n m : Nat} {s t u : State} (h : s.Effect g n t) (k : t.Effect g m u) :
    s.Effect g (n + m) u :=
  ⟨h.moves.trans k.moves, k.lines ∘ h.lines, k.arbiter ∘ h.arbiter⟩

theorem State.Moves.calm {g : Bool} {n : Nat} {s t : State} (h : s.Moves g n t) (k : s.Calm t) : s.Effect g n t :=
  ⟨h, k.lines, k.evaluatorInv⟩

/-- An operation that settles ends at rest. -/
theorem State.Moves.settle {g : Bool} {n : Nat} {s t : State} (h : s.Moves g n t) : s.Effect g n t.settle :=
  ⟨h.quiet t.settle_quiet, fun _ => t.settle_linesInv, fun hs =>
    ⟨t.settle_quiet.lru (h.stays.lru hs.1), t.settle_arbiterBusy (h.stays.lru hs.1)⟩⟩

/-- An operation of at most one applied change. -/
def State.Does (g : Bool) (s t : State) : Prop := ∃ n ≤ 1, s.Effect g n t

theorem State.Does.refl (g : Bool) (s : State) : s.Does g s := ⟨0, Nat.zero_le 1, .refl g s⟩

theorem State.Does.quiet {g : Bool} {s t : State} (h : s.Quiet t) (k : s.Calm t) : s.Does g t :=
  ⟨0, Nat.zero_le 1, (State.Moves.of_quiet h).calm k⟩

/-- A reply, after a quiet and calm change. -/
theorem State.Does.answer {g : Bool} {s t : State} (h : s.Quiet t) (k : s.Calm t) (p : Port) (st : Status) (body : List Val) :
    s.Does g (t.answer p st body) :=
  .quiet (h.trans (t.answer_quiet p st body)) (k.trans (t.answer_calm p st body))

theorem State.answer_does (g : Bool) (s : State) (p : Port) (st : Status) (body : List Val) : s.Does g (s.answer p st body) :=
  .answer (.refl s) (.refl s) p st body

/-- A chain with its reply, settled. -/
theorem State.Moves.answerSettle {g : Bool} {n : Nat} {s t : State} (h : s.Moves g n t) (hn : n ≤ 1) (p : Port) (st : Status)
    (body : List Val) : s.Does g (t.answer p st body).settle :=
  ⟨n, hn, (h.quiet (t.answer_quiet p st body)).settle⟩

theorem State.Moves.settles {g : Bool} {n : Nat} {s t : State} (h : s.Moves g n t) (hn : n ≤ 1) : s.Does g t.settle :=
  ⟨n, hn, h.settle⟩

/-- The service of a request does what its owning block does, or answers it, or leaves the engine as it is (R167). -/
theorem State.serve_does {g : Bool} {s : State} {p : Port} {cmd : Instr} {cls : RequestClass} {gate : State → Option Breach}
    {block : State → State} (h : s.Does g (block s)) : s.Does g (s.serve p cmd cls gate block) := by
  rcases s.serve_cases p cmd cls gate block with e | ⟨-, e⟩ | ⟨-, e⟩ | ⟨-, b, -, e⟩ | e <;> rw [e]
  · exact .refl g s
  · exact s.answer_does g p _ _
  · exact s.answer_does g p _ _
  · exact ((State.Moves.of_quiet ((s.breach_quiet p _ _ _).trans (State.answer_quiet _ _ _ _))).settles (Nat.zero_le 1))
  · exact h

/-! ### Tanks and channels (R55 to R70) -/

section Links
variable {g : Bool} {n : Nat} {s t : State}

theorem State.Moves.setSource (h : s.Moves g n t) (m : TankNo) (src : Source) : s.Moves g n (t.setSource m src) := by
  unfold State.setSource
  split
  · exact h
  · have sourced : s.Moves g n (t.onTank m fun f => { f with source := src }) := by
      refine h.fields _ ⟨rfl, rfl, rfl, rfl, rfl, rfl, rfl, fun i => ?_⟩
      simp only [updAt, Vector.getElem_set]
      split
      · rename_i e; simp only [← e]; exact ⟨rfl, rfl, rfl⟩
      · exact ⟨rfl, rfl, rfl⟩
    exact sourced.quiet (State.pendLive_quiet _)

theorem Kept.SameTable.channels (k : Kept) (v : Vector ChannelKept 39) : k.SameTable { k with channels := v } :=
  ⟨rfl, rfl, rfl, rfl, rfl, rfl, rfl, fun _ => ⟨rfl, rfl, rfl⟩⟩

theorem State.Moves.onChannelKept (h : s.Moves g n t) (ch : ChannelNo) (f : ChannelKept → ChannelKept) :
    s.Moves g n (t.onChannelKept ch f) :=
  h.fields _ (.channels _ _)

theorem State.noteCondition_quiet (s : State) (old : Condition) (ch : ChannelNo) : s.Quiet (s.noteCondition old ch) := by
  unfold State.noteCondition
  split
  · exact .refl s
  · dsimp only
    split
    · exact (s.issue_quiet _ _ _).trans (State.pendLive_quiet _)
    · exact s.issue_quiet _ _ _

theorem State.Moves.restoreChannel (h : s.Moves g n t) (ch : ChannelNo) : s.Moves g n (t.restoreChannel ch) := by
  unfold State.restoreChannel
  refine State.Moves.quiet ?_ (State.noteCondition_quiet _ _ _)
  split
  · exact (h.onChannelKept ch _).setSource _ _
  all_goals exact h.onChannelKept ch _

theorem State.setMode_moves (h : s.Moves g n t) (ch : ChannelNo) (m : RecoveryMode) : s.Moves g n (t.setMode ch m) :=
  (h.onChannelKept ch _).quiet (State.noteCondition_quiet _ _ _)

theorem State.queueHigh_quiet (s : State) : s.Quiet s.queueHigh :=
  (s.issue_quiet _ _ _).trans ⟨rfl, rfl, rfl, rfl, rfl, rfl, rfl, rfl, rfl, rfl, id, id⟩

theorem State.setQueueLevel_quiet (s : State) (m : Nat) : s.Quiet (s.setQueueLevel m) := by
  unfold State.setQueueLevel
  split
  · exact .refl s
  · dsimp only
    have level : s.Quiet { s with vol.queueLevel := levelTaken m, vol.highArmed := true } :=
      ⟨rfl, rfl, rfl, rfl, rfl, rfl, rfl, rfl, rfl, rfl, id, id⟩
    split
    · exact level.trans (State.queueHigh_quiet _)
    · exact level

theorem State.setStale_quiet (s : State) (ch : ChannelNo) : s.Quiet (s.setStale ch) :=
  (s.onChannelLive_quiet ch _).trans (State.noteCondition_quiet _ _ _)

/-! ### The halt reasons and the state of a crane (R143, R144, R161) -/

/-- A crane under new halt reasons carries the same lot and becomes CLEARED only from HALTED from it. -/
theorem CraneState.under_follows (g : Bool) (k : CraneState) (r : Reasons) : (k.under r).Follows g k := by
  rcases k with _ | ⟨j, e⟩ | ⟨j, e⟩ | ⟨j, e⟩ | ⟨_ | _, j, e⟩ <;> cases hr : r.isEmpty <;>
    refine ⟨?_, fun h d => ?_, fun h d => ?_⟩ <;>
    simp +contextual [CraneState.under, hr, resumed, CraneState.lift, CraneState.clearedFor]

theorem State.Moves.withReasons (h : s.Moves g n t) (c : CraneNo) (r : Reasons) : s.Moves g n (t.withReasons c r) := by
  rcases t.withReasons_eq c r with e | e <;> rw [e]
  · exact h
  · exact ((h.craneLive c _ rfl rfl (.inl rfl)).crane c _ (CraneState.under_follows g _ r)).quiet (State.permitNotice_quiet _ _)

/-- A crane on which no lot hangs may return to IDLE. -/
theorem State.Moves.toIdle (h : s.Moves g n t) (c : CraneNo) (hl : (t.craneState c).lift = none) : s.Moves g n (t.toIdle c) := by
  refine (h.crane c .idle ⟨hl.symm, fun _ _ hc => ?_, fun _ _ hc => ?_⟩).craneLive c _ rfl rfl (.inr ?_)
  · rcases hc with hc | hc <;> cases hc
  · cases hc
  · rw [State.setCrane_craneState, if_pos rfl]; rfl

theorem State.Moves.castVote (h : s.Moves g n t) (p : Port) (c : CraneNo) (held : Bool) : s.Moves g n (t.castVote p c held) := by
  unfold State.castVote
  split
  · exact h
  · have voted : s.Moves g n (t.onCrane c fun k => { k with votes := k.votes.set p.val held p.isLt }) :=
      h.craneLive c _ rfl rfl (.inl rfl)
    dsimp only
    split
    · exact voted
    · split
      · exact voted.craneLive c _ rfl rfl (.inl rfl)
      · exact voted
    all_goals exact voted.withReasons c _

theorem State.Moves.limitTest (h : s.Moves g n t) (v : Verdict) (c : CraneNo) : s.Moves g n (t.limitTest v c) := by
  have tested : s.Moves g n (
      if (t.craneLive c).reasons.limit then
        if wellWithinLimits t.book.cranes[c.val] v.fig && Sys2Proof.Machine.reaches v.generation (t.craneLive c).limitGen then
          (t.onCrane c fun k => { k with limitGen := none }).withReasons c { (t.craneLive c).reasons with limit := false }
        else t
      else if beyondLimits t.book.cranes[c.val] v.fig then t.withReasons c { (t.craneLive c).reasons with limit := true }
      else t) := by
    split
    · split
      · exact (h.craneLive c _ rfl rfl (.inl rfl)).withReasons c _
      · exact h
    · split
      · exact h.withReasons c _
      · exact h
  unfold State.limitTest
  dsimp only
  split
  · exact h
  · exact h
  all_goals exact tested

theorem State.Moves.limitTests (h : s.Moves g n t) (v : Verdict) (cs : List CraneNo) :
    s.Moves g n (cs.foldl (fun t c => t.limitTest v c) t) := by
  induction cs generalizing t with
  | nil => exact h
  | cons c cs ih => exact ih (h.limitTest v c)

theorem State.Moves.takeVerdict (h : s.Moves g n t) (v : Verdict) : s.Moves g n (t.takeVerdict v) := by
  have taken : s.Moves g n { t with vol.supervisor := none } :=
    h.quiet ⟨rfl, rfl, rfl, rfl, rfl, rfl, rfl, rfl, rfl, rfl, id, id⟩
  exact (taken.limitTests v (List.finRange 4)).quiet (State.countAll_quiet _ _)

theorem State.Moves.addStale (h : s.Moves g n t) (c : CraneNo) : s.Moves g n (t.addStale c) :=
  (h.withReasons c _).quiet (State.countAll_quiet _ _)

/-- A hook reading is handed over, and where a lot hangs STALE is removed (R153). -/
theorem State.hookReading_eq (s : State) (c : CraneNo) (r : HookReading) :
    s.hookReading c r =
      if (s.craneState c).hanging.isSome then
        (s.handReading c r).withReasons c { ((s.handReading c r).craneLive c).reasons with stale := false }
      else s.handReading c r := by
  unfold State.hookReading State.handReading
  cases (s.craneState c).hanging <;> rfl

theorem State.Moves.hookReading (h : s.Moves g n t) (c : CraneNo) (r : HookReading) : s.Moves g n (t.hookReading c r) := by
  rw [State.hookReading_eq]
  split
  · exact (h.reading c r).withReasons c _
  · exact h.reading c r

/-! ### Readings (R52 to R58, R65, R66) -/

theorem State.Moves.deliverReading (h : s.Moves g n t) (e : QueueEntry) : s.Moves g n (t.deliverReading e) := by
  unfold State.deliverReading
  split
  · split
    · exact h.tank _ _
    · exact h
  · exact h.quiet (State.pendLive_quiet _)
  · exact h.quiet (State.pendLive_quiet _)
  · exact h.hookReading _ _
  · exact h

theorem State.Moves.testReading (h : s.Moves g n t) (e : QueueEntry) : s.Moves g n (t.testReading e) := by
  have stepped := h.onChannelKept e.channel fun _ => ((t.channelKept e.channel).step (t.plausible e)).1
  unfold State.testReading
  dsimp only
  split
  · exact ((stepped.quiet ((State.onChannelLive_quiet _ _ _).trans (State.noteCondition_quiet _ _ _))).deliverReading e).quiet
      (State.count_quiet _ _)
  · split
    · exact stepped.quiet (State.noteCondition_quiet _ _ _)
    · exact stepped.quiet ((State.noteCondition_quiet _ _ _).trans (State.count_quiet _ _))

theorem State.Moves.applyHead (h : s.Moves g n t) : s.Moves g n t.applyHead := by
  unfold State.applyHead
  split
  · exact h
  · rename_i e rest hq
    have removed : s.Moves g n (t.removeHead rest) := by
      refine (h.queue rest fun hb => ?_).quiet (u := t.removeHead rest)
        ⟨rfl, rfl, rfl, rfl, rfl, rfl, rfl, rfl, rfl, rfl, id, id⟩
      obtain ⟨hlen, hnodup⟩ := hb
      rw [hq] at hlen hnodup
      rw [List.map_cons, List.nodup_cons] at hnodup
      exact ⟨Nat.le_of_succ_le hlen, hnodup.2⟩
    dsimp only
    split
    · exact removed.testReading e
    · exact removed

/-- Replacing the entry of a channel leaves the channels of the queue as they were. -/
theorem map_channel_replace (q : List QueueEntry) (e : QueueEntry) :
    (q.map fun x => if x.channel = e.channel then e else x).map QueueEntry.channel = q.map QueueEntry.channel := by
  rw [List.map_map]
  refine List.map_congr_left fun x _ => ?_
  rw [Function.comp_apply]
  split
  · rename_i h; exact h.symm
  · rfl

theorem State.Moves.readingArrives (h : s.Moves g n t) (e : QueueEntry) : s.Moves g n (t.readingArrives e) := by
  unfold State.readingArrives
  split
  · exact h
  · split
    · refine State.Moves.quiet (h.queue _ fun hb => ?_) (State.count_quiet _ _)
      rw [map_channel_replace, List.length_map]
      exact hb
    · rename_i hfind
      split
      · rename_i hlt
        unfold State.appendReading
        dsimp only
        have appended : s.Moves g n { t with vol.queue := t.vol.queue ++ [e] } := by
          refine h.queue _ fun hb => ⟨length_append_one_le hlt _, ?_⟩
          rw [List.map_append, List.nodup_append]
          refine ⟨hb.2, by simp, fun a ha b hb' => ?_⟩
          rw [List.map_singleton, List.mem_singleton] at hb'
          obtain ⟨x, hx, rfl⟩ := List.mem_map.1 ha
          rw [hb']
          simpa using List.find?_eq_none.1 hfind x hx
        split
        · exact appended.quiet (State.queueHigh_quiet _)
        · exact appended
      · exact h.quiet ((State.onChannelLive_quiet _ _ _).trans ((State.issue_quiet _ _ _ _).trans (State.count_quiet _ _)))

end Links

end Sys2Proof.Machine
end

section
/-!
PROOF. The applied changes of the Stowage Table as links of a chain: amendments, the purge, the fixed items, hook-on, landing and
land-back (R26 to R37, R142, R152 to R157).
-/
namespace Sys2Proof.Machine

/-! ### Changes of the retained condition alone -/

/-- A change of lots, lists, ashore list and fixed items is a change of the table. -/
theorem State.tableChange_setKept {s : State} {k : Kept} {items : List Item} (journal : k.journal = s.kept.journal)
    (generation : k.generation = s.kept.generation) (cranes : k.cranes = s.kept.cranes) (nodup : items.Nodup)
    (table : s.kept.tableInv → k.tableInv) (mem : s.kept.tableInv → ∀ i ∈ items, i ∈ everyItem)
    (same : s.kept.tableInv → s.sameBut (s.setKept k) items) : s.TableChange (s.setKept k) items where
  frame := rfl
  journal := journal
  generation := generation
  nodup := nodup
  table := table
  mem := mem
  same := same
  cleared e h d := by rw [State.craneState, State.setKept_kept, cranes]; exact id
  checking e h d := by rw [State.craneState, State.setKept_kept, cranes]; exact id

theorem Kept.takeHandle_frame (k : Kept) : k.takeHandle.2 = { k with lots := k.takeHandle.2.lots, ashore := k.takeHandle.2.ashore } := by
  unfold Kept.takeHandle
  dsimp only
  split
  · rfl
  · split <;> rfl

/-- An amendment changes lots and lists alone, whatever the constraint check says of it. -/
theorem State.amendKept_frame (s : State) (am : Amendment) (p : Port) (role : Role) :
    s.amendKept am p role =
      { s.kept with
        lots := (s.amendKept am p role).lots, stow := (s.amendKept am p role).stow
        ashore := (s.amendKept am p role).ashore } := by
  cases am with
  | planLoad mark weight n q hazard => simp only [State.amendKept, Kept.putLot]; rw [s.kept.takeHandle_frame]
  | planCancel h => rfl
  | planShift h n q => simp only [State.amendKept]; split <;> rfl
  | markDischarge h => simp only [State.amendKept]; split <;> rfl
  | unmark h => simp only [State.amendKept]; split <;> rfl
  | directStow h => simp only [State.amendKept]; split <;> rfl
  | restow h n q => simp only [State.amendKept]; split <;> rfl
  | directRemove h => simp only [State.amendKept]; split <;> rfl
  | correctWeight h w => simp only [State.amendKept]; split <;> rfl

/-- The handle that a passed amendment acts on is one of the 1024. -/
theorem State.amendTarget_lt (s : State) (am : Amendment) (hk : s.kept.tableInv) (hc : s.checkAmendment am = none) :
    s.amendTarget am < 1024 := by
  obtain ⟨-, -, heffect⟩ := s.amendKept_amendedTo am 0 .officer hk.1 hc
  generalize s.amendTarget am = h at heffect
  have known {l : Lot} (hl : s.kept.lot h = some l) : h < 1024 := hk.1.lt hl
  cases am with
  | planLoad mark weight n q hazard =>
    obtain ⟨-, ⟨hlt, -⟩ | ⟨-, hashore⟩, -⟩ := heffect
    · exact hlt
    · obtain ⟨l, hl, -⟩ := (hk.2.1.2 h).1 (by rw [hashore]; exact List.mem_cons_self ..)
      exact known hl
  | planShift => obtain ⟨-, -, l, hl, -⟩ := heffect; exact known hl
  | planCancel => obtain ⟨-, -, ⟨l, hl, -⟩, -⟩ := heffect; exact known hl
  | markDischarge => obtain ⟨-, -, l, t, hl, -⟩ := heffect; exact known hl
  | unmark => obtain ⟨-, -, l, t, hl, -⟩ := heffect; exact known hl
  | directStow => obtain ⟨-, -, l, hl, -⟩ := heffect; exact known hl
  | restow => obtain ⟨-, -, l, i, t, hl, -⟩ := heffect; exact known hl
  | directRemove => obtain ⟨-, -, l, i, t, hl, -⟩ := heffect; exact known hl
  | correctWeight => obtain ⟨-, -, l, hl, -⟩ := heffect; exact known hl

theorem State.amend_tableChange (s : State) (am : Amendment) (p : Port) (role : Role) (hc : s.checkAmendment am = none) :
    s.TableChange (s.setKept (s.amendKept am p role)) [.lot (s.amendTarget am)] := by
  have frame := s.amendKept_frame am p role
  refine State.tableChange_setKept (by rw [frame]) (by rw [frame]) (by rw [frame]) (by simp)
    (fun hk => s.amendKept_tableInv am p role hk hc) (fun hk i hi => ?_) fun hk => ?_
  · rw [List.mem_singleton.1 hi, mem_everyItem]
    intro h e
    cases e
    exact s.amendTarget_lt am hk hc
  · obtain ⟨-, hlots, -⟩ := s.amendKept_amendedTo am p role hk.1 hc
    have same : s.SameFor (s.setKept (s.amendKept am p role)) [.lot (s.amendTarget am)] := {
      book := rfl
      lot := fun j hj => hlots j fun e => hj (List.mem_singleton.2 (congrArg Item.lot e))
      head := fun _ _ _ _ _ _ => rfl
      tank := fun t _ => by rw [State.tank, State.tank, State.setKept_kept, frame]; exact ⟨rfl, rfl, rfl⟩
      fixed := fun i _ => by rw [State.setKept_kept, frame]
      hook := fun c _ => State.unidentified_congr rfl (by rw [State.craneState, State.setKept_kept, frame]; rfl) rfl rfl }
    exact same.sameBut

theorem State.purge_sameBut (s : State) (hk : s.kept.tableInv) : s.sameBut (s.setKept s.kept.purge) [] := by
  have ashoreNone {l : Lot} (hl : l.state.isAshore = true) : s.lotLive l = SumSet.zero ∧ s.lotPlan l = SumSet.zero := by
    unfold State.lotLive State.lotPlan
    revert hl
    cases l.state <;> simp [LotState.isAshore]
  have frame := s.kept.purge_frame
  intro i _
  cases i with
  | lot n =>
    rw [State.itemLive_lot, State.itemLive_lot, State.itemPlan_lot, State.itemPlan_lot, State.setKept_kept, Kept.purge_lot]
    split
    · rename_i hn
      obtain ⟨l, hl, ha⟩ := (hk.2.1.2 n).1 hn
      rw [hl]
      exact ⟨(ashoreNone ha).1.symm, (ashoreNone ha).2.symm⟩
    · exact ⟨rfl, rfl⟩
  | tank t => rw [frame]; exact ⟨rfl, rfl⟩
  | fixed f => rw [frame]; exact ⟨rfl, rfl⟩
  | hook c => rw [frame]; exact ⟨rfl, rfl⟩

/-- The purge frees ASHORE lots, which contribute nothing (R26, R47). -/
theorem State.purge_tableChange (s : State) : s.TableChange (s.setKept s.kept.purge) [] :=
  State.tableChange_setKept (by rw [Kept.purge_frame]) (by rw [Kept.purge_frame]) (by rw [Kept.purge_frame]) List.nodup_nil
    s.kept.purge_tableInv (by simp) s.purge_sameBut

/-- A fixed item set is a change of that item alone (R142). -/
theorem State.fixed_tableChange (s : State) (i : Fin 16) (f : FixedItem) :
    s.TableChange (s.setKept { s.kept with fixed := s.kept.fixed.set i.val f i.isLt }) [.fixed i] := by
  refine State.tableChange_setKept rfl rfl rfl (by simp) (fun hk => hk.congr rfl rfl rfl fun _ => rfl)
    (fun _ => by simp [mem_everyItem]) fun _ => ?_
  have same : s.SameFor (s.setKept { s.kept with fixed := s.kept.fixed.set i.val f i.isLt }) [.fixed i] := {
    book := rfl
    lot := fun _ _ => rfl
    head := fun _ _ _ _ _ _ => rfl
    tank := fun _ _ => ⟨rfl, rfl, rfl⟩
    fixed := fun j hj => by
      have hne : i.val ≠ j.val := fun e => hj (List.mem_singleton.2 (congrArg Item.fixed (Fin.ext e.symm)))
      simp only [State.setKept_kept, Vector.getElem_set, if_neg hne]
    hook := fun _ _ => rfl }
  exact same.sameBut

/-! ### Crane events -/

section CraneEvents
variable {s : State} {c : CraneNo} {h : Nat} {l l' : Lot} {d : Direction} (p : Port)

/-- The other cranes' boom heads stand at a hook-on: a crane sent IDLE carries no lot (R145). -/
theorem State.hookOn_sameFor (hk : s.kept.tableInv) (hfree : (s.craneState c).hanging = none) :
    s.SameFor (s.hookOnMoved p c h l l' d) [.lot h, .hook c] := by
  have frame := State.hookOnMoved_frame (s := s) (c := c) (h := h) (l := l) (l' := l') (d := d) p
  have live (e : CraneNo) (he : e ≠ c) : (s.hookOnMoved p c h l l' d).craneLive e =
      (((s.rivals c h).foldl State.toIdle (s.setKept (s.kept.putLot h (l'.from p (s.role p))))).craneLive e) := by
    rw [State.hookOnMoved, State.onCrane_craneLive, if_neg he]; rfl
  refine {
    book := by rw [frame]
    lot := fun j hj => ?_
    head := fun j lot e hj hlot hc => ?_
    tank := fun t _ => by rw [frame]; exact ⟨rfl, rfl, rfl⟩
    fixed := fun i _ => by rw [frame]; rfl
    hook := fun e he => ?_ }
  · rw [State.hookOnMoved_lot, if_neg fun e => hj (by rw [e]; exact List.mem_cons_self ..)]
  · obtain ⟨d', hlift⟩ := hk.lift_of_hooked hlot hc
    have hne : e ≠ c := fun he => by
      subst he
      rw [CraneState.hanging_eq, hlift] at hfree
      cases hfree
    have hrival : e ∉ s.rivals c h := fun hr => by
      rw [CraneState.lift_of_reserves ((s.mem_rivals c h e).1 hr).2] at hlift
      cases hlift
    rw [State.boomHead, State.boomHead, live e hne, State.toIdles_craneLive _ _ e hrival, frame]
    rfl
  · have hne : e ≠ c := fun e' => he (by rw [e']; simp)
    obtain ⟨hhook, hfreeReading⟩ :=
      State.toIdles_reading (s.setKept (s.kept.putLot h (l'.from p (s.role p)))) (s.rivals c h) e
    refine State.unidentified_congr (by rw [frame]) ?_ ?_ ?_
    · rw [CraneState.hanging_eq, CraneState.hanging_eq, State.hookOnMoved_lift_other p hne]
    · rw [live e hne, hhook]; rfl
    · rw [live e hne, hfreeReading]; rfl

/-- An accounted hook-on is a change of its lot and its crane (R152). -/
theorem State.hookOn_tableChange (hlot : s.kept.lot h = some l) (hh : l.hooked c = some (l', d))
    (hfree : (s.craneState c).hanging = none) : s.TableChange (s.hookOnMoved p c h l l' d) [.lot h, .hook c] where
  frame := by rw [State.hookOnMoved_frame]
  journal := by rw [State.hookOnMoved_frame]; rfl
  generation := by rw [State.hookOnMoved_frame]; rfl
  nodup := by simp
  table hk := State.hookOnMoved_tableInv p hk hlot hh hfree
  mem hk i hi := by
    simp only [List.mem_cons, List.not_mem_nil, or_false] at hi
    rcases hi with rfl | rfl
    · exact mem_everyItem_lot hk hlot
    · simp [mem_everyItem]
  same hk := (State.hookOn_sameFor p hk hfree).sameBut
  cleared e j d' := by
    rw [State.hookOnMoved_craneState]
    split
    · split <;> simp [CraneState.clearedFor]
    · split
      · simp [CraneState.clearedFor]
      · exact id
  checking e j d' := by
    rw [State.hookOnMoved_craneState]
    split
    · split <;> simp
    · split
      · simp
      · exact id

theorem State.endLift_craneLive (s : State) (c e : CraneNo) (he : e ≠ c) : (s.endLift c).craneLive e = s.craneLive e := by
  rw [State.endLift, State.onCrane_craneLive, if_neg he, State.toIdle, State.onCrane_craneLive, if_neg he]
  rfl

theorem State.endLift_frame (s : State) (c : CraneNo) :
    s.endLift c =
      { s with
        kept.cranes := (s.endLift c).kept.cranes, keptCheck := (s.endLift c).keptCheck
        vol.cranes := (s.endLift c).vol.cranes } := rfl

/-- The end of a lift, with its lot's record and the lists that follow, is a change of the lot and the crane (R155, R157). -/
theorem State.endLift_tableChange {k : Kept} (hlift : (s.craneState c).lift = some (h, d)) (hlot : s.kept.lot h = some l)
    (lots : k.lots = tablePut s.kept.lots h l')
    (frame : k = { s.kept with lots := k.lots, stow := k.stow, ashore := k.ashore })
    (table : s.kept.tableInv → ((s.setKept k).endLift c).kept.tableInv) :
    s.TableChange ((s.setKept k).endLift c) [.lot h, .hook c] where
  frame := by rw [State.endLift_frame]; rfl
  journal := by rw [State.endLift_frame, State.setKept_kept, frame]
  generation := by rw [State.endLift_frame, State.setKept_kept, frame]
  nodup := by simp
  table := table
  mem hk i hi := by
    simp only [List.mem_cons, List.not_mem_nil, or_false] at hi
    rcases hi with rfl | rfl
    · exact mem_everyItem_lot hk hlot
    · simp [mem_everyItem]
  same hk := by
    have other {e : CraneNo} (he : e ≠ c) : ((s.setKept k).endLift c).craneState e = s.craneState e := by
      rw [State.endLift_craneState, if_neg he, State.craneState, State.setKept_kept, frame]; rfl
    have same : s.SameFor ((s.setKept k).endLift c) [.lot h, .hook c] := {
      book := rfl
      lot := fun j hj => by
        have hne : j ≠ h := fun e => hj (by rw [e]; exact List.mem_cons_self ..)
        have put : k.lot j = (s.kept.putLot h l').lot j := by rw [Kept.lot, lots]; rfl
        rw [State.endLift_frame]
        change k.lot j = _
        rw [put, Kept.putLot_lot, if_neg hne]
      head := fun j lot e hj hl hc => by
        have hne : e ≠ c := fun he => by
          subst he
          obtain ⟨d', hlift'⟩ := hk.lift_of_hooked hl hc
          rw [hlift] at hlift'
          cases hlift'
          exact hj (List.mem_cons_self ..)
        rw [State.boomHead, State.boomHead, State.endLift_craneLive _ _ _ hne]
        rfl
      tank := fun t _ => by
        rw [State.endLift_frame]
        change (s.tank t).sameFill k.tanks[t.val]
        rw [frame]; exact ⟨rfl, rfl, rfl⟩
      fixed := fun i _ => by
        rw [State.endLift_frame]
        change k.fixed[i.val] = _
        rw [frame]
      hook := fun e he => by
        have hne : e ≠ c := fun e' => he (by rw [e']; simp)
        exact State.unidentified_congr rfl (by rw [other hne]) (by rw [State.endLift_craneLive _ _ _ hne]; rfl)
          (by rw [State.endLift_craneLive _ _ _ hne]; rfl) }
    exact same.sameBut
  cleared e j d' := by
    rw [State.endLift_craneState]
    split
    · simp [CraneState.clearedFor]
    · rw [State.craneState, State.setKept_kept, frame]; exact id
  checking e j d' := by
    rw [State.endLift_craneState]
    split
    · simp
    · rw [State.craneState, State.setKept_kept, frame]; exact id

end CraneEvents

end Sys2Proof.Machine
end

section
/-!
PROOF. The blocks' operations as chains of at most one applied change: links, commits, clearances, crane reports, passes, and what
a port does (06 to 09).
-/
namespace Sys2Proof.Machine

/-! ### Chains of at most one applied change -/

/-- From `s` to `t` a chain of at most one applied change. -/
def State.MovesOnce (g : Bool) (s t : State) : Prop := ∃ n ≤ 1, s.Moves g n t

section Once
variable {g : Bool} {s t u : State}

theorem State.Moves.once (h : s.Moves g 0 t) : s.MovesOnce g t := ⟨0, Nat.zero_le 1, h⟩

theorem State.MovesOnce.refl : s.MovesOnce g s := State.Moves.refl.once

theorem State.MovesOnce.of_quiet (h : s.Quiet t) : s.MovesOnce g t := (State.Moves.of_quiet h).once

theorem State.MovesOnce.quiet (h : s.MovesOnce g t) (k : t.Quiet u) : s.MovesOnce g u := by
  obtain ⟨n, hn, hm⟩ := h
  exact ⟨n, hn, hm.quiet k⟩

/-- A quiet operation before a chain. -/
theorem State.Quiet.once (h : s.Quiet t) (k : t.MovesOnce g u) : s.MovesOnce g u := by
  obtain ⟨n, hn, hm⟩ := k
  exact ⟨0 + n, by omega, (State.Moves.of_quiet h).trans hm⟩

theorem State.MovesOnce.settles (h : s.MovesOnce g t) : s.Does g t.settle := by
  obtain ⟨n, hn, hm⟩ := h
  exact hm.settles hn

theorem State.TableChange.once {items : List Item} (h : s.TableChange u items) (r : ChangeRecord) (affected : List Nat) :
    s.MovesOnce g (u.applied s r affected items) := ⟨1, Nat.le_refl 1, State.Moves.refl.change r affected h⟩

/-- What is done after a quiet and calm change. -/
theorem State.Does.after (h : s.Quiet t) (k : s.Calm t) (hu : t.Does g u) : s.Does g u := by
  obtain ⟨n, hn, ⟨hm, hlines, harbiter⟩⟩ := hu
  exact ⟨0 + n, by omega, (State.Moves.of_quiet h).trans hm, hlines ∘ k.lines, harbiter ∘ k.evaluatorInv⟩

end Once

theorem State.discardAt_calm (s : State) (p : Port) : s.Calm (s.discardAt p) := s.onPort_calm p _ id

theorem State.hear_calm (s : State) (p : Port) : s.Calm (s.hear p) := s.onPort_calm p _ id

/-! ### Amendments and links (R26, R127 to R136, R142) -/

section Operations
variable {g : Bool} (s : State) (p : Port)

theorem State.applyAmendment_moves (am : Amendment) (role : Role) (ov : Bool) (hc : s.checkAmendment am = none) :
    s.MovesOnce g (s.applyAmendment am p role ov) :=
  (s.amend_tableChange am p role hc).once _ _

theorem State.setFixed_moves (i : Fin 16) (f : FixedItem) : s.MovesOnce g (s.setFixed p i f) :=
  (s.fixed_tableChange i f).once _ _

/-- Sums that nothing was subtracted from or added to stand. -/
theorem shiftSums_nil (c : SumSet) : shiftSums c [] [] = c :=
  SumSet.ext_parts _ _ fun part hp => by rw [shiftSums_part part hp]; simp

/-- The purge leaves the arbiter and the lines at rest. -/
theorem State.purgeAll_calm : s.Calm (s.purgeAll p) := by
  refine ⟨rfl, rfl, ?_, ?_, rfl, rfl, id⟩ <;>
    simp [State.purgeAll, State.applied, State.accumulate, State.setKept, State.breakLinks, shiftSums_nil]

theorem State.purgeAll_effect : s.Effect g 1 (s.purgeAll p) :=
  (State.Moves.refl.change _ _ s.purge_tableChange).calm (s.purgeAll_calm p)

theorem State.takeLink_quiet (gr : Group) (n : Nat) : s.Quiet (s.takeLink p gr n) := by
  unfold State.takeLink
  refine State.Quiet.trans (t := match s.link gr with
    | some l => if l.owner = p then s else s.issueTo l.owner .linkTaken 0 [.u8 (groupNo gr), .u8 l.target, .u8 p.val]
    | none => s) ?_ (State.setLink_quiet _ _ _)
  split
  · split
    · exact .refl s
    · exact s.issueTo_quiet _ _ _ _
  · exact .refl s

theorem State.stageOn_quiet (gr : Group) (am : Amendment) : s.Quiet (s.stageOn p gr am) := by
  unfold State.stageOn
  split
  · exact s.answer_quiet _ _ _
  · split
    · exact s.answer_quiet _ _ _
    · split
      · exact (s.setLink_quiet _ _).trans (State.answer_quiet _ _ _ _)
      · exact ((s.setLink_quiet _ _).trans (State.answer_quiet _ _ _ _)).trans (State.count_quiet _ _)

theorem State.refuseCommit_quiet (gr : Group) (r : Refused) : s.Quiet (s.refuseCommit p gr r) :=
  ((s.setLink_quiet _ _).trans (State.answer_quiet _ _ _ _)).trans (State.count_quiet _ _)

theorem State.setTrial_quiet (t : Option Trial) :
    s.Quiet { s with vol.trials := s.vol.trials.set p.val t p.isLt } :=
  ⟨rfl, rfl, rfl, rfl, rfl, rfl, rfl, rfl, rfl, rfl, id, id⟩

theorem State.commitPlan_moves (gr : Group) (am : Amendment) (hc : s.checkAmendment am = none) :
    s.MovesOnce g (s.commitPlan p gr am) :=
  ((s.applyAmendment_moves p am _ false hc).quiet (State.answer_quiet _ _ _ _)).quiet (State.count_quiet _ _)

theorem State.commitOn_moves (gr : Group) (ov : Bool) : s.MovesOnce g (s.commitOn p gr ov) := by
  unfold State.commitOn
  split
  · exact .of_quiet (s.answer_quiet _ _ _)
  · split
    · exact .of_quiet (s.answer_quiet _ _ _)
    · split
      · exact .of_quiet ((s.setLink_quiet _ _).trans (State.answer_quiet _ _ _ _))
      · split
        · exact .of_quiet (s.refuseCommit_quiet p _ _)
        · rename_i hc
          split
          · exact .of_quiet ((s.setLink_quiet _ _).trans (State.setTrial_quiet _ p _))
          · exact s.commitPlan_moves p gr _ hc

theorem State.decideCommit_moves (gr : Group) (am : Amendment) (f : Figures) : s.MovesOnce g (s.decideCommit p gr am f) := by
  have accept (ov : Bool) (hc : s.checkAmendment am = none) : s.MovesOnce g (s.acceptLive p gr am f ov) :=
    ((s.applyAmendment_moves p am _ ov hc).quiet (State.answer_quiet _ _ _ _)).quiet (State.countAll_quiet _ _)
  unfold State.decideCommit
  split
  · exact .of_quiet ((s.answer_quiet _ _ _).trans (State.count_quiet _ _))
  · split
    · exact .of_quiet (s.refuseCommit_quiet p _ _)
    · rename_i hc
      split
      · exact accept false hc
      · split
        · exact accept true hc
        · exact .of_quiet (((s.setLink_quiet _ _).trans (State.answer_quiet _ _ _ _)).trans (State.count_quiet _ _))

/-! ### Clearances (R147 to R151) -/

theorem State.beginClearance_moves (c : CraneNo) (h : Nat) (d : Direction) (q : Point) (hidle : s.craneState c = .idle) :
    s.Moves false 0 (s.beginClearance p c h d q) := by
  have checking : s.Moves false 0 (s.setCrane c (.checking h d)) := by
    refine State.Moves.refl.crane c _ ⟨by rw [hidle]; rfl, fun _ _ hc => ?_, fun _ _ _ hg => by cases hg⟩
    rcases hc with hc | hc <;> cases hc
  exact ((checking.craneLive c _ rfl rfl (.inl rfl)).quiet (State.permitNotice_quiet _ _)).quiet (State.setTrial_quiet _ p _)

theorem State.requestClearance_moves (c : CraneNo) (h : Nat) (d : Direction) (q : Point) :
    s.Does false (s.requestClearance p c h d q) := by
  unfold State.requestClearance
  split
  · exact s.answer_does _ _ _ _
  · rename_i hidle
    split
    · exact (State.MovesOnce.of_quiet ((s.answer_quiet _ _ _).trans (State.count_quiet _ _))).settles
    · exact (s.beginClearance_moves p c h d q (Decidable.not_not.1 hidle)).once.settles

theorem State.denyClearance_moves {n : Nat} {t : State} (h : s.Moves g n t) (c : CraneNo) (hl : (t.craneState c).lift = none) :
    s.Moves g n (t.denyClearance c) :=
  (h.toIdle c hl).quiet (State.permitNotice_quiet _ _)

theorem State.cancelClearance_does (c : CraneNo) : s.Does g (s.cancelClearance p c) := by
  have cancelled (hl : (s.craneState c).lift = none) : s.Does g (((s.toIdle c).permitNotice c).done p []).settle :=
    ((s.denyClearance_moves .refl c hl).quiet (State.answer_quiet _ p .done [])).once.settles
  unfold State.cancelClearance
  split
  · exact s.answer_does _ _ _ _
  · rename_i hs; exact cancelled (by rw [hs]; rfl)
  · rename_i hs; exact cancelled (by rw [hs]; rfl)
  all_goals exact s.answer_does _ _ _ _

theorem CraneState.checks_eq {k : CraneState} {h : Nat} (hc : k.checks h = true) : ∃ d, k = .checking h d := by
  cases k <;> simp [CraneState.checks] at hc
  subst hc
  exact ⟨_, rfl⟩

/-- A crane that is CHECKING the lot becomes CLEARED for it in the completion of its TRIAL. -/
theorem State.grantClearance_moves {t : State} {c : CraneNo} {h : Nat} {d d' : Direction} (ht : s.Moves true 0 t)
    (hk : t.craneState c = .checking h d') : s.Moves true 0 (t.grantClearance c h d) := by
  have cleared : (CraneState.cleared h d).Follows true (t.craneState c) := by
    refine ⟨by rw [hk]; rfl, fun j e hc => ?_, fun _ _ hc => by cases hc⟩
    rcases hc with hc | hc <;> cases hc
    exact .inr ⟨rfl, d', hk⟩
  exact ((ht.crane c _ cleared).craneLive c _ rfl rfl (.inl rfl)).quiet (State.permitNotice_quiet _ _)

theorem State.decideClearance_moves (role : Role) (c : CraneNo) (h : Nat) (d : Direction) (f : Figures) :
    s.Moves true 0 (s.decideClearance p role c h d f) := by
  unfold State.decideClearance
  dsimp only
  split
  · exact .of_quiet ((s.answer_quiet _ _ _).trans (State.count_quiet _ _))
  · rename_i hc
    obtain ⟨d', hk⟩ := CraneState.checks_eq (Bool.not_eq_false _ ▸ hc)
    have answered (st : Status) (body : List Val) : s.Moves true 0 (s.answer p st body) := .of_quiet (s.answer_quiet _ _ _)
    have denied (st : Status) (body : List Val) (e : TallyEvent) :
        s.Moves true 0 (((s.answer p st body).denyClearance c).count e) :=
      (s.denyClearance_moves (answered st body) c (by change (s.craneState c).lift = none; rw [hk]; rfl)).quiet
        (State.count_quiet _ _)
    split
    · exact denied _ _ _
    · split
      · exact denied _ _ _
      · split
        · exact (s.grantClearance_moves (answered _ _) hk).quiet (State.count_quiet _ _)
        · exact denied _ _ _

/-! ### Crane reports (R152 to R157) -/

theorem State.issues_quiet (ns : List (NoticeKind × Nat × List Val)) : s.Quiet (s.issues ns) := by
  induction ns generalizing s with
  | nil => exact .refl s
  | cons n ns ih => exact (s.issue_quiet _ _ _).trans (ih _)

/-- The notices of a hook-on before the PERMIT notices: UNPERMITTED-LIFT, then OVERSTOW (R152). -/
def State.hookOnNotices (s : State) (c : CraneNo) (h : Nat) (l : Lot) (d : Direction) : List (NoticeKind × Nat × List Val) :=
  (if (s.craneState c).permitsHookOn h l then []
    else [(.unpermittedLift, 0, [.u8 (craneNum c), .u16 h, .u8 (directionCode d)])]) ++
  (match d, s.overstowing h with
    | .discharging, some v => [(.overstow, 0, [.u8 (craneNum c), .u16 h] ++ refVals v)]
    | _, _ => [])

/-- An accounted hook-on recorded, before its notices and events. -/
def State.hookOnApplied (s : State) (p : Port) (c : CraneNo) (h : Nat) (l l' : Lot) (d : Direction) : State :=
  (s.hookOnMoved p c h l l' d).applied s
    { kind := .hookOn, handle := some h, space := some l.space, item := none, port := p, role := s.role p, overridden := false }
    [l.space] [.lot h, .hook c]

/-- An accounted hook-on with its notices announced. -/
def State.hookOnAnnounced (s : State) (p : Port) (c : CraneNo) (h : Nat) (l l' : Lot) (d : Direction) : State :=
  (s.hookOnApplied p c h l l' d).issues
    (s.hookOnNotices c h l d ++
      (s.rivals c h ++ [c]).map fun e => (.permit, craneNum e, (s.hookOnApplied p c h l l' d).permitVals e))

/-- A hook-on is one applied change, its notices in the order of R152 and its events. -/
theorem State.accountHookOn_eq (c : CraneNo) (h : Nat) (l l' : Lot) (d : Direction) :
    s.accountHookOn p c h l l' d =
      (s.hookOnAnnounced p c h l l' d).countAll
        (lotMoves (if d = .loading then 0 else 2) (s.role p) (s.groupOf l.space) ::
          haltEvents s (s.hookOnAnnounced p c h l l' d)) := by
  have lift (t : State) (permitted : Bool) (ns : List (NoticeKind × Nat × List Val)) :
      t.issues (if permitted then [] else ns) = if permitted then t else t.issues ns := by cases permitted <;> rfl
  have announced : s.hookOnAnnounced p c h l l' d =
      ((s.rivals c h).foldl State.permitNotice
        ((s.hookOnApplied p c h l l' d).issues (s.hookOnNotices c h l d))).permitNotice c := by
    rw [State.permitNotices, State.hookOnAnnounced, List.map_append, State.issues_append, State.issues_append]
    simp only [State.issues_permitVals, State.permitNotice]
    rfl
  rw [announced]
  unfold State.accountHookOn State.hookOnApplied State.hookOnNotices
  rw [State.issues_append, lift]
  cases d with
  | loading => rfl
  | discharging => cases s.overstowing h <;> rfl

theorem State.accountHookOn_moves {c : CraneNo} {h : Nat} {l l' : Lot} {d : Direction} (hlot : s.kept.lot h = some l)
    (hh : l.hooked c = some (l', d)) (hfree : (s.craneState c).hanging = none) : s.MovesOnce g (s.accountHookOn p c h l l' d) := by
  rw [State.accountHookOn_eq]
  exact (((State.hookOn_tableChange p hlot hh hfree).once _ _).quiet (State.issues_quiet _ _)).quiet (State.countAll_quiet _ _)

theorem State.hookOnReport_moves (c : CraneNo) (h : Nat) : s.MovesOnce g (s.hookOnReport p c h) := by
  unfold State.hookOnReport
  split
  · exact .of_quiet (s.issue_quiet _ _ _)
  · rename_i l hlot
    split
    · exact .of_quiet (s.issue_quiet _ _ _)
    · rename_i l' d hh
      split
      · exact .of_quiet (s.issue_quiet _ _ _)
      · rename_i hfree
        exact s.accountHookOn_moves p hlot hh (by simpa using hfree)

theorem Kept.land_frame (k : Kept) (h : Nat) (l : Lot) (d : Direction) :
    k.land h l d = { k with lots := tablePut k.lots h l, stow := (k.land h l d).stow, ashore := (k.land h l d).ashore } := by
  cases d <;> rfl

/-- An accounted landing recorded, before its notices and events. -/
def State.landApplied (s : State) (p : Port) (c : CraneNo) (h : Nat) (l : Lot) (d : Direction) (w : Option Int) : State :=
  ((s.setKept (s.kept.land h ((l.landed d s.clock w).from p (s.role p)) d)).endLift c).applied s
    { kind := .land, handle := some h, space := some l.space, item := none, port := p, role := s.role p, overridden := false }
    [l.space] [.lot h, .hook c]

/-- An accounted land-back recorded, before its notice. -/
def State.landBackApplied (s : State) (p : Port) (c : CraneNo) (h : Nat) (l : Lot) (d : Direction) : State :=
  ((s.setKept (s.kept.putLot h ((l.landedBack d).from p (s.role p)))).endLift c).applied s
    { kind := .landBack, handle := some h, space := some l.space, item := none, port := p, role := s.role p, overridden := false }
    [l.space] [.lot h, .hook c]

theorem State.landApplied_moves {c : CraneNo} {h : Nat} {l : Lot} {d : Direction} (hlift : (s.craneState c).lift = some (h, d))
    (hlot : s.kept.lot h = some l) (w : Option Int) : s.MovesOnce g (s.landApplied p c h l d w) :=
  (State.endLift_tableChange hlift hlot (by rw [Kept.land_frame]) (by rw [Kept.land_frame])
    fun hk => State.landed_tableInv hk hlift hlot p _ w).once _ _

theorem State.landBackApplied_moves {c : CraneNo} {h : Nat} {l : Lot} {d : Direction}
    (hlift : (s.craneState c).lift = some (h, d)) (hlot : s.kept.lot h = some l) :
    s.MovesOnce g (s.landBackApplied p c h l d) :=
  (State.endLift_tableChange hlift hlot rfl rfl fun hk => State.landedBack_tableInv hk hlift hlot p _).once _ _

theorem State.weightNotice_quiet (c : CraneNo) (h : Nat) (old : Int) (w : Option Int) : s.Quiet (s.weightNotice c h old w) := by
  unfold State.weightNotice
  split
  · exact .refl s
  · split
    · exact s.issue_quiet _ _ _
    · exact .refl s

theorem State.overloadNotice_quiet (c : CraneNo) (h n : Nat) : s.Quiet (s.overloadNotice c h n) := by
  unfold State.overloadNotice
  split
  · exact .refl s
  · split
    · exact s.issue_quiet _ _ _
    · exact .refl s

theorem State.accountLand_moves {c : CraneNo} {h : Nat} {l : Lot} {d : Direction} (hlift : (s.craneState c).lift = some (h, d))
    (hlot : s.kept.lot h = some l) : s.MovesOnce g (s.accountLand p c h l d) := by
  cases d with
  | loading =>
    exact ((s.landApplied_moves p hlift hlot _).quiet (State.permitNotice_quiet _ c)).quiet
      (((State.weightNotice_quiet _ _ _ _ _).trans (State.overloadNotice_quiet _ _ _ _)).trans (State.countAll_quiet _ _))
  | discharging =>
    exact ((s.landApplied_moves p hlift hlot _).quiet (State.permitNotice_quiet _ c)).quiet (State.countAll_quiet _ _)

theorem State.landDiscarded_quiet (c : CraneNo) (kind : Byte) (h : Nat) : s.Quiet (s.landDiscarded c kind h) := by
  unfold State.landDiscarded
  split
  · exact s.issue_quiet _ _ _
  · exact s.issue_quiet _ _ _

theorem State.landReport_moves (c : CraneNo) (h : Nat) : s.MovesOnce g (s.landReport p c h) := by
  unfold State.landReport
  split
  · rename_i ha
    obtain ⟨hlift, hlot⟩ := State.accountable_eq_some ha
    exact s.accountLand_moves p hlift hlot
  · exact .of_quiet (s.landDiscarded_quiet _ _ _)

theorem State.landBackReport_moves (c : CraneNo) (h : Nat) : s.MovesOnce g (s.landBackReport p c h) := by
  unfold State.landBackReport
  split
  · rename_i ha
    obtain ⟨hlift, hlot⟩ := State.accountable_eq_some ha
    exact (s.landBackApplied_moves p hlift hlot).quiet (State.permitNotice_quiet _ c)
  · exact .of_quiet (s.landDiscarded_quiet _ _ _)

/-! ### Passes (R117) -/

theorem State.completeLive_quiet (snap : Snapshot) : s.Quiet (s.completeLive snap) := by
  unfold State.completeLive
  dsimp only
  refine State.Quiet.trans ?_ (State.countAll_quiet _ _)
  have replaced (v : Verdict) : s.Quiet
      { s with
        vol.liveVerdict := some v, vol.capture := s.vol.capture.update v, vol.supervisor := some v, vol.running := none } :=
    ⟨rfl, rfl, rfl, rfl, rfl, rfl, rfl, rfl, rfl, rfl, id, id⟩
  split
  · exact (replaced _).trans (State.issue_quiet _ _ _ _)
  · exact replaced _

theorem State.completePlan_quiet (snap : Snapshot) : s.Quiet (s.completePlan snap) := by
  unfold State.completePlan
  dsimp only
  refine State.Quiet.trans ?_ (State.count_quiet _ _)
  have replaced (v : Verdict) : s.Quiet { s with vol.planVerdict := some v, vol.running := none } :=
    ⟨rfl, rfl, rfl, rfl, rfl, rfl, rfl, rfl, rfl, rfl, id, id⟩
  split
  · exact (replaced _).trans (State.issue_quiet _ _ _ _)
  · exact replaced _

/-! ### Reports, silence, restart and delivery (R163 to R172) -/

theorem State.reportBreach_does (kind : Byte) (b : Breach) : s.Does g (s.reportBreach p kind b) :=
  (State.MovesOnce.of_quiet (s.breach_quiet p _ _ _)).settles

theorem State.discardAt_does : s.Does g (s.discardAt p) := .quiet (s.discardAt_quiet p) (s.discardAt_calm p)

theorem State.takeReading_does (n : Nat) (v : ReadingValue) : s.Does g (s.takeReading p n v) := by
  unfold State.takeReading
  split
  · split
    · exact s.reportBreach_does p _ _
    · exact (State.Moves.refl.readingArrives _).once.settles
  · exact s.discardAt_does p

theorem State.takeCraneReport_does (kind : Byte) (crane lot : Nat) {account : State → CraneNo → Nat → State}
    (h : ∀ c, s.MovesOnce g (account s c lot)) : s.Does g (s.takeCraneReport p kind crane lot account) := by
  unfold State.takeCraneReport
  split
  · exact s.discardAt_does p
  · split
    · exact s.reportBreach_does p _ _
    · exact (h _).settles

theorem State.hear_does : s.Does g (s.hear p) := .quiet (s.hear_quiet p) (s.hear_calm p)

theorem State.reportDelivered_does {take : State → State} (h : ∀ t : State, t.Does g (take t)) :
    s.Does g (s.reportDelivered p take) := by
  unfold State.reportDelivered
  split
  · exact .refl g s
  · exact s.hear_does p
  · exact .after (s.hear_quiet p) (s.hear_calm p) (h _)

theorem PortState.shed_lineInv (q : PortState) : q.shed.lineInv := fun _ => ⟨rfl, rfl⟩

theorem State.breakOwned_quiet : s.Quiet (s.breakOwned p) := s.breakLinks_quiet _

theorem State.breakOwned_calm : s.Calm (s.breakOwned p) := ⟨rfl, rfl, rfl, rfl, rfl, rfl, id⟩

/-- A change of one port that keeps its bounds and leaves nothing waiting for its free line. -/
theorem State.onPort_does (f : PortState → PortState) (hb : (s.port p).bounded → (f (s.port p)).bounded)
    (hl : (s.port p).lineInv → (f (s.port p)).lineInv) : s.Does g (s.onPort p f) :=
  .quiet (s.onPort_quiet p f hb) (s.onPort_calm p f hl)

theorem State.goSilent_does : s.Does g (s.goSilent p) := by
  unfold State.goSilent
  split
  · exact .refl g s
  · exact s.onPort_does p _ id id
  · exact .after (s.breakOwned_quiet p) (s.breakOwned_calm p)
      (State.onPort_does _ p _ (fun h => h.shed) fun _ => PortState.shed_lineInv _)

theorem State.restartPort_quiet : s.Quiet (s.restartPort p) := by
  refine (s.breakOwned_quiet p).trans (State.onPort_quiet _ p _ fun h => ?_)
  obtain ⟨hreq, hrep, hnot, -⟩ := h.shed
  exact ⟨hreq, hrep, hnot, Nat.zero_le _⟩

theorem State.replyRestart_quiet (tag : Byte) (st : Status) (body : List Val) : s.Quiet (s.replyRestart p tag st body) :=
  s.onPort_quiet p _ fun h => h.pushReply _

theorem State.restartDelivered_does (tag : Byte) : s.Does g (s.restartDelivered p tag) := by
  unfold State.restartDelivered
  split
  · exact (State.MovesOnce.of_quiet ((s.breach_quiet p _ _ _).trans (State.replyRestart_quiet _ p _ _ _))).settles
  · exact (State.MovesOnce.of_quiet ((s.restartPort_quiet p).trans (State.replyRestart_quiet _ p _ _ _))).settles

theorem State.restartServed_does : s.Does g (s.restartServed p) := by
  unfold State.restartServed
  split
  · exact .refl g s
  · refine (State.MovesOnce.of_quiet (((s.restartPort_quiet p).trans (State.onPort_quiet _ p _ fun h => ?_)).trans
      (State.replyRestart_quiet _ p _ _ _))).settles
    obtain ⟨-, hrep, hnot, hdis⟩ := h
    exact ⟨Nat.zero_le _, hrep, hnot, hdis⟩

theorem State.requestDelivered_does (kind tag : Byte) (payload : List Byte) :
    s.Does g (s.requestDelivered p kind tag payload) := by
  unfold State.requestDelivered
  split
  · exact s.restartDelivered_does p tag
  · exact s.onPort_does p _ (fun h => h.enqueue _) fun h => h.enqueue _

theorem State.takeReport_does (kind : Byte) (payload : List Byte) : s.Does g (s.takeReport p kind payload) := by
  unfold State.takeReport
  split
  · exact s.takeReading_does p _ _
  · exact s.takeCraneReport_does p _ _ _ fun c => s.hookOnReport_moves p c _
  · exact s.takeCraneReport_does p _ _ _ fun c => s.landReport_moves p c _
  · exact s.takeCraneReport_does p _ _ _ fun c => s.landBackReport_moves p c _
  · exact s.discardAt_does p

theorem State.deliver_does (kind tag : Byte) (payload : List Byte) : s.Does g (s.deliver p kind tag payload) := by
  unfold State.deliver
  split
  · exact .refl g s
  · split
    · exact s.hear_does p
    · exact .after (s.hear_quiet p) (s.hear_calm p) (State.requestDelivered_does _ p _ _ _)
  · split
    · exact .after (s.hear_quiet p) (s.hear_calm p) (State.takeReport_does _ p _ _)
    · exact .after (s.hear_quiet p) (s.hear_calm p) (State.requestDelivered_does _ p _ _ _)

theorem State.dropPartial_does : s.Does g (s.onPort p PortState.dropPartial) :=
  s.onPort_does p _ (fun h => h.dropPartial) fun h => h.dropPartial

/-- A change of a port's receiver is quiet and calm. -/
theorem State.Does.afterReceiver {s u : State} {p : Port} (f : PortState → PortState)
    (hb : (s.port p).bounded → (f (s.port p)).bounded) (hl : (s.port p).lineInv → (f (s.port p)).lineInv)
    (h : (s.onPort p f).Does g u) : s.Does g u :=
  .after (s.onPort_quiet p f hb) (s.onPort_calm p f hl) h

/-- What a character makes of a port whose gap has been looked at and whose arrival time is noted (R163). -/
def State.takeCharacter (s : State) (p : Port) (b : Byte) : State :=
  match (s.port p).receiver.take b with
  | .next r => s.onPort p fun q => { q with receiver := r }
  | .drop => s.onPort p PortState.dropPartial
  | .frame kind tag payload => (s.onPort p fun q => { q with receiver := .hunt }).deliver p kind tag payload

/-- A character above the gap discards a partial frame first (R163). -/
theorem State.receive_eq (b : Byte) (hrun : s.running = true) :
    s.receive p b =
      ((if Config.characterGap < elapsed (s.port p).lastChar s.clock then s.onPort p PortState.dropPartial else s).onPort p
        fun q => { q with lastChar := s.clock }).takeCharacter p b := by
  unfold State.receive
  rw [if_neg (by simp [hrun])]
  rfl

theorem State.takeCharacter_does (b : Byte) : s.Does g (s.takeCharacter p b) := by
  unfold State.takeCharacter
  split
  · exact s.onPort_does p _ id id
  · exact s.dropPartial_does p
  · exact .afterReceiver (p := p) (fun q => { q with receiver := .hunt }) id id (State.deliver_does _ p _ _ _)

theorem State.receive_does (b : Byte) : s.Does g (s.receive p b) := by
  cases hrun : s.running with
  | false => rw [State.receive, if_pos hrun]; exact .refl g s
  | true =>
    rw [s.receive_eq p b hrun]
    have taken (t : State) : t.Does g ((t.onPort p fun q => { q with lastChar := s.clock }).takeCharacter p b) :=
      .afterReceiver (p := p) _ id id (State.takeCharacter_does _ p b)
    split
    · exact .afterReceiver PortState.dropPartial (fun h => h.dropPartial) (fun h => h.dropPartial) (taken _)
    · exact taken s

end Operations
end Sys2Proof.Machine
end

section
/-!
PROOF. What each command leads to: a chain that ends at rest, the entry to START, the START checks, a write of the book or its
acceptance (R13, R17, R18, R37, R112, R175).
-/
namespace Sys2Proof.Machine

/-- The command completes a clearance TRIAL. -/
def completesClearance : Instr → Bool
  | .clearanceTrialComplete => true
  | _ => false

/-- The command enters START, with the port whose BOOK-WRITE it cuts (R13). -/
def entersStart : Instr → Option Port → Prop
  | .powerOn, cut => cut = none
  | .resetAssert c, cut => cut = c
  | .powerLoss c, cut => cut = c
  | _, _ => False

/-- The state after a command is reached in one of these ways. -/
inductive Leads (c : Instr) (s t : State) : Prop
  | effect (n : Nat) (hn : n ≤ 1 ∨ ∃ p chars, c = .frameDeliver p chars ∧ n ≤ chars.length)
      (h : s.Effect (completesClearance c) n t)
  | start (cut : Option Port) (hc : entersStart c cut) (h : ∃ supply resetHeld checks,
      t = State.enterStart { s with supply := supply, resetHeld := resetHeld } cut checks)
  | checks (high : Bool) (hc : c = .startChecksComplete high) (hp : s.part = .start) (h : t = (s.startChecks high).settle)
  | write (p : Port) (sect entry : Nat) (record : List Byte) (vs : List Val) (hc : c = .bookWrite p sect entry record)
      (hp : s.part = .commission) (h : t = (s.writeBook sect entry vs).done p [])
  | accept (p : Port) (hc : c = .bookAccept p)
      (h : t = (s.acceptBook.enterService.answer p .bookValid [.u32 s.book.word.toNat]).settle)

section Leading
variable {c : Instr} {s t u : State}

theorem Leads.does (h : s.Does (completesClearance c) t) : Leads c s t := by
  obtain ⟨n, hn, he⟩ := h
  exact .effect n (.inl hn) he

theorem Leads.refl : Leads c s s := .does (.refl _ s)

/-- The service of a request leads where its block does. -/
theorem Leads.serve {p : Port} {cmd : Instr} {cls : RequestClass} {gate : State → Option Breach} {block : State → State}
    (h : s.Does (completesClearance c) (block s)) : Leads c s (s.serve p cmd cls gate block) := .does (State.serve_does h)

/-- A read answers. -/
theorem Leads.done (p : Port) (body : List Val) : s.Does (completesClearance c) (s.done p body) := s.answer_does _ p _ _

theorem Leads.malformed (p : Port) : s.Does (completesClearance c) (s.malformed p) := s.answer_does _ p _ _

theorem serveMalformed_leads (p : Port) (cmd : Instr) : Leads c s (s.serveMalformed p cmd) := by
  unfold State.serveMalformed
  split
  · exact .refl
  · exact .does (s.answer_does _ p _ _)

/-- A chain of no applied change, answered and settled. -/
theorem State.Moves.replied {g : Bool} (h : s.Moves g 0 t) (p : Port) (body : List Val) : s.Does g (t.done p body).settle :=
  h.answerSettle (Nat.zero_le 1) p _ _

theorem State.MovesOnce.replied {g : Bool} (h : s.MovesOnce g t) (p : Port) (body : List Val) : s.Does g (t.done p body).settle :=
  (h.quiet (t.answer_quiet p _ _)).settles

/-- A change of the condition's mode or confirmation makes both jobs pending. -/
theorem State.Moves.condition {g : Bool} (k : Kept) (h : s.kept.SameTable k) : s.Moves g 0 ((s.setKept k).pendLive.pendPlan) :=
  (State.Moves.refl.fields k h).quiet ((State.pendLive_quiet _).trans (State.pendPlan_quiet _))

/-- A register outside the condition is set: nothing waits for it. -/
theorem State.Does.register {g : Bool} (h : s.Quiet t) (k : s.Calm t) (p : Port) (body : List Val) : s.Does g (t.done p body) :=
  .answer h k p _ body

/-- Several characters, one after the other: each carries at most one applied change. -/
theorem State.receiveAll_effect {g : Bool} (p : Port) (chars : List Byte) (s : State) :
    ∃ n ≤ chars.length, s.Effect g n (chars.foldl (fun t b => t.receive p b) s) := by
  induction chars generalizing s with
  | nil => exact ⟨0, Nat.le_refl 0, .refl g s⟩
  | cons b bs ih =>
    obtain ⟨n, hn, hfirst⟩ := s.receive_does (g := g) p b
    obtain ⟨m, hm, hrest⟩ := ih (s.receive p b)
    exact ⟨n + m, by rw [List.length_cons]; omega, hfirst.trans hrest⟩

/-! ### The requests of the blocks -/

theorem State.serveVote_does {g : Bool} (s : State) (p : Port) (k : CraneNo) (held : Bool) : s.Does g (s.serveVote p k held) :=
  ((State.Moves.refl.castVote p k held).quiet ((State.answer_quiet _ p _ _).trans (State.countAll_quiet _ _))).once.settles

/-- The registers outside the condition that a request can set: acceptance result, capture and Access Fault Record. -/
theorem State.registers_does {g : Bool} (s : State) (a : Acceptance) (k : Capture) (f : Option AccessFault) (p : Port) (st : Status)
    (body : List Val) :
    s.Does g (State.answer { s with vol.acceptance := a, vol.capture := k, vol.accessFault := f } p st body) := by
  refine .after (t := { s with vol.acceptance := a, vol.capture := k, vol.accessFault := f }) ?_ ?_ (State.answer_does _ _ p st body)
  · exact ⟨rfl, rfl, rfl, rfl, rfl, rfl, rfl, rfl, rfl, rfl, id, id⟩
  · exact ⟨rfl, rfl, rfl, rfl, rfl, rfl, id⟩

/-- A request of the book's writing reaches its block in COMMISSION alone (R17). -/
theorem Leads.serveBook {p : Port} {cmd : Instr} {gate : State → Option Breach} {block : State → State}
    (h : s.part = .commission → Leads c s (block s)) : Leads c s (s.serve p cmd .book gate block) := by
  cases hs : s.serves p cmd with
  | false => rw [s.serve_idle p cmd _ _ _ hs]; exact .refl
  | true =>
    cases hp : s.part with
    | start => simp only [State.serve, hs, hp]; exact .refl
    | commission => rw [s.serve_commission p cmd _ _ _ hs hp (by simp)]; exact h hp
    | service => rw [s.serve_notInCommission p cmd _ _ hs hp]; exact .does (s.answer_does _ p _ _)

theorem State.bookAccepted_leads (s : State) (p : Port) : Leads (.bookAccept p) s (s.bookAccepted p) := by
  unfold State.bookAccepted
  split
  · exact .does (s.registers_does _ _ _ p _ _)
  · exact .accept p rfl rfl

end Leading

theorem exec_leads (c : Instr) (s t : State) (h : exec c s = .next t) : Leads c s t := by
  have of {u : State} (hu : exec c s = .next u) (hl : Leads c s u) : Leads c s t := by
    rw [hu] at h; cases h; exact hl
  cases c with
  | powerOn => exact of rfl (.start none rfl ⟨_, _, _, rfl⟩)
  | resetAssert cut => exact of rfl (.start cut rfl ⟨_, _, _, rfl⟩)
  | powerLoss cut => exact of rfl (.start cut rfl ⟨_, _, _, rfl⟩)
  | resetRelease =>
    refine of rfl ?_
    split
    · exact .does (.quiet ⟨rfl, rfl, rfl, rfl, rfl, rfl, rfl, rfl, rfl, rfl, id, id⟩ ⟨rfl, rfl, rfl, rfl, rfl, rfl, id⟩)
    · exact .refl
  | startChecksComplete high =>
    refine of rfl ?_
    split
    · rename_i hs
      exact .checks high rfl (by simpa using (Bool.and_eq_true_iff.1 hs).2) rfl
    · exact .refl
  | frameDeliver p chars =>
    obtain ⟨n, hn, he⟩ := State.receiveAll_effect p chars s
    exact of rfl (.effect n (.inr ⟨p, chars, rfl, hn⟩) he)
  | characterTimeout p =>
    refine of rfl ?_
    split
    · exact .does (s.dropPartial_does p)
    · exact .refl
  | framingError p =>
    refine of rfl ?_
    split
    · exact .does (s.dropPartial_does p)
    · exact .refl
  | unknownRequest p => exact of rfl (serveMalformed_leads p _)
  | bookRead p sect entry =>
    refine of rfl (.serve ?_)
    split
    · exact Leads.done p _
    · exact Leads.malformed p
  | bookStatus p => exact of rfl (.serve (Leads.done p _))
  | bookWrite p sect entry record =>
    refine of rfl (.serveBook fun hp => ?_)
    split
    · exact .does (Leads.malformed p)
    · exact .write p sect entry record _ rfl hp rfl
  | bookAccept p => exact of rfl (.serveBook fun _ => s.bookAccepted_leads p)
  | lotRead p n =>
    refine of rfl (.serve ?_)
    split
    · exact Leads.malformed p
    · split
      · exact Leads.done p _
      · exact s.answer_does _ p _ _
  | spaceRead p n m =>
    refine of rfl (.serve ?_)
    split
    · exact s.answer_does _ p _ _
    · exact Leads.done p _
  | ashoreRead p n => exact of rfl (.serve (Leads.done p _))
  | channelRead p n =>
    refine of rfl (.serve ?_)
    split
    · exact Leads.done p _
    · exact Leads.malformed p
  | tankRead p n =>
    refine of rfl (.serve ?_)
    split
    · exact Leads.done p _
    · exact Leads.malformed p
  | verdictRead p n =>
    refine of rfl (.serve ?_)
    split
    · exact Leads.done p _
    · exact Leads.malformed p
  | captureRead p => exact of rfl (.serve (Leads.done p _))
  | linkRead p n =>
    refine of rfl (.serve ?_)
    split
    · exact Leads.done p _
    · exact Leads.malformed p
  | readJournal p n =>
    refine of rfl (.serve ?_)
    dsimp only
    split
    · exact s.answer_does _ p _ _
    · exact Leads.done p _
  | fixedRead p n =>
    refine of rfl (.serve ?_)
    split
    · exact Leads.done p _
    · exact Leads.malformed p
  | craneRead p n =>
    refine of rfl (.serve ?_)
    split
    · exact Leads.done p _
    · exact Leads.malformed p
  | faultRead p => exact of rfl (.serve (Leads.done p _))
  | portStatus p n =>
    refine of rfl (.serve ?_)
    split
    · exact Leads.malformed p
    · dsimp only
      split
      · exact .register (s.onPort_quiet p _ id) (s.onPort_calm p _ id) p _
      · exact Leads.done p _
  | readTally p n =>
    refine of rfl ?_
    split
    · exact serveMalformed_leads p _
    · exact .serve (Leads.done p _)
  | claim p n =>
    refine of rfl (.serve ?_)
    split
    · exact s.answer_does _ p _ _
    · split
      · exact s.answer_does _ p _ _
      · exact (State.Moves.of_quiet (s.takeLink_quiet p _ _)).replied p _
  | stage p n am =>
    refine of rfl (.serve ?_)
    split
    · exact (State.MovesOnce.of_quiet (s.stageOn_quiet p _ _)).settles
    · exact Leads.malformed p
  | commit p n ov =>
    refine of rfl (.serve ?_)
    split
    · exact Leads.malformed p
    · split
      · exact (s.commitOn_moves p _ _).settles
      · exact Leads.malformed p
  | releaseLink p n =>
    refine of rfl (.serve ?_)
    split
    · exact Leads.malformed p
    · split
      · exact s.answer_does _ p _ _
      · split
        · exact .register (s.setLink_quiet _ _) ⟨rfl, rfl, rfl, rfl, rfl, rfl, id⟩ p _
        · exact s.answer_does _ p _ _
  | fixedSet p n w x z y pr =>
    refine of rfl (.serve ?_)
    split
    · exact (s.setFixed_moves p _ _).replied p _
    · exact Leads.malformed p
  | tankManual p n z =>
    refine of rfl (.serve ?_)
    split
    · exact Leads.malformed p
    · exact ((State.Moves.refl.tank _ _).setSource _ _).replied p _
  | tankDensity p n z =>
    refine of rfl (.serve ?_)
    split
    · exact Leads.malformed p
    · exact (State.Moves.refl.tank _ _).replied p _
  | tankPlan p n z =>
    refine of rfl (.serve ?_)
    split
    · exact Leads.malformed p
    · exact (State.Moves.refl.tank _ _).replied p _
  | channelRestore p n =>
    refine of rfl (.serve ?_)
    split
    · exact Leads.malformed p
    · refine State.Moves.replied ?_ p _
      split
      · exact State.Moves.refl.restoreChannel _
      · exact .refl
  | channelModeChannel p n m =>
    refine of rfl (.serve ?_)
    split
    · exact Leads.malformed p
    · split
      · exact (State.setMode_moves .refl _ _).replied p _
      · exact Leads.malformed p
  | channelModeQueueLevel p n =>
    exact of rfl (.serve ((State.Moves.of_quiet (s.setQueueLevel_quiet n)).replied p _))
  | captureClear p =>
    exact of rfl (.serve (s.registers_does _ _ _ p _ _))
  | captureMode p m =>
    refine of rfl (.serve ?_)
    split
    · exact Leads.malformed p
    · exact s.registers_does _ _ _ p _ _
  | faultClear p =>
    exact of rfl (.serve (s.registers_does _ _ _ p _ _))
  | conditionMode p m =>
    refine of rfl (.serve ?_)
    split
    · exact Leads.malformed p
    · refine State.Moves.replied ?_ p _
      split
      · exact .refl
      · exact State.Moves.condition _ ⟨rfl, rfl, rfl, rfl, rfl, rfl, rfl, fun _ => ⟨rfl, rfl, rfl⟩⟩
  | conditionConfirm p =>
    refine of rfl (.serve (State.Moves.replied ?_ p _))
    split
    · exact State.Moves.condition _ ⟨rfl, rfl, rfl, rfl, rfl, rfl, rfl, fun _ => ⟨rfl, rfl, rfl⟩⟩
    · exact .refl
  | purgeAshore p =>
    refine of rfl (.serve ?_)
    dsimp only
    split
    · exact Leads.done p _
    · have answered (body : List Val) : (s.purgeAll p).Effect (completesClearance (.purgeAshore p)) 0 ((s.purgeAll p).done p body) :=
        (State.Moves.of_quiet (State.answer_quiet _ p _ _)).calm (State.answer_calm _ p _ _)
      exact ⟨1, Nat.le_refl 1, (s.purgeAll_effect p).trans (answered _)⟩
  | tallyControl p n ctl =>
    refine of rfl (.serve ?_)
    split
    · exact .register (s.onTally_quiet _ _) ⟨rfl, rfl, rfl, rfl, rfl, rfl, id⟩ p _
    · exact Leads.malformed p
  | tallySet p n v =>
    refine of rfl (.serve ?_)
    split
    · exact Leads.malformed p
    · exact .register (s.onTally_quiet _ _) ⟨rfl, rfl, rfl, rfl, rfl, rfl, id⟩ p _
  | stopVoteSet p n a =>
    refine of rfl (.serve ?_)
    split
    · split
      · exact s.serveVote_does p _ _
      · exact Leads.malformed p
    · exact Leads.malformed p
  | stopVoteRelease p n =>
    refine of rfl (.serve ?_)
    split
    · exact s.serveVote_does p _ _
    · exact Leads.malformed p
  | clearRequest p n lot d q =>
    refine of rfl (.serve ?_)
    split
    · split
      · exact s.requestClearance_moves p _ _ _ _
      · exact Leads.malformed p
    · exact Leads.malformed p
  | clearCancel p n =>
    refine of rfl (.serve ?_)
    split
    · exact s.cancelClearance_does p _
    · exact Leads.malformed p
  | subscribe p m => exact of rfl (.serve (.register (s.onPort_quiet p _ id) (s.onPort_calm p _ id) p _))
  | portRestart p delivered =>
    cases delivered with
    | none => exact of rfl (.serve (s.restartServed_does p))
    | some tag => exact of rfl (.does (s.deliver_does p _ _ _))
  | readingReport p n v => exact of rfl (.does (s.reportDelivered_does p fun t => t.takeReading_does p _ _))
  | hookOn p n h =>
    exact of rfl (.does (s.reportDelivered_does p fun t => t.takeCraneReport_does p _ _ _ fun k => t.hookOnReport_moves p k _))
  | land p n h =>
    exact of rfl (.does (s.reportDelivered_does p fun t => t.takeCraneReport_does p _ _ _ fun k => t.landReport_moves p k _))
  | landBack p n h =>
    exact of rfl (.does (s.reportDelivered_does p fun t => t.takeCraneReport_does p _ _ _ fun k => t.landBackReport_moves p k _))
  | applyReading =>
    refine of rfl ?_
    split
    · exact .does State.Moves.refl.applyHead.once.settles
    · exact .refl
  | channelStaleExpiry ch =>
    refine of rfl ?_
    split
    · exact .does (State.MovesOnce.of_quiet (s.setStale_quiet ch)).settles
    · exact .refl
  | hookStaleExpiry k =>
    refine of rfl ?_
    split
    · exact .does (State.Moves.refl.addStale k).once.settles
    · exact .refl
  | portSilence p =>
    refine of rfl ?_
    split
    · exact .does (s.goSilent_does p)
    · exact .refl
  | livePassComplete =>
    refine of rfl ?_
    split
    · exact .does (State.MovesOnce.of_quiet (s.completeLive_quiet _)).settles
    all_goals exact .refl
  | planPassComplete =>
    refine of rfl ?_
    split
    · exact .does (State.MovesOnce.of_quiet (s.completePlan_quiet _)).settles
    all_goals exact .refl
  | commitTrialComplete =>
    obtain rfl | ⟨p, snap, role, gr, am, -, -, rfl⟩ := exec_commitTrialComplete_cases s t h
    · exact .refl
    · exact .does ((s.endTrial_quiet p).once (State.decideCommit_moves _ p _ _ _) |>.quiet (State.count_quiet _ _)).settles
  | clearanceTrialComplete =>
    obtain rfl | ⟨p, snap, role, k, n, d, q, -, -, rfl⟩ := exec_clearanceTrialComplete_cases s t h
    · exact .refl
    · exact .does ((s.endTrial_quiet p).once (State.decideClearance_moves _ p _ _ _ _ _).once
        |>.quiet (State.count_quiet _ _)).settles
  | limitEvent =>
    refine of rfl ?_
    split
    · split
      · exact .does (State.Moves.refl.takeVerdict _).once.settles
      · exact .refl
    · exact .refl
  | frameSent p =>
    exact of rfl (.does (s.onPort_does p _ (fun h => PortState.bounded.pump (q := { s.port p with line := none }) h)
      fun _ => PortState.pump_lineInv _))

end Sys2Proof.Machine
end

section
/-!
PROOF. The START checks, and the invariants that every step keeps: the stored condition, the Journal, the Stowage Table, the sums,
the bounded queues, the arbiter; with the book, the generation and the CLEARED cranes over every command (01, 02, 04, 06, 07).
-/
namespace Sys2Proof.Machine

/-! ### What the START checks leave (R13 to R15, R19) -/

section Start
variable (s : State) (high : Bool)

@[simp] theorem State.startChecks_kept : (s.startChecks high).kept = s.keptAfterStart := by
  unfold State.startChecks; dsimp only; split <;> rfl

@[simp] theorem State.startChecks_keptCheck : (s.startChecks high).keptCheck = some s.keptAfterStart.word := by
  unfold State.startChecks; dsimp only; split <;> rfl

@[simp] theorem State.startChecks_book : (s.startChecks high).book = s.book := by
  unfold State.startChecks; dsimp only; split <;> rfl

@[simp] theorem State.startChecks_bookStatus : (s.startChecks high).bookStatus = s.statusNow := by
  unfold State.startChecks; dsimp only; split <;> rfl

@[simp] theorem State.startChecks_pending : (s.startChecks high).pending = s.pending := by
  unfold State.startChecks; dsimp only; split <;> rfl

@[simp] theorem State.startChecks_part :
    (s.startChecks high).part = if s.statusNow = .valid ∧ high = false then .service else .commission := by
  unfold State.startChecks; dsimp only; split <;> rfl

/-- The volatile state but for the sums is that of R15. -/
theorem State.startChecks_vol :
    (s.startChecks high).vol =
      { (s.setKept s.keptAfterStart).clearVolatile.vol with
        live := (s.startChecks high).vol.live, plan := (s.startChecks high).vol.plan } := by
  unfold State.startChecks; dsimp only; split <;> rfl

/-- On a VALID book the sums are built from the condition (R79). -/
theorem State.startChecks_sums (h : s.statusNow = .valid) : (s.startChecks high).sumsExact := by
  unfold State.startChecks
  dsimp only
  split
  · exact ⟨rfl, rfl⟩
  · rename_i hn; exact absurd h hn

theorem State.startChecks_port (p : Port) :
    (s.startChecks high).port p =
      { PortState.blank with
        receiver := (s.port p).receiver, lastChar := (s.port p).lastChar, subscription := s.defaultMask p } := by
  rw [State.port, State.startChecks_vol]
  simp only [State.clearVolatile, Vector.getElem_ofFn]
  rfl

theorem State.startChecks_craneLive (c : CraneNo) :
    (s.startChecks high).craneLive c = s.keptAfterStart.cranes[c.val].liveAfterStart := by
  rw [State.craneLive, State.startChecks_vol]
  simp only [State.clearVolatile, Vector.getElem_map]
  rfl

/-- A crane after START is HALTED from LIFTING where a lot hangs, and IDLE otherwise (R15). -/
theorem CraneState.afterStart_eq (k : CraneState) :
    (∃ h d, k.lift = some (h, d) ∧ k.afterStart = .halted .lifting h d) ∨ (k.lift = none ∧ k.afterStart = .idle) := by
  rcases k with _ | _ | _ | ⟨h, d⟩ | ⟨_ | _, h, d⟩ <;> simp [CraneState.lift, CraneState.afterStart]

theorem CraneState.afterStart_lift (k : CraneState) : k.afterStart.lift = k.lift := by
  rcases k.afterStart_eq with ⟨h, d, hl, e⟩ | ⟨hl, e⟩ <;> rw [e, hl] <;> rfl

theorem CraneState.not_afterStart_clearedFor (k : CraneState) (h : Nat) (d : Direction) : ¬ k.afterStart.clearedFor h d := by
  rcases k.afterStart_eq with ⟨_, _, -, e⟩ | ⟨-, e⟩ <;> rw [e] <;> simp [CraneState.clearedFor]

/-- The retained condition after START is the old one but for the cranes, or the emptied one (R15, R19). -/
theorem State.keptAfterStart_cases :
    (s.keptCheck = some s.kept.word ∧ s.keptAfterStart = { s.kept with cranes := s.kept.cranes.map CraneState.afterStart }) ∨
    (s.keptCheck ≠ some s.kept.word ∧ s.keptAfterStart = Kept.emptied s.book) := by
  unfold State.keptAfterStart
  split
  · rename_i h; exact .inl ⟨h, rfl⟩
  · rename_i h; exact .inr ⟨h, rfl⟩

end Start

/-! ### The emptied condition -/

theorem Kept.emptied_tableInv (b : Book) : (Kept.emptied b).tableInv := by
  have lot (h : Nat) : (Kept.emptied b).lot h = none := rfl
  have list (n : Nat) : (Kept.emptied b).stowList n = [] := by
    rw [Kept.stowList, Kept.emptied, Vector.getElem?_replicate]
    split <;> rfl
  have lift (c : CraneNo) : (Kept.emptied b).cranes[c.val].lift = none := by
    simp [Kept.emptied, CraneState.lift]
  refine ⟨⟨rfl, fun h l hl => by rw [lot] at hl; cases hl⟩, ⟨List.nodup_nil, fun h => ?_⟩, fun n => ?_, fun c h d => ?_⟩
  · rw [lot]; exact iff_of_false List.not_mem_nil (by simp)
  · simp [list, lot]
  · simp [lift, lot]

theorem Kept.emptied_journalInv (b : Book) : (Kept.emptied b).journalInv := rfl

theorem State.keptAfterStart_tableInv (s : State) (h : s.kept.tableInv) : s.keptAfterStart.tableInv := by
  rcases s.keptAfterStart_cases with ⟨-, e⟩ | ⟨-, e⟩ <;> rw [e]
  · refine h.congr rfl rfl rfl fun c => ?_
    simp only [Kept.lift, Vector.getElem_map, CraneState.afterStart_lift]
  · exact Kept.emptied_tableInv _

/-! ### The acceptance of the book (R18, R19, R79) -/

section Accept
variable (s : State) (p : Port) (body : List Val)

theorem State.accepted_sumsExact : s.acceptBook.enterService.sumsExact := ⟨rfl, rfl⟩

theorem State.enterService_port (q : Port) :
    s.enterService.port q = { s.port q with subscription := s.defaultMask q } := by
  simp [State.enterService, State.port]

end Accept

/-! ### A step -/

theorem step_cases {s t : State} (h : step s = .next t) :
    (s.pending = [] ∧ t = s.tick) ∨ ∃ c rest, s.pending = c :: rest ∧ exec c { s with pending := rest } = .next t := by
  unfold step at h
  split at h
  · rename_i hp; cases h; exact .inl ⟨hp, rfl⟩
  · rename_i c rest hp; exact .inr ⟨c, rest, hp, h⟩

/-- What a tick keeps and every command keeps, whatever waits behind it, every step keeps. -/
theorem step_keeps {inv : State → Prop} (queue : ∀ (s : State) (rest : List Instr), inv s → inv { s with pending := rest })
    (clock : ∀ (s : State) (n : Clock), inv s → inv { s with clock := n })
    (command : ∀ (c : Instr) (s t : State), Leads c s t → inv s → inv t) (s t : State) (hs : inv s) (h : step s = .next t) :
    inv t := by
  rcases step_cases h with ⟨-, rfl⟩ | ⟨c, rest, -, h⟩
  · unfold State.tick
    split
    · exact clock s _ hs
    · exact hs
  · exact command c _ t (exec_leads c _ t h) (queue s rest hs)

/-! ### The invariants (R19, R21, R52, R74, R112, R140, R163, R175) -/

section Invariants
variable {c : Instr} {s t : State}

theorem Leads.stored (h : Leads c s t) (hs : s.stored) : t.stored := by
  cases h with
  | effect n hn h => exact h.moves.stored hs
  | start cut hc h => obtain ⟨_, _, _, rfl⟩ := h; exact fun hp => absurd rfl hp
  | checks high hc hp h =>
    subst h
    refine (State.Moves.of_quiet (g := false) (State.settle_quiet _)).stored fun _ => ?_
    rw [State.startChecks_keptCheck, State.startChecks_kept]
  | write p sect entry record vs hc hp h => subst h; exact hs
  | accept p hc h =>
    subst h
    exact (State.Moves.of_quiet (g := false) ((State.answer_quiet _ _ _ _).trans (State.settle_quiet _))).stored fun _ => rfl

/-- A chain of applied changes keeps the Journal the last 64 generations. -/
theorem Kept.journalInv_range {k k' : Kept} (n : Nat) (hk : k.journalInv) (hgen : k'.generation = k.generation + n)
    (hj : k'.generations = newest (k.generations ++ List.range' (k.generation + 1) n)) : k'.journalInv := by
  unfold Kept.journalInv at hk ⊢
  change k'.generations = _
  have hg : k.generations = _ := hk
  rw [hj, hg, hgen]
  generalize k.generation = m
  unfold newest
  have last : List.range' (m + 1) n = List.range' (m + 1 - min m 64 + min m 64) n := by congr 1; omega
  rw [last, List.range'_append_1, List.drop_range', List.length_range']
  congr 1 <;> omega

theorem State.Moves.journalInv {g : Bool} {n : Nat} (h : s.Moves g n t) (hs : s.kept.journalInv) : t.kept.journalInv := by
  obtain ⟨hgen, hsame, hnew⟩ := h.journal
  by_cases hn : n = 0
  · unfold Kept.journalInv
    rw [hsame hn, hgen, hn]
    exact hs
  · exact Kept.journalInv_range n hs hgen (hnew hn)

theorem Leads.journalInv (h : Leads c s t) (hs : s.kept.journalInv) : t.kept.journalInv := by
  cases h with
  | effect n hn h => exact h.moves.journalInv hs
  | start cut hc h => obtain ⟨_, _, _, rfl⟩ := h; rw [State.enterStart_kept]; exact hs
  | checks high hc hp h =>
    subst h
    rw [State.settle_kept, State.startChecks_kept]
    rcases s.keptAfterStart_cases with ⟨-, e⟩ | ⟨-, e⟩ <;> rw [e]
    · exact hs
    · exact Kept.emptied_journalInv _
  | write p sect entry record vs hc hp h => subst h; exact hs
  | accept p hc h => subst h; rw [State.settle_kept]; exact Kept.emptied_journalInv _

theorem Leads.tableInv (h : Leads c s t) (hs : s.kept.tableInv) : t.kept.tableInv := by
  cases h with
  | effect n hn h => exact h.moves.table hs
  | start cut hc h => obtain ⟨_, _, _, rfl⟩ := h; rw [State.enterStart_kept]; exact hs
  | checks high hc hp h =>
    subst h
    rw [State.settle_kept, State.startChecks_kept]
    exact s.keptAfterStart_tableInv hs
  | write p sect entry record vs hc hp h => subst h; exact hs
  | accept p hc h => subst h; rw [State.settle_kept]; exact Kept.emptied_tableInv _

/-- Exact sums stay exact under a quiet operation. -/
theorem State.Quiet.sumsExact (h : s.Quiet t) (hs : s.kept.tableInv) (hx : s.sumsExact) : t.sumsExact :=
  hx.same hs.1 (by rw [h.kept]; exact hs.1)
    (State.SameFor.of_eq h.book (by rw [h.kept]) (by rw [h.kept]) (by rw [h.kept]) (by rw [h.kept]) h.cranes) h.live h.plan

theorem Leads.sumsInv (h : Leads c s t) (hk : s.kept.tableInv) (hs : s.sumsInv) : t.sumsInv := by
  cases h with
  | effect n hn h => exact h.moves.sums hk hs
  | start cut hc h => obtain ⟨_, _, _, rfl⟩ := h; exact fun _ hp => absurd rfl hp
  | checks high hc hp h =>
    subst h
    intro hvalid _
    rw [State.settle_bookStatus, State.startChecks_bookStatus] at hvalid
    refine (State.settle_quiet _).sumsExact ?_ (s.startChecks_sums high hvalid)
    rw [State.startChecks_kept]
    exact s.keptAfterStart_tableInv hk
  | write p sect entry record vs hc hp h => subst h; exact fun hv _ => by cases hv
  | accept p hc h =>
    subst h
    exact fun _ _ => ((State.answer_quiet _ p _ _).trans (State.settle_quiet _)).sumsExact (Kept.emptied_tableInv _)
      s.accepted_sumsExact

theorem PortState.blank_bounded (r : Receiver) (n : Clock) (m : BitVec 16) :
    PortState.bounded { PortState.blank with receiver := r, lastChar := n, subscription := m } :=
  ⟨Nat.zero_le _, Nat.zero_le _, Nat.zero_le _, Nat.zero_le _⟩

theorem State.enterStart_port (cut : Option Port) (checks : Bool) (p : Port) :
    (s.enterStart cut checks).port p = PortState.blank := by
  rw [State.port, State.enterStart_vol]
  simp [Volatile.blank]

theorem Leads.portsBounded (h : Leads c s t) (hs : s.portsBounded) : t.portsBounded := by
  cases h with
  | effect n hn h => exact h.moves.stays.bounded hs
  | start cut hc h =>
    obtain ⟨_, _, _, rfl⟩ := h
    intro p
    rw [State.enterStart_port]
    exact ⟨Nat.zero_le _, Nat.zero_le _, Nat.zero_le _, Nat.zero_le _⟩
  | checks high hc hp h =>
    subst h
    refine (State.settle_quiet _).bounded fun p => ?_
    rw [State.startChecks_port]
    exact PortState.blank_bounded _ _ _
  | write p sect entry record vs hc hp h => subst h; exact (State.answer_quiet _ _ _ _).bounded hs
  | accept p hc h =>
    subst h
    refine ((State.answer_quiet _ _ _ _).trans (State.settle_quiet _)).bounded fun q => ?_
    rw [State.enterService_port]
    exact hs q

theorem Leads.queueBounded (h : Leads c s t) (hs : s.queueBounded) : t.queueBounded := by
  cases h with
  | effect n hn h => exact h.moves.queueBounded hs
  | start cut hc h =>
    obtain ⟨_, _, _, rfl⟩ := h
    rw [State.queueBounded, State.enterStart_vol]
    exact ⟨Nat.zero_le _, List.nodup_nil⟩
  | checks high hc hp h =>
    subst h
    rw [State.queueBounded, State.settle_queue, State.startChecks_vol]
    exact ⟨Nat.zero_le _, List.nodup_nil⟩
  | write p sect entry record vs hc hp h => subst h; exact hs
  | accept p hc h => subst h; rw [State.queueBounded, State.settle_queue]; exact hs

theorem Leads.linesInv (h : Leads c s t) (hs : s.linesInv) : t.linesInv := by
  cases h with
  | effect n hn h => exact h.lines hs
  | start cut hc h =>
    obtain ⟨_, _, _, rfl⟩ := h
    intro p
    rw [State.enterStart_port]
    exact fun _ => ⟨rfl, rfl⟩
  | checks high hc hp h => subst h; exact State.settle_linesInv _
  | write p sect entry record vs hc hp h => subst h; exact (State.answer_calm _ _ _ _).lines hs
  | accept p hc h => subst h; exact State.settle_linesInv _

/-- An operation that settles from an order of the ports leaves the arbiter at rest. -/
theorem State.settle_evaluatorInv (ho : s.lruOrder) : s.settle.evaluatorInv := ⟨s.settle_quiet.lru ho, s.settle_arbiterBusy ho⟩

theorem Leads.evaluatorInv (h : Leads c s t) (hs : s.evaluatorInv) : t.evaluatorInv := by
  cases h with
  | effect n hn h => exact h.arbiter hs
  | start cut hc h => 
    obtain ⟨_, _, _, rfl⟩ := h
    refine ⟨?_, fun hp => by cases hp⟩
    rw [State.lruOrder, State.enterStart_vol]
    exact .refl _
  | checks high hc hp h =>
    subst h
    refine State.settle_evaluatorInv ?_
    rw [State.lruOrder, State.startChecks_vol]
    exact .refl _
  | write p sect entry record vs hc hp h =>
    subst h
    refine ⟨hs.1, fun hserv => ?_⟩
    change s.part = .service at hserv
    rw [hp] at hserv
    cases hserv
  | accept p hc h => subst h; exact State.settle_evaluatorInv hs.1

theorem Leads.pending (h : Leads c s t) : t.pending = s.pending := by
  cases h with
  | effect n hn h => exact h.moves.stays.pending
  | start cut hc h => obtain ⟨_, _, _, rfl⟩ := h; rw [State.enterStart_pending]
  | checks high hc hp h => subst h; rw [State.settle_pending, State.startChecks_pending]
  | write p sect entry record vs hc hp h => subst h; rfl
  | accept p hc h => subst h; rw [State.settle_pending]; rfl

theorem Leads.cleared (h : Leads c s t) (k : CraneNo) (n : Nat) (d : Direction) (ht : t.craneState k = .cleared n d) :
    (s.craneState k).clearedFor n d ∨ (completesClearance c = true ∧ ∃ d', s.craneState k = .checking n d') := by
  have notEmptied (b : Book) : (Kept.emptied b).cranes[k.val] ≠ .cleared n d := by simp [Kept.emptied]
  cases h with
  | effect m hn h => exact (h.moves.cleared k n d).1 (.inl ht)
  | start cut hc h =>
    obtain ⟨_, _, _, rfl⟩ := h
    rw [State.craneState, State.enterStart_kept] at ht
    exact .inl (.inl ht)
  | checks high hc hp h =>
    subst h
    rw [State.craneState, State.settle_kept, State.startChecks_kept] at ht
    rcases s.keptAfterStart_cases with ⟨-, e⟩ | ⟨-, e⟩ <;> rw [e] at ht
    · rw [Vector.getElem_map] at ht
      exact absurd (.inl ht) (CraneState.not_afterStart_clearedFor _ n d)
    · exact absurd ht (notEmptied _)
  | write p sect entry record vs hc hp h => subst h; exact .inl (.inl ht)
  | accept p hc h =>
    subst h
    rw [State.craneState, State.settle_kept] at ht
    exact absurd ht (notEmptied _)

end Invariants

/-! ### The book and the generation (R1, R17, R37, R139, R140) -/

/-- The book as a start finds it is the old one, or the one that the cut BOOK-WRITE leaves (R17). -/
theorem State.cutWrites_book_cases (s : State) (cut : Option Port) :
    (s.cutWrites cut).book = s.book ∨
    ∃ p sect entry vs, cut = some p ∧ s.writesBook p sect entry vs ∧ (s.cutWrites cut).book = s.book.write sect entry vs := by
  unfold State.cutWrites
  split
  · dsimp only
    split
    · rename_i sect entry vs hw
      obtain ⟨p, hp, hw⟩ := Option.bind_eq_some_iff.1 hw
      exact .inr ⟨p, sect, entry, vs, hp, (s.bookWriteAt_iff p sect entry vs).1 hw, rfl⟩
    · exact .inl rfl
  · exact .inl rfl

/-- Settles O29: every link of a command's chain writes the check word with the condition. -/
theorem conditionStaysStored : Obligations.ConditionStaysStored := by
  unfold Obligations.ConditionStaysStored
  exact step_keeps (fun _ _ h => h) (fun _ _ h => h) fun _ _ _ h => h.stored

/-- Settles O31: every applied change advances the generation and appends its entry. -/
theorem journalKeepsTheLastGenerations : Obligations.JournalKeepsTheLastGenerations := by
  unfold Obligations.JournalKeepsTheLastGenerations
  exact step_keeps (inv := fun s => s.kept.journalInv) (fun _ _ h => h) (fun _ _ h => h) fun _ _ _ h => h.journalInv

/-- Settles O32: every applied change keeps the table in agreement. -/
theorem stowageTableStaysConsistent : Obligations.StowageTableStaysConsistent := by
  unfold Obligations.StowageTableStaysConsistent
  exact step_keeps (inv := fun s => s.kept.tableInv) (fun _ _ h => h) (fun _ _ h => h) fun _ _ _ h => h.tableInv

/-- Settles O33: every change shifts the sums by the contributions of the items it touches. -/
theorem sumsStayExact : Obligations.SumsStayExact := by
  unfold Obligations.SumsStayExact
  intro s t hk hs h
  exact (step_keeps (inv := fun s => s.kept.tableInv ∧ s.sumsInv) (fun _ _ h => h) (fun _ _ h => h)
    (fun _ _ _ h hs => ⟨h.tableInv hs.1, h.sumsInv hs.1 hs.2⟩) s t ⟨hk, hs⟩ h).2

/-- Settles O34: every operation on a port keeps its bounds, and ends with each free line pumped. -/
theorem queuesStayBoundedAndLinesBusy : Obligations.QueuesStayBoundedAndLinesBusy := by
  unfold Obligations.QueuesStayBoundedAndLinesBusy
  exact ⟨step_keeps (fun _ _ h => h) (fun _ _ h => h) fun _ _ _ h => h.portsBounded,
    step_keeps (fun _ _ h => h) (fun _ _ h => h) fun _ _ _ h => h.queueBounded,
    step_keeps (fun _ _ h => h) (fun _ _ h => h) fun _ _ _ h => h.linesInv⟩

/-- Settles O35: an operation that can leave a job waiting ends with the grant. -/
theorem evaluatorOrderAndArbiterHold : Obligations.EvaluatorOrderAndArbiterHold := by
  unfold Obligations.EvaluatorOrderAndArbiterHold
  exact step_keeps (fun _ _ h => h) (fun _ _ h => h) fun _ _ _ h => h.evaluatorInv

theorem exec_next (c : Instr) (s : State) : ∃ t, exec c s = .next t := by
  cases c <;> exact ⟨_, rfl⟩

/-- Settles O2, by the way each command leads. -/
theorem everyCommandRunsAndLeavesTheQueue : Obligations.EveryCommandRunsAndLeavesTheQueue := by
  unfold Obligations.EveryCommandRunsAndLeavesTheQueue
  intro c s
  obtain ⟨t, h⟩ := exec_next c s
  exact ⟨t, h, (exec_leads c s t h).pending⟩

/-- Settles O28: of the ways a command leads, a BOOK-WRITE and the entry to START alone change the book. -/
theorem onlyBookWriteChangesTheBook : Obligations.OnlyBookWriteChangesTheBook := by
  unfold Obligations.OnlyBookWriteChangesTheBook
  intro c s t h
  cases exec_leads c s t h with
  | effect n hn h => exact .inl h.moves.stays.book
  | start cut hc h =>
    obtain ⟨supply, resetHeld, checks, rfl⟩ := h
    rw [State.enterStart_book]
    rcases State.cutWrites_book_cases { s with supply := supply, resetHeld := resetHeld } cut with e | ⟨p, sect, entry, vs, rfl, hw, e⟩
    · exact .inl e
    · refine .inr ⟨hw.1, .inr ⟨p, sect, entry, vs, ?_, hw, e⟩⟩
      cases c <;> simp_all [entersStart]
  | checks high hc hp h => subst h; left; rw [State.settle_book, State.startChecks_book]
  | write p sect entry record vs hc hp h => exact .inr ⟨hp, .inl ⟨p, sect, entry, record, hc⟩⟩
  | accept p hc h => subst h; left; rw [State.settle_book]; rfl

theorem completesClearance_eq {c : Instr} (h : completesClearance c = true) : c = .clearanceTrialComplete := by
  unfold completesClearance at h
  split at h
  · rfl
  · cases h

/-- Settles O58, by the links of a command's chain. -/
theorem cranesAreClearedOnlyByTrial : Obligations.CranesAreClearedOnlyByTrial := by
  unfold Obligations.CranesAreClearedOnlyByTrial
  intro c s t k n d h ht
  rcases (exec_leads c s t h).cleared k n d ht with (hk | hk) | ⟨hc, hk⟩
  · exact .inl hk
  · exact .inr (.inl hk)
  · exact .inr (.inr ⟨completesClearance_eq hc, hk⟩)

/-- The newest generation stands at the end of the Journal. -/
theorem newest_getLast? (l : List Nat) (n : Nat) : (newest (l ++ [n])).getLast? = some n := by
  unfold newest
  rw [List.length_append, List.drop_append_of_le_length (by simp)]
  simp

/-- Settles O30, by the number of applied changes of a command's chain. -/
theorem generationAdvancesByOne : Obligations.GenerationAdvancesByOne := by
  unfold Obligations.GenerationAdvancesByOne
  refine ⟨fun c s t h hc => ?_, fun p chars s t h => ?_⟩
  · cases exec_leads c s t h with
    | effect n hn h =>
      obtain ⟨hgen, -, hnew⟩ := h.moves.journal
      have hn : n = 0 ∨ n = 1 := by
        rcases hn with hn | ⟨p, chars, e, -⟩
        · omega
        · exact absurd e (hc p chars)
      rcases hn with rfl | rfl
      · exact .inl hgen
      · refine .inr (.inl ⟨hgen, ?_⟩)
        have := hnew (by simp)
        rw [Kept.generations, List.range'_one] at this
        rw [← List.getLast?_map, this, newest_getLast?]
    | start cut hc h => obtain ⟨_, _, _, rfl⟩ := h; rw [State.enterStart_kept]; exact .inl rfl
    | checks high hc hp h =>
      subst h
      rw [State.settle_kept, State.startChecks_kept]
      rcases s.keptAfterStart_cases with ⟨-, e⟩ | ⟨-, e⟩ <;> rw [e]
      · exact .inl rfl
      · exact .inr (.inr ⟨rfl, .inl ⟨high, hc⟩⟩)
    | write p sect entry record vs hc hp h => subst h; exact .inl rfl
    | accept p hc h => subst h; rw [State.settle_kept]; exact .inr (.inr ⟨rfl, .inr ⟨p, hc⟩⟩)
  · obtain ⟨n, hn, he⟩ := State.receiveAll_effect (g := false) p chars s
    have : t = chars.foldl (fun t b => t.receive p b) s := (Host.Outcome.next.inj h).symm
    rw [← this] at he
    obtain ⟨hgen, hsame, hnew⟩ := he.moves.journal
    have hlen : t.kept.generation - s.kept.generation = n := by omega
    rw [hlen]
    refine ⟨by omega, by omega, fun hg => hsame (by omega), fun hg => ?_⟩
    have := hnew (by omega)
    exact this

end Sys2Proof.Machine
end

section
/-!
PROOF. The step, the reset state, and the entry to and the end of START (R1, R13 to R15, R17, R19, R125).
-/
namespace Sys2Proof.Machine

/-! ### The step and the reset state -/

/-- Settles O1. -/
theorem stepRunsTheFrontCommandOrTicks : Obligations.StepRunsTheFrontCommandOrTicks := by
  unfold Obligations.StepRunsTheFrontCommandOrTicks
  refine ⟨fun s c rest h => ?_, fun s h hs hr => ?_, fun s h hs => ?_⟩
  · simp only [step, h]
  · simp only [step, h, State.tick, State.running, hs, hr]; rfl
  · simp only [step, h, State.tick]
    rcases hs with hs | hr
    · simp [State.running, hs]
    · simp [State.running, hr]

theorem State.reset_kept : State.reset.kept = Kept.emptied State.reset.book := by
  simp only [State.reset, Kept.emptied, Book.blank, Kept.blank, Vector.map_replicate]
  rfl

theorem Volatile.blank_port (p : Port) : Volatile.blank.ports[p.val] = PortState.blank := by simp [Volatile.blank]

theorem Volatile.blank_crane (c : CraneNo) : Volatile.blank.cranes[c.val] = CraneLive.blank := by simp [Volatile.blank]

theorem Volatile.blank_channel (ch : ChannelNo) : Volatile.blank.channels[ch.val] = ChannelLive.blank := by simp [Volatile.blank]

theorem Volatile.blank_tally (i : Fin 8) : Volatile.blank.tallies[i.val] = Tally.blank := by simp [Volatile.blank]

/-- Settles O3, record by record. -/
theorem resetIsTheEntryToStart : Obligations.ResetIsTheEntryToStart := by
  unfold Obligations.ResetIsTheEntryToStart
  refine ⟨rfl, rfl, rfl, rfl, rfl, rfl, rfl, rfl, rfl, rfl, State.reset_kept, fun g => ?_, rfl, rfl, rfl, rfl, rfl, rfl, fun p => ?_,
    rfl, rfl, rfl, rfl, rfl, rfl, rfl, fun ch => ?_, fun c p => ?_, fun i => ?_, fun p => ?_⟩
  case refine_1 => simp [State.link, State.reset, Volatile.blank]
  case refine_2 => simp [State.trial, State.reset, Volatile.blank]
  case refine_3 => rw [State.channelLive]; exact Volatile.blank_channel ch ▸ ⟨rfl, rfl⟩
  case refine_4 =>
    have live : State.reset.craneLive c = CraneLive.blank := Volatile.blank_crane c
    simp [live, CraneLive.blank]
  case refine_5 =>
    have tally : State.reset.vol.tallies[i.val] = Tally.blank := Volatile.blank_tally i
    rw [tally]; exact ⟨rfl, rfl, rfl⟩
  case refine_6 =>
    have port : State.reset.port p = PortState.blank := Volatile.blank_port p
    rw [port]; exact ⟨rfl, rfl, rfl, rfl, rfl, rfl, rfl⟩

/-- Settles O4: in START the store and the sums are not looked at, and nothing is in flight. -/
theorem resetMeetsEveryInvariant : Obligations.ResetMeetsEveryInvariant := by
  unfold Obligations.ResetMeetsEveryInvariant
  have port (p : Port) : State.reset.port p = PortState.blank := Volatile.blank_port p
  refine ⟨fun h => absurd rfl h, fun p => ?_, ⟨Nat.zero_le _, List.nodup_nil⟩, fun p => ?_, ⟨.refl _, fun h => by cases h⟩, ?_, ?_,
    fun _ h => absurd rfl h⟩
  · rw [port]; exact ⟨Nat.zero_le _, Nat.zero_le _, Nat.zero_le _, Nat.zero_le _⟩
  · rw [port]; exact fun _ => ⟨rfl, rfl⟩
  · rw [State.reset_kept]; exact Kept.emptied_journalInv _
  · rw [State.reset_kept]; exact Kept.emptied_tableInv _

/-! ### Power and reset (R13, R17) -/

/-- A start with no BOOK-WRITE in service finds the book as it stands. -/
theorem State.cutWrites_of_none {s : State} (h : ∀ p sect entry vs, ¬ s.writesBook p sect entry vs) (cut : Option Port) :
    s.cutWrites cut = s := by
  have hno : ¬ ((List.finRange 6).any fun p => (s.bookWriteAt p).isSome) = true := by
    rw [List.any_eq_true]
    rintro ⟨p, -, hp⟩
    obtain ⟨⟨sect, entry, vs⟩, hw⟩ := Option.isSome_iff_exists.1 hp
    exact h p sect entry vs ((s.bookWriteAt_iff p sect entry vs).1 hw)
  rw [State.cutWrites, if_neg hno]

/-- A start with a BOOK-WRITE in service finds the check word erased, and the entry of the port named replaced. -/
theorem State.cutWrites_of_some {s : State} {p : Port} {sect entry : Nat} {vs : List Val} (h : s.writesBook p sect entry vs)
    (cut : Option Port) :
    s.cutWrites cut =
      { s with
        book := match cut.bind s.bookWriteAt with
          | some (sect, entry, vs) => s.book.write sect entry vs
          | none => s.book
        bookCheck := none
        bookStatus := .unchecked } := by
  have hsome : ((List.finRange 6).any fun p => (s.bookWriteAt p).isSome) = true := by
    rw [List.any_eq_true]
    exact ⟨p, List.mem_finRange p, by rw [(s.bookWriteAt_iff p sect entry vs).2 h]; rfl⟩
  rw [State.cutWrites, if_pos hsome] <;> rfl

/-- The book and its check as a start finds them in each of the three cases of a cut. -/
theorem State.cutWrites_eq {s b : State} {cut : Option Port}
    (h : (b = s ∧ ∀ p sect entry vs, ¬ s.writesBook p sect entry vs) ∨
      (b = { s with bookCheck := none, bookStatus := .unchecked } ∧ (∃ p sect entry vs, s.writesBook p sect entry vs) ∧
        ∀ p, cut = some p → ∀ sect entry vs, ¬ s.writesBook p sect entry vs) ∨
      (∃ p sect entry vs, cut = some p ∧ s.writesBook p sect entry vs ∧
        b = { s with book := s.book.write sect entry vs, bookCheck := none, bookStatus := .unchecked })) :
    s.cutWrites cut = b := by
  rcases h with ⟨rfl, hnone⟩ | ⟨rfl, ⟨p, sect, entry, vs, hw⟩, hcut⟩ | ⟨p, sect, entry, vs, rfl, hw, rfl⟩
  · exact State.cutWrites_of_none hnone cut
  · have : cut.bind s.bookWriteAt = none := by
      cases cut with
      | none => rfl
      | some q =>
        refine Option.eq_none_iff_forall_ne_some.2 fun ⟨sect', entry', vs'⟩ hq => ?_
        exact hcut q rfl sect' entry' vs' ((s.bookWriteAt_iff q sect' entry' vs').1 hq)
    rw [State.cutWrites_of_some hw, this]
  · have : (some p).bind s.bookWriteAt = some (sect, entry, vs) := (s.bookWriteAt_iff p sect entry vs).2 hw
    rw [State.cutWrites_of_some hw, this]

/-- The supply and the reset input do not bear on what a BOOK-WRITE in service has done. -/
theorem State.cutWrites_inputs (s : State) (supply resetHeld : Bool) (cut : Option Port) :
    State.cutWrites { s with supply := supply, resetHeld := resetHeld } cut =
      { s.cutWrites cut with supply := supply, resetHeld := resetHeld } := by
  have same : State.bookWriteAt { s with supply := supply, resetHeld := resetHeld } = s.bookWriteAt := rfl
  unfold State.cutWrites
  rw [same]
  split <;> rfl

/-- Settles O5: a cut leaves the book in one of three ways, and the rest is the entry to START. -/
theorem powerAndResetEnterStart : Obligations.PowerAndResetEnterStart := by
  unfold Obligations.PowerAndResetEnterStart
  intro s
  refine ⟨fun cut b hb => ?_, fun h => ?_, fun h => ?_⟩
  · have hcut := State.cutWrites_eq hb
    have hheld : b.resetHeld = s.resetHeld ∧ b.supply = s.supply := by rw [← hcut]; simp
    refine ⟨fun hnone => ?_, ?_, ?_⟩
    · subst hnone
      have entered := State.cutWrites_inputs s true s.resetHeld none
      rw [hcut] at entered
      change Host.Outcome.next (State.enterStart { s with supply := true, resetHeld := s.resetHeld } none (!s.resetHeld)) = _
      rw [State.enterStart, entered, ← hheld.1]
    · have entered := State.cutWrites_inputs s s.supply true cut
      rw [hcut] at entered
      change Host.Outcome.next (State.enterStart { s with supply := s.supply, resetHeld := true } cut false) = _
      rw [State.enterStart, entered, ← hheld.2]
    · have entered := State.cutWrites_inputs s false s.resetHeld cut
      rw [hcut] at entered
      change Host.Outcome.next (State.enterStart { s with supply := false, resetHeld := s.resetHeld } cut false) = _
      rw [State.enterStart, entered, ← hheld.1]
  · change Host.Outcome.next (if s.resetHeld then _ else s) = _
    rw [if_pos h]
  · change Host.Outcome.next (if s.resetHeld then _ else s) = _
    rw [if_neg (by simp [h])]

/-! ### The START checks (R1, R13 to R15, R19, R79, R125) -/

theorem State.statusNow_valid_iff (s : State) : s.statusNow = .valid ↔ s.bookCheck = some s.book.word := by
  unfold State.statusNow
  cases s.bookCheck with
  | none => simp
  | some w => by_cases h : w = s.book.word <;> simp [h]

theorem exec_startChecksComplete {s : State} (high : Bool) (hs : s.supply = true) (hr : s.resetHeld = false)
    (hc : s.checking = true) (hp : s.part = .start) : exec (.startChecksComplete high) s = .next (s.startChecks high).settle := by
  change Host.Outcome.next (if (s.running && s.checking && decide (s.part = .start)) = true then _ else s) = _
  rw [if_pos (by simp [State.running, hs, hr, hc, hp])]

/-- The START checks touch supply, reset input and clock not at all, take the strap as sampled, and are over. -/
theorem State.startChecks_inputs (s : State) (high : Bool) :
    (s.startChecks high).bookCheck = s.bookCheck ∧ (s.startChecks high).strap = high ∧ (s.startChecks high).checking = false ∧
    (s.startChecks high).clock = s.clock ∧ (s.startChecks high).supply = s.supply ∧
    (s.startChecks high).resetHeld = s.resetHeld := by
  unfold State.startChecks
  dsimp only
  split <;> exact ⟨rfl, rfl, rfl, rfl, rfl, rfl⟩

/-- Settles O6. -/
theorem startChecksDecideTheStart : Obligations.StartChecksDecideTheStart := by
  unfold Obligations.StartChecksDecideTheStart
  intro s high hs hr hc hp
  obtain ⟨hcheck, hstrap, hchecking, hclock, hsupply, hheld⟩ := s.startChecks_inputs high
  have crane (c : CraneNo) : (s.startChecks high).settle.craneState c = s.keptAfterStart.cranes[c.val] := by
    simp only [State.craneState, State.settle_kept, State.startChecks_kept]
  refine ⟨_, exec_startChecksComplete high hs hr hc hp, ?_⟩
  simp only [State.settle_book, State.settle_bookCheck, State.settle_strap, State.settle_checking, State.settle_clock,
    State.settle_supply, State.settle_resetHeld, State.settle_pending, State.settle_bookStatus, State.settle_part,
    State.settle_kept, State.settle_keptCheck, crane, State.startChecks_book, State.startChecks_pending,
    State.startChecks_bookStatus, State.startChecks_part, State.startChecks_kept, State.startChecks_keptCheck, hcheck, hstrap,
    hchecking, hclock, hsupply, hheld, hs, hr, true_and, and_true]
  refine ⟨s.statusNow_valid_iff, ?_, ?_, fun hk => ?_, fun hk => ?_⟩
  · split <;> simp_all
  · split <;> simp
  · obtain ⟨-, e⟩ := s.keptAfterStart_cases.resolve_right fun h => h.1 hk
    rw [e]
    refine ⟨rfl, fun c => ?_⟩
    simp only [Vector.getElem_map]
    refine ⟨fun h d hl => ?_, fun hl => ?_⟩
    · change (s.craneState c).afterStart = _
      rcases hl with hl | hl <;> rw [hl] <;> rfl
    · rcases (s.craneState c).afterStart_eq with ⟨_, _, hl', -⟩ | ⟨-, e⟩
      · rw [hl] at hl'; cases hl'
      · exact e
  · obtain ⟨-, e⟩ := s.keptAfterStart_cases.resolve_left fun h => hk h.1
    exact e

/-- A port without replies and notices has nothing to send. -/
theorem PortState.pump_of_nil {q : PortState} (hr : q.replies = []) (hn : q.notices = []) : q.pump = q := by
  rcases q.pump_cases with e | ⟨r, rest, -, hr', -⟩ | ⟨n, rest, -, -, hn', -⟩
  · exact e
  · rw [hr] at hr'; cases hr'
  · rw [hn] at hn'; cases hn'

/-- On entry to SERVICE the pending LIVE job is granted at once; in COMMISSION nothing is granted (R112). -/
theorem State.startChecks_grant (s : State) (high : Bool) :
    (s.startChecks high).grant =
      { s.startChecks high with
        vol.running :=
          if (s.startChecks high).part = .service then
            some { kind := .live, snap := (s.startChecks high).snapshot (s.startChecks high).vol.live (some (s.startChecks high).observe) }
          else none
        vol.livePending := decide ((s.startChecks high).part ≠ .service) } := by
  have hrun : (s.startChecks high).vol.running = none := by rw [State.startChecks_vol]; rfl
  have hlive : (s.startChecks high).vol.livePending = true := by rw [State.startChecks_vol]; rfl
  by_cases hp : (s.startChecks high).part = .service
  · rw [State.grant_livePass _ hp hrun hlive, if_pos hp]
    simp only [hp, ne_eq, not_true_eq_false, decide_false]
  · have hc : (s.startChecks high).choice = none := by rw [State.choice, if_neg fun h => hp h.1]
    rw [State.grant_of_none _ hc, if_neg hp]
    simp only [ne_eq, hp, not_false_eq_true, decide_true]
    rw [← hrun, ← hlive]

/-- Nothing waits for a line at the end of the checks. -/
theorem State.settle_startChecks (s : State) (high : Bool) : (s.startChecks high).settle = (s.startChecks high).grant := by
  have ports : (s.startChecks high).vol.ports.map PortState.pump = (s.startChecks high).vol.ports := by
    refine Vector.ext fun i hi => ?_
    rw [Vector.getElem_map]
    have port : (s.startChecks high).vol.ports[i] = _ := s.startChecks_port high ⟨i, hi⟩
    rw [port]
    exact PortState.pump_of_nil rfl rfl
  rw [State.settle, State.pumpAll, State.grant_ports, ports, ← State.grant_ports]

/-- The volatile state that the checks leave, but for sums, cranes and ports, is that with nothing in flight. -/
theorem State.startChecks_blank (s : State) (high : Bool) :
    (s.startChecks high).vol =
      { Volatile.blank with
        live := (s.startChecks high).vol.live, plan := (s.startChecks high).vol.plan
        cranes := (s.startChecks high).vol.cranes, ports := (s.startChecks high).vol.ports } := by
  rw [State.startChecks_vol]; rfl

/-- Settles O7: the volatile state of the checks, with the grant that follows the entry to SERVICE. -/
theorem startChecksClearTheVolatileState : Obligations.StartChecksClearTheVolatileState := by
  unfold Obligations.StartChecksClearTheVolatileState
  intro s high hs hr hc hp
  refine ⟨_, exec_startChecksComplete high hs hr hc hp, ?_, fun hvalid => ?_, fun c => ?_, fun p => ?_⟩
  · rw [State.settle_startChecks, State.startChecks_grant]
    have blank := s.startChecks_blank high
    generalize s.startChecks high = u at blank
    have granted (run : Option Pass) (pend : Bool) :
        ({ u.vol with running := run, livePending := pend } : Volatile) =
          { Volatile.blank with
            livePending := pend, running := run, live := u.vol.live, plan := u.vol.plan, cranes := u.vol.cranes
            ports := u.vol.ports } := by
      rw [blank]
    exact granted _ _
  · rw [State.settle_bookStatus, State.startChecks_bookStatus] at hvalid
    have built : (s.startChecks high).settle.sumsExact := by
      obtain ⟨hlive, hplan⟩ := s.startChecks_sums high hvalid
      rw [State.settle_startChecks, State.startChecks_grant]
      exact ⟨hlive, hplan⟩
    exact built
  · rw [State.craneLive, State.settle_cranes, State.craneState, State.settle_kept, State.startChecks_kept]
    exact (s.startChecks_craneLive high c).trans (by unfold CraneState.liveAfterStart; split <;> simp_all [CraneLive.blank])
  · rw [State.settle_startChecks, State.port, State.grant_ports]
    exact s.startChecks_port high p

end Sys2Proof.Machine
end

section
/-!
PROOF. The bytes of fields and frames, and what reads them back (R164, R165, R167).
-/
namespace Sys2Proof.Machine

/-! ### Numbers as bytes (R164) -/

theorem bytesOf_length (k n : Nat) : (bytesOf k n).length = k := by
  induction k with
  | zero => rfl
  | succ k ih => rw [bytesOf, List.length_cons, ih]

/-- The bytes of a number spell it, behind what stands before them. -/
theorem foldl_bytesOf (k n acc : Nat) :
    (bytesOf k n).foldl (fun (acc : Nat) (b : Byte) => acc * 256 + b.toNat) acc = acc * 256 ^ k + n % 256 ^ k := by
  induction k generalizing acc with
  | zero => simp [bytesOf, Nat.mod_one]
  | succ k ih =>
    have digit : (BitVec.ofNat 8 (n / 256 ^ k)).toNat = n / 256 ^ k % 256 := BitVec.toNat_ofNat ..
    have split : n % 256 ^ (k + 1) = n % 256 ^ k + 256 ^ k * (n / 256 ^ k % 256) := by rw [Nat.pow_succ, Nat.mod_mul]
    rw [bytesOf, List.foldl_cons, ih, digit, split, Nat.pow_succ, Nat.add_mul, Nat.mul_assoc, Nat.mul_comm 256 (256 ^ k),
      Nat.mul_comm (n / 256 ^ k % 256) (256 ^ k)]
    omega

theorem natOf_bytesOf {k n : Nat} (h : n < 256 ^ k) : natOf (bytesOf k n) = n := by
  rw [natOf, foldl_bytesOf, Nat.zero_mul, Nat.zero_add, Nat.mod_eq_of_lt h]

theorem bytesOf_one (n : Nat) : bytesOf 1 n = [BitVec.ofNat 8 n] := by simp [bytesOf]

theorem bytesOf_two (n : Nat) : bytesOf 2 n = [BitVec.ofNat 8 (n / 256), BitVec.ofNat 8 n] := by simp [bytesOf]

theorem natOf_pair {n : Nat} (h : n < 65536) : natOf [BitVec.ofNat 8 (n / 256), BitVec.ofNat 8 n] = n := by
  rw [← bytesOf_two]
  exact natOf_bytesOf h

theorem encodeVals_cons (v : Val) (vs : List Val) : encodeVals (v :: vs) = encodeVal v ++ encodeVals vs := List.flatMap_cons

theorem encodeVals_append (vs ws : List Val) : encodeVals (vs ++ ws) = encodeVals vs ++ encodeVals ws := List.flatMap_append

theorem bytesOfInt_of_wf {z : Int} (h : fitsInt z = true) : bytesOfInt z = bytesOf 4 (z % 4294967296).toNat := by
  have hz : -2147483648 ≤ z ∧ z < 2147483648 := by simpa [fitsInt] using h
  rw [bytesOfInt, if_pos hz]

/-! ### Readers (R165) -/

/-- The reader reads these bytes as this value and leaves what follows them. -/
def Reads {α : Type} (r : Reader α) (bs : List Byte) (a : α) : Prop := ∀ rest, r (bs ++ rest) = some (a, rest)

section Reading
variable {α β : Type}

theorem Reads.pure (a : α) : Reads (Pure.pure a) [] a := fun _ => rfl

theorem Reads.bind {r : Reader α} {f : α → Reader β} {bs cs : List Byte} {a : α} {b : β} (hr : Reads r bs a)
    (hf : Reads (f a) cs b) : Reads (r >>= f) (bs ++ cs) b := fun rest => by
  have step : (r >>= f) (bs ++ cs ++ rest) = (r (bs ++ (cs ++ rest))).bind fun x => f x.1 x.2 := by
    rw [List.append_assoc]; rfl
  rw [step, hr, Option.bind_some, hf]

/-- A field, then the fields behind it. -/
theorem Reads.field {r : Reader α} {f : α → Reader β} {v : Val} {vs : List Val} {a : α} {b : β} (hr : Reads r (encodeVal v) a)
    (hf : Reads (f a) (encodeVals vs) b) : Reads (r >>= f) (encodeVals (v :: vs)) b := by
  rw [encodeVals_cons]; exact hr.bind hf

/-- The last field of a payload, which its command takes. -/
theorem Reads.last {r : Reader α} {f : α → Reader β} {v : Val} {a : α} {b : β} (hr : Reads r (encodeVal v) a)
    (hf : f a = Pure.pure b) : Reads (r >>= f) (encodeVals [v]) b :=
  hr.field (hf ▸ Reads.pure b)

/-- Several fields read together, then the fields behind them. -/
theorem Reads.fields {r : Reader α} {f : α → Reader β} {vs ws : List Val} {a : α} {b : β} (hr : Reads r (encodeVals vs) a)
    (hf : Reads (f a) (encodeVals ws) b) : Reads (r >>= f) (encodeVals (vs ++ ws)) b := by
  rw [encodeVals_append]; exact hr.bind hf

theorem Reads.all {r : Reader α} {bs : List Byte} {a : α} (h : Reads r bs a) : readAll r bs = some a := by
  have := h []
  rw [List.append_nil] at this
  rw [readAll, this]

theorem reads_takeBytes (bs : List Byte) : Reads (takeBytes bs.length) bs bs := fun rest => by
  simp [takeBytes]

theorem reads_nat {k n : Nat} (h : n < 256 ^ k) : Reads (readNat k) (bytesOf k n) n := by
  have taken := reads_takeBytes (bytesOf k n)
  rw [bytesOf_length] at taken
  have := taken.bind (f := fun bs => (Pure.pure (natOf bs) : Reader Nat)) (Reads.pure _)
  rw [List.append_nil, natOf_bytesOf h] at this
  exact this

theorem reads_u8 {n : Nat} (h : fits8 n = true) : Reads (readNat 1) (encodeVal (.u8 n)) n := reads_nat (of_decide_eq_true h)

theorem reads_u16 {n : Nat} (h : fits16 n = true) : Reads (readNat 2) (encodeVal (.u16 n)) n := reads_nat (of_decide_eq_true h)

theorem reads_u32 {n : Nat} (h : fits32 n = true) : Reads (readNat 4) (encodeVal (.u32 n)) n := reads_nat (of_decide_eq_true h)

theorem reads_u64 {n : Nat} (h : fits64 n = true) : Reads (readNat 8) (encodeVal (.u64 n)) n := reads_nat (of_decide_eq_true h)

theorem signed32_of_wf {z : Int} (h : fitsInt z = true) : signed32 (z % 4294967296).toNat = z := by
  have hz : -2147483648 ≤ z ∧ z < 2147483648 := by simpa [fitsInt] using h
  unfold signed32
  split <;> omega

theorem reads_i32 {z : Int} (h : fitsInt z = true) : Reads readInt (encodeVal (.i32 z)) z := by
  have four : Reads (readNat 4) (bytesOf 4 (z % 4294967296).toNat) (z % 4294967296).toNat := reads_nat (by omega)
  have := four.bind (f := fun n => (Pure.pure (signed32 n) : Reader Int)) (Reads.pure _)
  rw [List.append_nil, signed32_of_wf h] at this
  rw [encodeVal, bytesOfInt_of_wf h]
  exact this

theorem reads_text {bs : List Byte} (h : bs.length < 256) : Reads readText (encodeVal (.text bs)) bs := by
  have count : Reads (readNat 1) [BitVec.ofNat 8 bs.length] bs.length := bytesOf_one _ ▸ reads_nat (by simpa using h)
  exact count.bind (reads_takeBytes bs)

theorem reads_opt_none (r : Reader α) : Reads (readOpt r) (encodeVals (optVals none)) none :=
  (reads_u8 (n := 0) rfl).last rfl

theorem reads_opt_some {r : Reader α} {v : Val} {a : α} (h : Reads r (encodeVal v) a) :
    Reads (readOpt r) (encodeVals (optVals (some [v]))) (some a) :=
  (reads_u8 (n := 1) rfl).field (h.last rfl)

end Reading

/-! ### The frames of requests and reports (Table 9-5) -/

theorem commandOf_of_reads {p : Port} {kind : Byte} {payload : List Byte} {c : Instr} (h : Reads (readRequest p kind) payload c) :
    commandOf p kind payload = c := by
  rw [commandOf, h.all]; rfl

theorem encodeVals_length (vs : List Val) : (encodeVals vs).length = widthVals vs := by
  induction vs with
  | nil => rfl
  | cons v vs ih =>
    have width : (encodeVal v).length = widthVal v := by
      cases v with
      | u8 n => exact bytesOf_length 1 n
      | u16 n => exact bytesOf_length 2 n
      | u32 n => exact bytesOf_length 4 n
      | u64 n => exact bytesOf_length 8 n
      | i32 z => simp only [encodeVal, bytesOfInt, widthVal]; split <;> exact bytesOf_length 4 _
      | text bs => simp [encodeVal, widthVal, Nat.add_comm]
    rw [encodeVals_cons, List.length_append, width, ih]
    rfl

theorem reads_position {q : Position} (h : q.wf = true) : Reads readPosition (encodeVals (positionVals q)) q := by
  simp only [Position.wf, Bool.and_eq_true] at h
  obtain ⟨⟨⟨ha, hf⟩, hvcg⟩, htcg⟩ := h
  exact (reads_i32 ha).field ((reads_i32 hf).field ((reads_i32 hvcg).field ((reads_i32 htcg).last rfl)))

theorem reads_hazard {o : Option Nat} (h : hazardWf o = true) :
    Reads (readOpt (readNat 1)) (encodeVals (optVals (o.map fun n => [.u8 n]))) o := by
  cases o with
  | none => exact reads_opt_none _
  | some n => exact reads_opt_some (reads_u8 h)

theorem reads_fill {o : Option Int} (h : fillWf o = true) :
    Reads (readOpt readInt) (encodeVals (optVals (o.map fun z => [.i32 z]))) o := by
  cases o with
  | none => exact reads_opt_none _
  | some z => exact reads_opt_some (reads_i32 h)

/-- What reads the last of several fields, where nothing stands behind it. -/
theorem Reads.lastFields {α β : Type} {r : Reader α} {f : α → Reader β} {vs : List Val} {a : α} {b : β}
    (hr : Reads r (encodeVals vs) a) (hf : f a = Pure.pure b) : Reads (r >>= f) (encodeVals vs) b := by
  have := hr.fields (f := f) (ws := []) (hf ▸ Reads.pure b)
  rwa [List.append_nil] at this

theorem reads_amendment {am : Amendment} (h : am.wf = true) : Reads readAmendment (encodeVals (amendmentVals am)) am := by
  cases am with
  | planLoad mark weight n q hazard =>
    simp only [Amendment.wf, Bool.and_eq_true, decide_eq_true_eq] at h
    obtain ⟨⟨⟨⟨hmark, hweight⟩, hspace⟩, hpos⟩, hhazard⟩ := h
    exact (reads_u8 (n := 0) rfl).field ((reads_text (by omega)).field ((reads_i32 hweight).field ((reads_u8 hspace).field
      ((reads_position hpos).fields ((reads_hazard hhazard).lastFields rfl)))))
  | planShift g n q =>
    simp only [Amendment.wf, Bool.and_eq_true] at h
    obtain ⟨⟨hg, hn⟩, hq⟩ := h
    exact (reads_u8 (n := 1) rfl).field ((reads_u16 hg).field ((reads_u8 hn).field ((reads_position hq).lastFields rfl)))
  | planCancel g => exact (reads_u8 (n := 2) rfl).field ((reads_u16 h).last rfl)
  | markDischarge g => exact (reads_u8 (n := 3) rfl).field ((reads_u16 h).last rfl)
  | unmark g => exact (reads_u8 (n := 4) rfl).field ((reads_u16 h).last rfl)
  | directStow g => exact (reads_u8 (n := 5) rfl).field ((reads_u16 h).last rfl)
  | restow g n q =>
    simp only [Amendment.wf, Bool.and_eq_true] at h
    obtain ⟨⟨hg, hn⟩, hq⟩ := h
    exact (reads_u8 (n := 6) rfl).field ((reads_u16 hg).field ((reads_u8 hn).field ((reads_position hq).lastFields rfl)))
  | directRemove g => exact (reads_u8 (n := 7) rfl).field ((reads_u16 h).last rfl)
  | correctWeight g w =>
    simp only [Amendment.wf, Bool.and_eq_true] at h
    obtain ⟨hg, hw⟩ := h
    exact (reads_u8 (n := 8) rfl).field ((reads_u16 hg).field ((reads_i32 hw).last rfl))

/-- An amendment takes at most 249 bytes behind its hold group. -/
theorem amendmentVals_width {am : Amendment} (h : am.wf = true) : widthVals (amendmentVals am) ≤ 249 := by
  cases am with
  | planLoad mark weight n q hazard =>
    simp only [Amendment.wf, Bool.and_eq_true, decide_eq_true_eq] at h
    cases hazard <;> simp [amendmentVals, positionVals, widthVals, widthVal, optVals] <;> omega
  | _ => simp [amendmentVals, positionVals, widthVals, widthVal]

end Sys2Proof.Machine
end

section
/-!
PROOF. Every well-formed request and report frame reads back as its command (R164, R165, R167; log entry 8).
-/
namespace Sys2Proof.Machine

/-- The frame of a request that a payload is read back from. -/
def framesAs (p : Port) (c : Instr) (frame : Option (Byte × List Byte)) : Prop :=
  ∀ kind payload, frame = some (kind, payload) →
    payload.length ≤ 250 ∧ isReportKind kind = false ∧ commandOf p kind payload = c

theorem framesAs_none (p : Port) (c : Instr) : framesAs p c none := fun _ _ h => by cases h

/-- A request whose payload its kind's reader reads. -/
theorem framesAs_of_reads {p : Port} {c : Instr} {kind : Byte} {payload : List Byte} (hlen : payload.length ≤ 250)
    (hkind : isReportKind kind = false) (h : Reads (readRequest p kind) payload c) : framesAs p c (some (kind, payload)) := by
  intro k b e
  cases e
  exact ⟨hlen, hkind, commandOf_of_reads h⟩

/-- A request whose payload is a sequence of fields. -/
theorem framesAs_fields {p : Port} {c : Instr} {kind : Byte} {vs : List Val} (hlen : widthVals vs ≤ 250)
    (hkind : isReportKind kind = false) (h : Reads (readRequest p kind) (encodeVals vs) c) :
    framesAs p c (some (kind, encodeVals vs)) :=
  framesAs_of_reads (encodeVals_length vs ▸ hlen) hkind h

/-- A request without payload. -/
theorem framesAs_empty {p : Port} {c : Instr} {kind : Byte} (hkind : isReportKind kind = false)
    (h : readRequest p kind = readNone c) : framesAs p c (some (kind, [])) :=
  framesAs_of_reads (Nat.zero_le _) hkind (h ▸ Reads.pure c)

section Shapes
variable {p : Port} {kind : Byte} (hkind : isReportKind kind = false)
include hkind

/-- A request with one field of one byte. -/
theorem framesAs_u8 {c : Nat → Instr} {n : Nat} (h : readRequest p kind = readOne 1 c) (hn : fits8 n = true) :
    framesAs p (c n) (some (kind, encodeVals [.u8 n])) :=
  framesAs_fields (by simp [widthVals, widthVal]) hkind (h ▸ (reads_u8 hn).last rfl)

/-- A request with one field of two bytes. -/
theorem framesAs_u16 {c : Nat → Instr} {n : Nat} (h : readRequest p kind = readOne 2 c) (hn : fits16 n = true) :
    framesAs p (c n) (some (kind, encodeVals [.u16 n])) :=
  framesAs_fields (by simp [widthVals, widthVal]) hkind (h ▸ (reads_u16 hn).last rfl)

/-- A request with a byte and a field of two bytes. -/
theorem framesAs_u8_u16 {c : Nat → Nat → Instr} {n m : Nat} (h : readRequest p kind = readTwo 1 2 c)
    (hn : (fits8 n && fits16 m) = true) : framesAs p (c n m) (some (kind, encodeVals [.u8 n, .u16 m])) := by
  obtain ⟨hn, hm⟩ := Bool.and_eq_true_iff.1 hn
  exact framesAs_fields (by simp [widthVals, widthVal]) hkind (h ▸ (reads_u8 hn).field ((reads_u16 hm).last rfl))

/-- A request with a byte and a signed number. -/
theorem framesAs_u8_i32 {c : Nat → Int → Instr} {n : Nat} {z : Int} (h : readRequest p kind = readByteInt c)
    (hn : (fits8 n && fitsInt z) = true) : framesAs p (c n z) (some (kind, encodeVals [.u8 n, .i32 z])) := by
  obtain ⟨hn, hz⟩ := Bool.and_eq_true_iff.1 hn
  exact framesAs_fields (by simp [widthVals, widthVal]) hkind (h ▸ (reads_u8 hn).field ((reads_i32 hz).last rfl))

end Shapes

/-- The record of a BOOK-WRITE is read whole behind section and entry (log entry 8). -/
theorem framesAs_bookWrite (p : Port) {sect entry : Nat} {record : List Byte} (hsect : fits8 sect = true)
    (hentry : fits16 entry = true) (hlen : record.length ≤ 247) (hfits : recordFits sect entry record = true) :
    framesAs p (.bookWrite p sect entry record) (some (0x03, encodeVals [.u8 sect, .u16 entry] ++ record)) := by
  intro k b e
  cases e
  refine ⟨?_, rfl, ?_⟩
  · rw [List.length_append, encodeVals_length]
    simp [widthVals, widthVal]
    omega
  · have read : readBookWrite p (encodeVals [.u8 sect, .u16 entry] ++ record) = some (.bookWrite p sect entry record, []) := by
      have first := reads_u8 hsect (encodeVal (.u16 entry) ++ record)
      have second := reads_u16 hentry record
      have bytes : encodeVals [.u8 sect, .u16 entry] ++ record = encodeVal (.u8 sect) ++ (encodeVal (.u16 entry) ++ record) := by
        simp [encodeVals]
      simp only [bytes, readBookWrite, bind, StateT.bind, first, second, readRest, Option.bind_some, hfits, if_true]
      rfl
    have whole : readAll (readRequest p 0x03) (encodeVals [.u8 sect, .u16 entry] ++ record) = some (.bookWrite p sect entry record) := by
      change readAll (readBookWrite p) _ = _
      rw [readAll, read]
    rw [commandOf, whole]
    rfl

theorem request_framesAs (c : Instr) (p : Port) (hwf : c.wf = true) (hp : c.port = some p) : framesAs p c (encodeRequest c) := by
  cases c with
  | bookRead q sect entry => cases hp; exact framesAs_u8_u16 rfl rfl hwf
  | bookStatus q => cases hp; exact framesAs_empty rfl rfl
  | bookWrite q sect entry record =>
    cases hp
    simp only [Instr.wf, Bool.and_eq_true, decide_eq_true_eq] at hwf
    obtain ⟨⟨⟨hsect, hentry⟩, hlen⟩, hfits⟩ := hwf
    exact framesAs_bookWrite p hsect hentry hlen hfits
  | bookAccept q => cases hp; exact framesAs_empty rfl rfl
  | lotRead q n => cases hp; exact framesAs_u16 rfl rfl hwf
  | spaceRead q n m => cases hp; exact framesAs_u8_u16 rfl rfl hwf
  | ashoreRead q n => cases hp; exact framesAs_u16 rfl rfl hwf
  | channelRead q n => cases hp; exact framesAs_u8 rfl rfl hwf
  | tankRead q n => cases hp; exact framesAs_u8 rfl rfl hwf
  | verdictRead q n => cases hp; exact framesAs_u8 rfl rfl hwf
  | captureRead q => cases hp; exact framesAs_empty rfl rfl
  | linkRead q n => cases hp; exact framesAs_u8 rfl rfl hwf
  | readJournal q n => cases hp; exact framesAs_fields (by simp [widthVals, widthVal]) rfl ((reads_u64 hwf).last rfl)
  | fixedRead q n => cases hp; exact framesAs_u8 rfl rfl hwf
  | craneRead q n => cases hp; exact framesAs_u8 rfl rfl hwf
  | faultRead q => cases hp; exact framesAs_empty rfl rfl
  | portStatus q n => cases hp; exact framesAs_u8 rfl rfl hwf
  | readTally q n => cases hp; exact framesAs_u8 rfl rfl hwf
  | claim q n => cases hp; exact framesAs_u8 rfl rfl hwf
  | stage q n am =>
    cases hp
    simp only [Instr.wf, Bool.and_eq_true] at hwf
    obtain ⟨hn, ham⟩ := hwf
    have width := amendmentVals_width ham
    exact framesAs_fields (by rw [widthVals, List.map_cons, List.sum_cons]; exact Nat.add_le_add_left width 1) rfl
      ((reads_u8 hn).field ((reads_amendment ham).lastFields rfl))
  | commit q n ov =>
    cases hp
    obtain ⟨hn, hov⟩ := Bool.and_eq_true_iff.1 hwf
    exact framesAs_fields (by simp [widthVals, widthVal]) rfl ((reads_u8 hn).field ((reads_u8 hov).last rfl))
  | releaseLink q n => cases hp; exact framesAs_u8 rfl rfl hwf
  | fixedSet q n w x z y pr =>
    cases hp
    simp only [Instr.wf, Bool.and_eq_true] at hwf
    obtain ⟨⟨⟨⟨⟨hn, hw⟩, hx⟩, hz⟩, hy⟩, hpr⟩ := hwf
    exact framesAs_fields (by simp [widthVals, widthVal]) rfl ((reads_u8 hn).field ((reads_i32 hw).field ((reads_i32 hx).field
      ((reads_i32 hz).field ((reads_i32 hy).field ((reads_u8 hpr).last rfl))))))
  | tankManual q n z => cases hp; exact framesAs_u8_i32 rfl rfl hwf
  | tankDensity q n z => cases hp; exact framesAs_u8_i32 rfl rfl hwf
  | tankPlan q n fill =>
    cases hp
    obtain ⟨hn, hfill⟩ := Bool.and_eq_true_iff.1 hwf
    exact framesAs_fields (by cases fill <;> simp [widthVals, widthVal, optVals]) rfl
      ((reads_u8 hn).field ((reads_fill hfill).lastFields rfl))
  | channelRestore q n => cases hp; exact framesAs_u8 rfl rfl hwf
  | channelModeChannel q n m =>
    cases hp
    obtain ⟨hn, hm⟩ := Bool.and_eq_true_iff.1 hwf
    exact framesAs_fields (by simp [widthVals, widthVal]) rfl
      ((reads_u8 (n := 0) rfl).field ((reads_u8 hn).field ((reads_u8 hm).last rfl)))
  | channelModeQueueLevel q n =>
    cases hp
    exact framesAs_fields (by simp [widthVals, widthVal]) rfl ((reads_u8 (n := 1) rfl).field ((reads_u8 hwf).last rfl))
  | captureClear q => cases hp; exact framesAs_empty rfl rfl
  | captureMode q n => cases hp; exact framesAs_u8 rfl rfl hwf
  | faultClear q => cases hp; exact framesAs_empty rfl rfl
  | conditionMode q n => cases hp; exact framesAs_u8 rfl rfl hwf
  | conditionConfirm q => cases hp; exact framesAs_empty rfl rfl
  | purgeAshore q => cases hp; exact framesAs_empty rfl rfl
  | tallyControl q n ctl =>
    cases hp
    simp only [Instr.wf, ControlFields.wf, Bool.and_eq_true] at hwf
    obtain ⟨hn, ⟨⟨⟨⟨⟨hcls, hsub⟩, hroles⟩, hgroups⟩, hinhibit⟩, hnotice⟩, hreadable⟩ := hwf
    exact framesAs_fields (by simp [widthVals, widthVal]) rfl ((reads_u8 hn).field ((reads_u8 hcls).field ((reads_u8 hsub).field
      ((reads_u8 hroles).field ((reads_u8 hgroups).field ((reads_u8 hinhibit).field ((reads_u8 hnotice).field
        ((reads_u8 hreadable).last rfl))))))))
  | tallySet q n v =>
    cases hp
    obtain ⟨hn, hv⟩ := Bool.and_eq_true_iff.1 hwf
    exact framesAs_fields (by simp [widthVals, widthVal]) rfl ((reads_u8 hn).field ((reads_u32 hv).last rfl))
  | stopVoteSet q n a =>
    cases hp
    simp only [Instr.wf, Bool.and_eq_true, decide_eq_true_eq] at hwf
    obtain ⟨⟨hn, ha⟩, hset⟩ := hwf
    exact framesAs_fields (by simp [widthVals, widthVal]) rfl ((reads_u8 hn).field ((reads_u8 ha).last (if_neg hset)))
  | stopVoteRelease q n =>
    cases hp
    exact framesAs_fields (by simp [widthVals, widthVal]) rfl ((reads_u8 hwf).field ((reads_u8 (n := 1) rfl).last rfl))
  | clearRequest q n lot d w =>
    cases hp
    simp only [Instr.wf, Point.wf, Bool.and_eq_true] at hwf
    obtain ⟨⟨⟨hn, hlot⟩, hd⟩, ⟨hx, hz⟩, hy⟩ := hwf
    exact framesAs_fields (by simp [widthVals, widthVal, pointVals]) rfl ((reads_u8 hn).field ((reads_u16 hlot).field
      ((reads_u8 hd).field ((reads_i32 hx).field ((reads_i32 hz).field ((reads_i32 hy).last rfl))))))
  | clearCancel q n => cases hp; exact framesAs_u8 rfl rfl hwf
  | subscribe q n => cases hp; exact framesAs_u16 rfl rfl hwf
  | portRestart q delivered =>
    cases hp
    cases delivered with
    | none => exact framesAs_empty rfl rfl
    | some tag => exact framesAs_none _ _
  | _ => exact framesAs_none _ _

/-- The frame of a report that a payload is read back from. -/
def reportsAs (p : Port) (c : Instr) (frame : Option (Byte × List Byte)) : Prop :=
  ∀ kind payload, frame = some (kind, payload) →
    payload.length ≤ 250 ∧ isReportKind kind = true ∧ reportOf p kind payload = some c

theorem reportsAs_fields {p : Port} {c : Instr} {kind : Byte} {vs : List Val} (hlen : widthVals vs ≤ 250)
    (hkind : isReportKind kind = true) (h : Reads (readReport p kind) (encodeVals vs) c) :
    reportsAs p c (some (kind, encodeVals vs)) := by
  intro k b e
  cases e
  exact ⟨encodeVals_length vs ▸ hlen, hkind, h.all⟩

/-- A crane event report: the crane and the lot. -/
theorem reportsAs_crane {p : Port} {kind : Byte} {c : Nat → Nat → Instr} {n m : Nat} (hkind : isReportKind kind = true)
    (h : readReport p kind = readTwo 1 2 c) (hn : (fits8 n && fits16 m) = true) :
    reportsAs p (c n m) (some (kind, encodeVals [.u8 n, .u16 m])) := by
  obtain ⟨hn, hm⟩ := Bool.and_eq_true_iff.1 hn
  exact reportsAs_fields (by simp [widthVals, widthVal]) hkind (h ▸ (reads_u8 hn).field ((reads_u16 hm).last rfl))

/-- The form of a reading follows its channel (Table 9-2). -/
theorem reportsAs_reading (p : Port) {n : Nat} {v : ReadingValue} (hn : fits8 n = true) (hv : v.wf n = true) :
    reportsAs p (.readingReport p n v) (encodeReport (.readingReport p n v)) := by
  cases v with
  | level z =>
    simp only [ReadingValue.wf, Bool.and_eq_true, decide_eq_true_eq] at hv
    obtain ⟨hlevel, hz⟩ := hv
    refine reportsAs_fields (by simp [widthVals, widthVal]) rfl ((reads_u8 hn).field ?_)
    rw [if_pos hlevel]
    exact (reads_i32 hz).last rfl
  | hook load x y z =>
    simp only [ReadingValue.wf, Bool.and_eq_true, decide_eq_true_eq] at hv
    obtain ⟨⟨⟨⟨hhook, hload⟩, hx⟩, hy⟩, hz⟩ := hv
    refine reportsAs_fields (by simp [widthVals, widthVal]) rfl ((reads_u8 hn).field ?_)
    rw [if_neg (by omega)]
    exact (reads_u32 hload).field ((reads_i32 hx).field ((reads_i32 hy).field ((reads_i32 hz).last rfl)))

theorem report_reportsAs (c : Instr) (p : Port) (hwf : c.wf = true) (hp : c.port = some p) : reportsAs p c (encodeReport c) := by
  cases c with
  | readingReport q n v =>
    cases hp
    obtain ⟨hn, hv⟩ := Bool.and_eq_true_iff.1 hwf
    exact reportsAs_reading p hn hv
  | hookOn q n m => cases hp; exact reportsAs_crane rfl rfl hwf
  | land q n m => cases hp; exact reportsAs_crane rfl rfl hwf
  | landBack q n m => cases hp; exact reportsAs_crane rfl rfl hwf
  | _ => exact fun _ _ h => by cases h

/-- Settles O11, shape by shape of the payloads. -/
theorem requestAndReportFramesReadBack : Obligations.RequestAndReportFramesReadBack := by
  unfold Obligations.RequestAndReportFramesReadBack
  exact fun c p hwf hp => ⟨request_framesAs c p hwf hp, report_reportsAs c p hwf hp⟩

end Sys2Proof.Machine
end

section
/-!
PROOF. The receiver over the characters of a frame, whole or broken (R163, R164).
-/
namespace Sys2Proof.Machine

/-! ### Changes of one port -/

/-- Two changes of a port, one after the other. -/
theorem State.onPort_onPort (s : State) (p : Port) (f g : PortState → PortState) :
    (s.onPort p f).onPort p g = s.onPort p fun q => g (f q) := by
  simp [State.onPort, updAt]

/-- A change of a port looks at that port's record alone. -/
theorem State.onPort_congr {s : State} {p : Port} {f g : PortState → PortState} (h : f (s.port p) = g (s.port p)) :
    s.onPort p f = s.onPort p g := by
  unfold State.onPort updAt
  change f s.vol.ports[p.val] = g s.vol.ports[p.val] at h
  rw [h]

theorem State.onPort_same {s : State} {p : Port} {f : PortState → PortState} (h : f (s.port p) = s.port p) : s.onPort p f = s := by
  have : s.onPort p f = s.onPort p id := State.onPort_congr h
  rw [this]
  simp [State.onPort, updAt]

@[simp] theorem State.onPort_port_self (s : State) (p : Port) (f : PortState → PortState) : (s.onPort p f).port p = f (s.port p) := by
  rw [State.onPort_port, if_pos rfl]

theorem State.onPort_port_other (s : State) {p q : Port} (f : PortState → PortState) (h : q ≠ p) : (s.onPort p f).port q = s.port q := by
  rw [State.onPort_port, if_neg h]

/-! ### A receiver part-way through a frame (R163) -/

/-- The port with its receiver in a state, the last character arrived now. -/
def State.receiving (s : State) (p : Port) (r : Receiver) : State :=
  s.onPort p fun q => { q with receiver := r, lastChar := s.clock }

theorem elapsed_self (c : Clock) : elapsed c c = 0 := by simp [elapsed]

section Characters
variable {s : State} {p : Port} (hrun : s.running = true)
include hrun

/-- The first character of a frame meets a receiver that hunts, whatever gap came before it. -/
theorem State.receive_first (hhunt : (s.port p).receiver = .hunt) : s.receive p 0x7E#8 = s.receiving p (.length none) := by
  have gap : (if Config.characterGap < elapsed (s.port p).lastChar s.clock then s.onPort p PortState.dropPartial else s) = s := by
    split
    · exact State.onPort_same (by rw [PortState.dropPartial, hhunt]; rfl)
    · rfl
  rw [s.receive_eq p _ hrun, gap, State.takeCharacter, State.onPort_port_self]
  simp only [hhunt, Receiver.take]
  rw [State.onPort_onPort]
  rfl

/-- A further character of a frame meets the receiver as it stands. -/
theorem State.receiving_receive (r : Receiver) (b : Byte) :
    (s.receiving p r).receive p b = (s.receiving p r).takeCharacter p b := by
  have nogap : ¬ Config.characterGap < elapsed ((s.receiving p r).port p).lastChar (s.receiving p r).clock := by
    rw [State.receiving, State.onPort_port_self]
    change ¬ _ < elapsed s.clock s.clock
    rw [elapsed_self]
    exact Nat.not_lt_zero _
  rw [State.receive_eq (s.receiving p r) p b hrun, if_neg nogap]
  congr 1
  rw [State.receiving, State.onPort_onPort]
  rfl

theorem State.receiving_next {r r' : Receiver} {b : Byte} (h : r.take b = .next r') :
    (s.receiving p r).receive p b = s.receiving p r' := by
  rw [State.receiving_receive hrun, State.takeCharacter, State.receiving, State.onPort_port_self]
  simp only [h]
  rw [State.onPort_onPort]
  rfl

theorem State.receiving_drop {r : Receiver} {b : Byte} (hhunt : (s.port p).receiver = .hunt) (hr : r.partway = true)
    (h : r.take b = .drop) :
    (s.receiving p r).receive p b =
      s.onPort p fun q => { q with lastChar := s.clock, discards := min (q.discards + 1) 65535 } := by
  rw [State.receiving_receive hrun, State.takeCharacter, State.receiving, State.onPort_port_self]
  simp only [h]
  rw [State.onPort_onPort]
  refine State.onPort_congr ?_
  simp only [PortState.dropPartial, hr, if_true, PortState.discard, Config.discardMax, ← hhunt]

theorem State.receiving_frame {r : Receiver} {b kind tag : Byte} {payload : List Byte} (hhunt : (s.port p).receiver = .hunt)
    (h : r.take b = .frame kind tag payload) :
    (s.receiving p r).receive p b = (s.onPort p fun q => { q with lastChar := s.clock }).deliver p kind tag payload := by
  rw [State.receiving_receive hrun, State.takeCharacter, State.receiving, State.onPort_port_self]
  simp only [h]
  rw [State.onPort_onPort]
  congr 1
  exact State.onPort_congr (by simp only [← hhunt])

/-- The characters of a frame's body are taken one by one. -/
theorem State.receiving_body (n : Nat) (got rest : List Byte) (hlen : got.length + rest.length = n) (hrest : rest ≠ []) :
    rest.foldl (fun t b => t.receive p b) (s.receiving p (.body n got)) = s.receiving p (.crc (got ++ rest) none) := by
  induction rest generalizing got with
  | nil => exact absurd rfl hrest
  | cons b bs ih =>
    rw [List.foldl_cons]
    rw [List.length_cons] at hlen
    cases bs with
    | nil =>
      have last : (Receiver.body n got).take b = .next (.crc (got ++ [b]) none) := by
        rw [List.length_nil] at hlen
        simp only [Receiver.take, if_pos (show n ≤ got.length + 1 by omega)]
      rw [State.receiving_next hrun last]
      rfl
    | cons c cs =>
      have more : (Receiver.body n got).take b = .next (.body n (got ++ [b])) := by
        rw [List.length_cons] at hlen
        simp only [Receiver.take, if_neg (show ¬ n ≤ got.length + 1 by omega)]
      rw [State.receiving_next hrun more, ih (got ++ [b]) (by rw [List.length_append, List.length_singleton]; omega) (by simp)]
      rw [List.append_assoc]
      rfl

/-- The start character, a length within 2 to 252 and as many characters lead to the CRC. -/
theorem State.receive_inner (hhunt : (s.port p).receiver = .hunt) (inner : List Byte) (hlow : 2 ≤ inner.length)
    (hhigh : inner.length ≤ 252) :
    (0x7E#8 :: (bytesOf 2 inner.length ++ inner)).foldl (fun t b => t.receive p b) s = s.receiving p (.crc inner none) := by
  have first : (Receiver.length none).take (BitVec.ofNat 8 (inner.length / 256)) =
      .next (.length (some (BitVec.ofNat 8 (inner.length / 256)))) := rfl
  have second : (Receiver.length (some (BitVec.ofNat 8 (inner.length / 256)))).take (BitVec.ofNat 8 inner.length) =
      .next (.body inner.length []) := by
    simp only [Receiver.take, natOf_pair (show inner.length < 65536 by omega), if_pos (And.intro hlow hhigh)]
  rw [List.foldl_cons, List.foldl_append, State.receive_first hrun hhunt, bytesOf_two]
  simp only [List.foldl_cons, List.foldl_nil]
  rw [State.receiving_next hrun first, State.receiving_next hrun second,
    State.receiving_body hrun inner.length [] inner (by simp) (by rintro rfl; simp at hlow)]
  rfl

/-- Behind its characters a frame ends with the two of a check word. -/
theorem State.receive_checked (hhunt : (s.port p).receiver = .hunt) (inner : List Byte) (hlow : 2 ≤ inner.length)
    (hhigh : inner.length ≤ 252) (w : Nat) :
    ((0x7E#8 :: (bytesOf 2 inner.length ++ inner)) ++ bytesOf 2 w).foldl (fun t b => t.receive p b) s =
      (s.receiving p (.crc inner (some (BitVec.ofNat 8 (w / 256))))).receive p (BitVec.ofNat 8 w) := by
  rw [List.foldl_append, State.receive_inner hrun hhunt inner hlow hhigh, bytesOf_two]
  simp only [List.foldl_cons, List.foldl_nil]
  rw [State.receiving_next hrun (show (Receiver.crc inner none).take _ = .next _ from rfl)]

end Characters

/-- The inner part of a frame: kind, tag and payload. -/
theorem inner_length (kind tag : Byte) (payload : List Byte) : (kind :: tag :: payload).length = 2 + payload.length := by
  simp; omega

/-- Settles O8: each character moves the receiver on, and the last delivers the frame. -/
theorem wholeFrameIsDelivered : Obligations.WholeFrameIsDelivered := by
  unfold Obligations.WholeFrameIsDelivered
  intro s p kind tag payload hrun hhunt hlen
  have inner := inner_length kind tag payload
  have good : (Receiver.crc (kind :: tag :: payload) (some (BitVec.ofNat 8 ((innerCrc (kind :: tag :: payload)).toNat / 256)))).take
      (BitVec.ofNat 8 (innerCrc (kind :: tag :: payload)).toNat) = .frame kind tag payload := by
    simp only [Receiver.take, natOf_pair (innerCrc (kind :: tag :: payload)).isLt, if_true]
  have bytes : frameBytes kind tag payload =
      (0x7E#8 :: (bytesOf 2 (kind :: tag :: payload).length ++ (kind :: tag :: payload))) ++
        bytesOf 2 (innerCrc (kind :: tag :: payload)).toNat := by
    rw [frameBytes, innerCrc, inner]
  change Host.Outcome.next (List.foldl _ s _) = _
  rw [bytes, State.receive_checked hrun hhunt _ (by omega) (by omega), State.receiving_frame hrun hhunt good]

/-- Settles O9: the last character of each broken frame drops it. -/
theorem brokenFramesAreDroppedAndCounted : Obligations.BrokenFramesAreDroppedAndCounted := by
  unfold Obligations.BrokenFramesAreDroppedAndCounted
  refine ⟨fun s p kind tag payload w hrun hhunt hlen hw hne => ?_, fun s p hrun hpart => ?_, fun s p hhunt => ?_,
    fun s p n hrun hhunt hn hout => ?_⟩
  case refine_1 =>
    have inner := inner_length kind tag payload
    have bad : (Receiver.crc (kind :: tag :: payload) (some (BitVec.ofNat 8 (w / 256)))).take (BitVec.ofNat 8 w) = .drop := by
      have wrong : w ≠ (innerCrc (kind :: tag :: payload)).toNat := by rw [innerCrc, inner]; exact hne
      simp only [Receiver.take, natOf_pair hw, if_neg wrong]
    change Host.Outcome.next (List.foldl _ s _) = _
    rw [← inner, State.receive_checked hrun hhunt _ (by omega) (by omega), State.receiving_drop hrun hhunt rfl bad]
  case refine_2 =>
    have partway : (s.port p).receiver.partway = true := by
      revert hpart
      cases (s.port p).receiver <;> simp [Receiver.partway]
    have dropped : s.onPort p PortState.dropPartial =
        s.onPort p fun q => { q with receiver := .hunt, discards := min (q.discards + 1) 65535 } :=
      State.onPort_congr (by rw [PortState.dropPartial, if_pos partway]; rfl)
    refine ⟨?_, fun hgap => ?_⟩
    · change Host.Outcome.next (if s.running then _ else s) = _
      rw [if_pos hrun, dropped]
    · change Host.Outcome.next (if s.characterLate p then _ else s) = _
      rw [if_pos (by simp [State.characterLate, hrun, partway, Config.characterGap, hgap]), dropped]
  case refine_3 =>
    refine ⟨?_, ?_⟩
    · have same : s.onPort p PortState.dropPartial = s := State.onPort_same (by rw [PortState.dropPartial, hhunt]; rfl)
      change Host.Outcome.next (if s.running then s.onPort p PortState.dropPartial else s) = _
      rw [same, ite_self]
    · change Host.Outcome.next (if s.characterLate p then _ else s) = _
      rw [if_neg (by simp [State.characterLate, hhunt, Receiver.partway])]
  case refine_4 =>
    have first : (Receiver.length none).take (BitVec.ofNat 8 (n / 256)) = .next (.length (some (BitVec.ofNat 8 (n / 256)))) := rfl
    have bad : (Receiver.length (some (BitVec.ofNat 8 (n / 256)))).take (BitVec.ofNat 8 n) = .drop := by
      simp only [Receiver.take, natOf_pair hn, if_neg (show ¬ (2 ≤ n ∧ n ≤ 252) by omega)]
    change Host.Outcome.next (List.foldl _ s _) = _
    rw [bytesOf_two]
    simp only [List.foldl_cons, List.foldl_nil]
    rw [State.receive_first hrun hhunt, State.receiving_next hrun first, State.receiving_drop hrun hhunt rfl bad]

end Sys2Proof.Machine
end

section
/-!
PROOF. The station ports: requests and replies, notices, lines, silence and restart (R163 to R175).
-/
namespace Sys2Proof.Machine

/-! ### Requests at delivery (R13, R166, R171) -/

section Delivery
variable {s : State} {p : Port} {kind tag : Byte} {payload : List Byte}

theorem State.deliver_start (h : s.part = .start) : s.deliver p kind tag payload = s := by
  simp only [State.deliver, h]

/-- A request delivered outside START that is not a PORT-RESTART in SERVICE goes to the queue. -/
theorem State.deliver_request (hk : isReportKind kind = false)
    (hp : s.part = .commission ∨ (s.part = .service ∧ ¬ (kind = 0x29 ∧ payload = []))) :
    s.deliver p kind tag payload =
      s.onPort p fun q =>
        PortState.enqueue { q with silent := false, lastHeard := s.clock }
          { kind := kind, tag := tag, payload := payload, orphaned := false } := by
  have heard : (s.hear p).requestDelivered p kind tag payload =
      (s.hear p).onPort p fun q => q.enqueue { kind := kind, tag := tag, payload := payload, orphaned := false } := by
    unfold State.requestDelivered
    refine if_neg fun h => ?_
    obtain ⟨hs, hrestart⟩ := h
    change s.part = .service at hs
    rcases hp with hp | ⟨-, hp⟩
    · rw [hp] at hs; cases hs
    · exact hp hrestart
  have delivered : s.deliver p kind tag payload = (s.hear p).requestDelivered p kind tag payload := by
    rcases hp with hp | ⟨hp, -⟩ <;> simp only [State.deliver, hp, hk, Bool.false_eq_true, if_false]
  rw [delivered, heard, State.hear, State.onPort_onPort]

end Delivery

/-- Settles O10: the queue below four, BUSY at four, and the discard where eight replies wait too. -/
theorem deliveredRequestsQueueOrAreBusy : Obligations.DeliveredRequestsQueueOrAreBusy := by
  unfold Obligations.DeliveredRequestsQueueOrAreBusy
  refine ⟨fun s p kind tag payload h => State.deliver_start h, fun s p kind tag payload hk hp => ?_⟩
  rw [State.deliver_request hk hp]
  refine ⟨fun hlt => State.onPort_congr ?_, fun hfull hroom => State.onPort_congr ?_, fun hfull hno => State.onPort_congr ?_⟩
  · exact if_pos hlt
  · have busy : ¬ (s.port p).requests.length < Config.requestCapacity := by simp only [Config.requestCapacity]; omega
    refine (if_neg busy).trans (congrArg PortState.pump ?_)
    exact if_pos hroom
  · have busy : ¬ (s.port p).requests.length < Config.requestCapacity := by simp only [Config.requestCapacity]; omega
    refine (if_neg busy).trans (congrArg PortState.pump ?_)
    exact if_neg (by simp only [Config.replyCapacity]; omega)

/-! ### Replies (R165, R167) -/

/-- The reply to an orphaned request is discarded. -/
theorem PortState.answer_orphaned {q : PortState} {r : Request} {rest : List Request} (h : q.requests = r :: rest)
    (ho : r.orphaned = true) (st : Status) (body : List Val) : q.answer st body = { q with requests := rest } := by
  simp only [PortState.answer, h, ho, if_true]

/-- Any other reply is placed, and the line begins what waits. -/
theorem PortState.answer_placed {q : PortState} {r : Request} {rest : List Request} (h : q.requests = r :: rest)
    (ho : r.orphaned = false) (st : Status) (body : List Val) :
    q.answer st body = (PortState.pushReply { q with requests := rest } (r.replyWith st body)).pump := by
  simp only [PortState.answer, h, ho, Bool.false_eq_true, if_false]

theorem PortState.pushReply_room {q : PortState} (h : q.replies.length < 8) (r : Reply) :
    q.pushReply r = { q with replies := q.replies ++ [r] } := if_pos h

theorem PortState.pushReply_full {q : PortState} (h : 8 ≤ q.replies.length) (r : Reply) :
    q.pushReply r = { q with discards := min (q.discards + 1) 65535 } := if_neg (by simp only [Config.replyCapacity]; omega)

theorem replyKind_toNat {kind : Byte} (h : kind.toNat < 0x80) : (replyKind kind).toNat = kind.toNat + 0x80 := by
  rw [replyKind, if_pos h, BitVec.toNat_add]
  have : (0x80 : Byte).toNat = 0x80 := rfl
  omega

/-- Settles O14. -/
theorem answerEndsTheService : Obligations.AnswerEndsTheService := by
  unfold Obligations.AnswerEndsTheService
  intro s p st body r rest hr
  have own : (s.answer p st body).port p = (s.port p).answer st body := State.onPort_port_self ..
  refine ⟨fun ho => ?_, fun ho hroom => ?_, fun ho hfull => ?_, replyKind_toNat, fun q hq => State.onPort_port_other s _ hq, rfl⟩
  · rw [own, PortState.answer_orphaned hr ho]
  · rw [own, PortState.answer_placed hr ho, PortState.pushReply_room (q := { s.port p with requests := rest }) hroom]; rfl
  · rw [own, PortState.answer_placed hr ho, PortState.pushReply_full (q := { s.port p with requests := rest }) hfull]

/-! ### Notices (R171, R173) -/

theorem NoticeKind.replaces_iff (k : NoticeKind) :
    k.replaces = true ↔ k = .verdict ∨ k = .planVerdict ∨ k = .permit ∨ k = .channel := by
  cases k <;> simp [NoticeKind.replaces]

theorem Notice.sameSubject_iff (n m : Notice) : n.sameSubject m = true ↔ m.kind = n.kind ∧ m.subject = n.subject := by
  simp only [Notice.sameSubject, Bool.and_eq_true, decide_eq_true_eq]
  exact ⟨fun ⟨h, k⟩ => ⟨h.symm, k.symm⟩, fun ⟨h, k⟩ => ⟨h.symm, k.symm⟩⟩

section Notices
variable {q : PortState} {n : Notice}

theorem PortState.pushNotice_unheard (h : q.silent = true ∨ q.subscription.getLsbD (noticeBit n.kind) = false) :
    q.pushNotice n = q := by
  rw [PortState.pushNotice, if_pos (by rcases h with h | h <;> simp [h])]

variable (hs : q.silent = false) (hsub : q.subscription.getLsbD (noticeBit n.kind) = true)
include hs hsub

theorem PortState.pushNotice_replaces (hk : n.kind.replaces = true) (h : ∃ m ∈ q.notices, n.sameSubject m = true) :
    q.pushNotice n = { q with notices := q.notices.map fun m => if n.sameSubject m then n else m } := by
  rw [PortState.pushNotice, if_neg (by simp [hs, hsub]), if_pos (by simpa [hk] using h)]

theorem PortState.pushNotice_joins (h : n.kind.replaces = false ∨ ∀ m ∈ q.notices, n.sameSubject m = false) :
    q.pushNotice n =
      if q.notices.length < 16 then { q with notices := q.notices ++ [n] } else { q with dropped := true } := by
  have fresh : ¬ (n.kind.replaces && q.notices.any n.sameSubject) = true := by
    rcases h with h | h
    · simp [h]
    · simp only [Bool.and_eq_true, List.any_eq_true, not_and, not_exists]
      intro _ m hm hc
      rw [h m hm] at hc
      cases hc
  rw [PortState.pushNotice, if_neg (by simp [hs, hsub]), if_neg fresh]
  rfl

end Notices

theorem State.issue_port {s : State} (h : s.part = .service) (kind : NoticeKind) (subject : Nat) (body : List Val) (p : Port) :
    (s.issue kind subject body).port p = (s.port p).pushNotice (s.notice kind subject body) := by
  simp only [State.issue, State.port, h, if_true, notifyAll, Vector.getElem_map]

theorem State.issue_outside {s : State} (h : s.part ≠ .service) (kind : NoticeKind) (subject : Nat) (body : List Val) :
    s.issue kind subject body = s := by
  simp only [State.issue, if_neg h]

/-- Settles O15: the cases of a notice at a port, and the ports it comes to. -/
theorem noticesReplaceAppendOrDrop : Obligations.NoticesReplaceAppendOrDrop := by
  unfold Obligations.NoticesReplaceAppendOrDrop
  refine ⟨fun q n => ⟨PortState.pushNotice_unheard, fun hs hsub => ?_⟩, fun s kind subject body => ?_, fun s o kind subject body => ?_⟩
  · intro same once
    have same_iff (m : Notice) : n.sameSubject m = true ↔ same m := n.sameSubject_iff m
    have fresh (h : ¬ once ∨ ∀ m ∈ q.notices, ¬ same m) :
        n.kind.replaces = false ∨ ∀ m ∈ q.notices, n.sameSubject m = false := by
      rcases h with h | h
      · exact .inl (Bool.eq_false_iff.2 fun hk => h (n.kind.replaces_iff.1 hk))
      · exact .inr fun m hm => Bool.eq_false_iff.2 fun hc => h m hm ((same_iff m).1 hc)
    refine ⟨fun honce hold => ?_, fun h hroom => ?_, fun h hfull => ?_⟩
    · obtain ⟨m, hm, hsame⟩ := hold
      refine ⟨_, PortState.pushNotice_replaces hs hsub (n.kind.replaces_iff.2 honce) ⟨m, hm, (same_iff m).2 hsame⟩,
        List.length_map _, fun i m hi => ?_⟩
      rw [List.getElem?_map, hi, Option.map_some]
      exact ⟨fun h => by rw [if_pos ((same_iff m).2 h)], fun h => by rw [if_neg fun hc => h ((same_iff m).1 hc)]⟩
    · rw [PortState.pushNotice_joins hs hsub (fresh h), if_pos hroom]
    · rw [PortState.pushNotice_joins hs hsub (fresh h), if_neg (by omega)]
  · exact ⟨fun hp p => State.issue_port hp kind subject body p, fun hp => State.issue_outside hp kind subject body, rfl⟩
  · refine ⟨fun hp p => ?_, fun hp => ?_, rfl⟩
    · rw [s.issueTo_eq, if_pos hp, State.onPort_port]
      split
      · rename_i h; subst h; rfl
      · rfl
    · rw [s.issueTo_eq, if_neg hp]

/-! ### Lines (R164, R165, R175) -/

theorem PortState.pump_reply {q : PortState} {r : Reply} {rest : List Reply} (hl : q.line = none) (hr : q.replies = r :: rest) :
    q.pump = { q with line := some (.reply r), replies := rest } := by
  simp only [PortState.pump, hl, hr]

theorem PortState.pump_notice {q : PortState} {n : Notice} {rest : List Notice} (hl : q.line = none) (hr : q.replies = [])
    (hn : q.notices = n :: rest) : q.pump = { q with line := some (.notice n), notices := rest } := by
  simp only [PortState.pump, hl, hr, hn]

theorem PortState.pump_busy {q : PortState} (hl : q.line ≠ none) : q.pump = q := by
  obtain ⟨f, hf⟩ := Option.ne_none_iff_exists'.1 hl
  simp only [PortState.pump, hf]

/-- The bytes of fields: one field's after the other's. -/
theorem encodeVals_eq_flatten (vs : List Val) : encodeVals vs = (vs.map encodeVal).flatten := List.flatMap_def ..

theorem encodeVal_i32_nonneg {z : Int} (h : 0 ≤ z) (h' : z < 2147483648) : encodeVal (.i32 z) = bytesOf 4 z.toNat := by
  have : z % 4294967296 = z := Int.emod_eq_of_lt h (by omega)
  rw [encodeVal, bytesOfInt, if_pos ⟨by omega, h'⟩, this]

theorem encodeVal_i32_neg {z : Int} (h : -2147483648 ≤ z) (h' : z < 0) : encodeVal (.i32 z) = bytesOf 4 (z + 4294967296).toNat := by
  have : z % 4294967296 = z + 4294967296 := by omega
  rw [encodeVal, bytesOfInt, if_pos ⟨h, by omega⟩, this]

/-- The characters of a line are those of the frame it sends. -/
theorem State.lineBytes_eq {s : State} {p : Port} {f : OutFrame} (h : (s.port p).line = some f) : s.lineBytes p = f.bytes := by
  simp only [State.lineBytes, h]

/-- Settles O16. -/
theorem linesSendRepliesFirst : Obligations.LinesSendRepliesFirst := by
  unfold Obligations.LinesSendRepliesFirst
  refine ⟨fun s p => ⟨fun r rest hr => ?_, fun n rest hr hn => ?_, fun hr hn => ?_, fun t q => ?_⟩, fun s p => ⟨fun h => ?_,
    fun r h => ?_, fun n h => ?_⟩, encodeVals_eq_flatten, fun n => ⟨rfl, rfl, rfl, rfl⟩, fun text => rfl, fun k n h => ?_,
    fun z => ⟨encodeVal_i32_nonneg, encodeVal_i32_neg⟩⟩
  · exact congrArg Host.Outcome.next (State.onPort_congr (PortState.pump_reply rfl hr))
  · exact congrArg Host.Outcome.next (State.onPort_congr (PortState.pump_notice rfl hr hn))
  · exact congrArg Host.Outcome.next (State.onPort_congr (PortState.pump_of_nil hr hn))
  · refine ⟨State.pumpAll_port t q, ?_, fun r rest => PortState.pump_reply, fun n rest => PortState.pump_notice⟩
    rintro (h | ⟨hr, hn⟩)
    · exact PortState.pump_busy h
    · exact PortState.pump_of_nil hr hn
  · simp only [State.lineBytes, h]
  · rw [State.lineBytes_eq h, OutFrame.bytes, Reply.bytes, encodeVals_cons, encodeVal, bytesOf_one]; rfl
  · rw [State.lineBytes_eq h, OutFrame.bytes, Notice.bytes, encodeVals_cons, encodeVals_cons, encodeVal, encodeVal, bytesOf_one]
    rfl
  · exact ⟨bytesOf_length k n, natOf_bytesOf h⟩

/-! ### Silence and restart (R137, R171, R172) -/

/-- The links that a test breaks are invalid; the others stand. -/
theorem State.breakLinks_link (s : State) (test : Link → Bool) (g : Group) :
    (s.breakLinks test).link g = (s.link g).filter fun l => !test l := by
  simp only [State.link, State.breakLinks_links, Vector.getElem_map]
  cases s.vol.links[g.val] with
  | none => rfl
  | some l => cases h : test l <;> simp [Option.filter, h]

theorem State.breakOwned_link (s : State) (p : Port) (g : Group) :
    (s.breakOwned p).link g = (s.link g).filter fun l => l.owner ≠ p := by
  rw [State.breakOwned, State.breakLinks_link]
  simp

theorem PortState.shed_eq (q : PortState) :
    q.shed = { q with requests := (q.requests.take 1).map fun r => { r with orphaned := true }, replies := [], notices := [] } := by
  rw [← q.shed_requests]; rfl

/-- Settles O17. -/
theorem silenceShedsThePort : Obligations.SilenceShedsThePort := by
  unfold Obligations.SilenceShedsThePort
  intro s p
  have due (hp : s.part ≠ .start) (hs : (s.port p).silent = false) (h : 5000 ≤ elapsed (s.port p).lastHeard s.clock) :
      exec (.portSilence p) s = .next (s.goSilent p) := by
    change Host.Outcome.next (if s.silenceDue p then _ else s) = _
    rw [if_pos (by simp [State.silenceDue, hp, hs, Config.silence, h])]
  refine ⟨fun hp hs h => ?_, fun hp hs h => ?_, fun h => ?_⟩
  · refine ⟨_, due (by simp [hp]) hs h, ?_⟩
    have shed : s.goSilent p = (s.breakOwned p).onPort p fun q => { q.shed with silent := true } := by
      simp only [State.goSilent, hp]
    rw [shed]
    refine ⟨rfl, fun g => s.breakOwned_link p g, ?_, fun q hq => State.onPort_port_other _ _ hq⟩
    rw [State.onPort_port_self, PortState.shed_eq]
    rfl
  · rw [due (by simp [hp]) hs h]
    simp only [State.goSilent, hp]
  · change Host.Outcome.next (if s.silenceDue p then _ else s) = _
    rw [if_neg]
    rcases h with h | h | h
    · simp [State.silenceDue, h]
    · have early : decide (Config.silence ≤ elapsed (s.port p).lastHeard s.clock) = false := decide_eq_false (Nat.not_le.2 h)
      simp [State.silenceDue, early]
    · simp [State.silenceDue, h]

theorem State.anyRole_eq_none {s : State} {p : Port} (h : s.role p ∈ usedRoles) (v : RefValue) : s.anyRole v p = none := by
  unfold State.anyRole
  revert h
  cases s.role p <;> simp [usedRoles]

theorem State.anyRole_eq_some {s : State} {p : Port} (h : s.role p ∉ usedRoles) (v : RefValue) : s.anyRole v p = some (.role, v) := by
  unfold State.anyRole
  revert h
  cases s.role p <;> simp [usedRoles]

section Restart
variable {s : State} {p : Port} (hp : s.part = .service)
include hp

/-- A PORT-RESTART delivered in SERVICE is taken at once (R166). -/
theorem exec_portRestart_delivered (tag : Byte) : exec (.portRestart p (some tag)) s = .next ((s.hear p).restartDelivered p tag) := by
  change Host.Outcome.next (s.deliver p 0x29 tag []) = _
  have notReport : isReportKind 0x29 = false := rfl
  have taken : (s.hear p).requestDelivered p 0x29 tag [] = (s.hear p).restartDelivered p tag := if_pos ⟨hp, rfl, rfl⟩
  simp only [State.deliver, hp, notReport, Bool.false_eq_true, if_false, taken]

/-- From an UNUSED port it is a breach, answered DENIED (R168, R169). -/
theorem exec_portRestart_denied (hr : s.role p ∉ usedRoles) (tag : Byte) :
    exec (.portRestart p (some tag)) s =
      .next (State.settle (((s.hear p).breach p 0x29 .role .none).onPort p fun q =>
        q.pushReply { kind := 0xA9, tag := tag, status := .denied, body := [.u8 0, .u16 0, .u64 s.kept.generation] })) := by
  have gate : (s.hear p).anyRole .none p = some (.role, .none) := State.anyRole_eq_some (s := s.hear p) hr .none
  rw [exec_portRestart_delivered hp, State.restartDelivered, gate]
  rfl

theorem exec_portRestart_done (hr : s.role p ∈ usedRoles) (tag : Byte) :
    exec (.portRestart p (some tag)) s = .next (State.settle (((s.hear p).restartPort p).replyRestart p tag .done [])) := by
  have gate : (s.hear p).anyRole .none p = none := State.anyRole_eq_none (s := s.hear p) hr .none
  rw [exec_portRestart_delivered hp, State.restartDelivered, gate]

/-- One that joined the queue in COMMISSION is served as a restart of the port (log entry 11). -/
theorem exec_portRestart_served (hr : s.role p ∈ usedRoles) {r : Request} (hi : s.inService p = some r)
    (hs : s.serves p (.portRestart p none) = true) :
    exec (.portRestart p none) s =
      .next (State.settle (((s.restartPort p).onPort p fun q => { q with requests := [] }).replyRestart p r.tag .done [])) := by
  change Host.Outcome.next (s.serve p (.portRestart p none) .condition (State.anyRole .none p) fun t => t.restartServed p) = _
  rw [s.serve_service p _ _ _ _ hs hp (by simp) (State.anyRole_eq_none hr .none)]
  simp only [State.restartServed, hi]

end Restart

/-- Settles O18: the restart sheds the port, and its reply joins an emptied list; a breach sheds nothing. -/
theorem restartShedsThePort : Obligations.RestartShedsThePort := by
  unfold Obligations.RestartShedsThePort
  refine ⟨fun s p tag => rfl, fun s p tag hp hr => ?_, fun s p hp hr => ⟨fun tag => ?_, fun r hi hs => ?_⟩⟩
  · refine ⟨fun hroom => ?_, fun hfull => ?_⟩ <;> rw [exec_portRestart_denied hp hr]
    · exact congrArg _ (congrArg State.settle (State.onPort_congr (PortState.pushReply_room hroom _)))
    · exact congrArg _ (congrArg State.settle (State.onPort_congr (PortState.pushReply_full hfull _)))
  · refine ⟨_, exec_portRestart_done hp hr tag, rfl, fun g => s.breakOwned_link p g, fun q hq => ?_, ?_⟩
    · rw [State.replyRestart, State.onPort_port_other _ _ hq, State.restartPort, State.onPort_port_other _ _ hq]
      exact State.onPort_port_other _ _ hq
    · rw [State.replyRestart, State.onPort_port_self, State.restartPort, State.onPort_port_self]
      have heard : ((s.hear p).breakOwned p).port p = { s.port p with silent := false, lastHeard := s.clock } :=
        State.onPort_port_self ..
      rw [heard, PortState.shed_eq]
      rfl
  · refine ⟨_, exec_portRestart_served hp hr hi hs, rfl, fun g => s.breakOwned_link p g, fun q hq => ?_, ?_⟩
    · rw [State.replyRestart, State.onPort_port_other _ _ hq, State.onPort_port_other _ _ hq]
      exact State.onPort_port_other _ _ hq
    · rw [State.replyRestart, State.onPort_port_self, State.onPort_port_self, State.restartPort, State.onPort_port_self]
      have broken : (s.breakOwned p).port p = s.port p := rfl
      rw [broken, PortState.shed_eq]
      rfl

end Sys2Proof.Machine
end

section
/-!
PROOF. The service of a request: its form, the part state, and the access table (R16, R17, R167, R168).
-/
namespace Sys2Proof.Machine

/-- Two next states that agree. -/
theorem next_congr {s t : State} (h : s = t) : (.next s : Host.Outcome State Fault Refusal) = .next t := congrArg _ h

/-! ### What a payload can be read as (R165, R167) -/

/-- Whatever the reader makes of some bytes has the property. -/
def Yields {α : Type} (r : Reader α) (P : α → Prop) : Prop := ∀ bs a rest, r bs = some (a, rest) → P a

section Yields
variable {α β : Type} {P : α → Prop}

theorem Yields.pure {a : α} (h : P a) : Yields (Pure.pure a) P := by
  intro bs b rest e
  cases e
  exact h

/-- What comes of a sequence of readers is decided by its last one. -/
theorem Yields.bind {r : Reader β} {f : β → Reader α} (h : ∀ b, Yields (f b) P) : Yields (r >>= f) P := by
  intro bs a rest e
  obtain ⟨x, -, hx⟩ := Option.bind_eq_some_iff.1 e
  exact h x.1 x.2 a rest hx

theorem Yields.failure : Yields (failure : Reader α) P := fun _ _ _ e => by cases e

theorem Yields.ite {c : Prop} [Decidable c] {r t : Reader α} (hr : Yields r P) (ht : Yields t P) : Yields (if c then r else t) P := by
  split
  · exact hr
  · exact ht

end Yields

section Shapes
variable {P : Instr → Prop}

theorem Yields.none {c : Instr} (h : P c) : Yields (readNone c) P := Yields.pure h

theorem Yields.one {k : Nat} {c : Nat → Instr} (h : ∀ n, P (c n)) : Yields (readOne k c) P := Yields.bind fun n => Yields.pure (h n)

theorem Yields.two {k l : Nat} {c : Nat → Nat → Instr} (h : ∀ n m, P (c n m)) : Yields (readTwo k l c) P :=
  Yields.bind fun n => Yields.bind fun m => Yields.pure (h n m)

theorem Yields.byteInt {c : Nat → Int → Instr} (h : ∀ n z, P (c n z)) : Yields (readByteInt c) P :=
  Yields.bind fun n => Yields.bind fun z => Yields.pure (h n z)

/-- A payload is read as a command that its kind's reader yields, or as an unknown request. -/
theorem Yields.commandOf {p : Port} {kind : Byte} (h : Yields (readRequest p kind) P) (payload : List Byte) :
    commandOf p kind payload = .unknownRequest p ∨ P (commandOf p kind payload) := by
  unfold Sys2Proof.commandOf readAll
  split
  · exact .inr (h _ _ _ ‹_›)
  · exact .inl rfl

end Shapes

/-- A request kind outside the table has no reader. -/
theorem readRequest_unlisted {p : Port} {kind : Byte} (h : kind = 0 ∨ 0x29 < kind.toNat) : readRequest p kind = failure := by
  have outside : kind.toNat = 0 ∨ 0x29 < kind.toNat := h.imp_left fun (e : kind = 0) => by rw [e]; rfl
  unfold readRequest
  generalize kind.toNat = n at outside
  split <;> simp at outside ⊢

/-! ### Form and part state (R16, R17, R167) -/

/-- How the part state bears on a request (R16, R17); none for what no request frame asks for. -/
def requestClass : Instr → Option RequestClass
  | .bookRead _ _ _ | .bookStatus _ | .lotRead _ _ | .spaceRead _ _ _ | .ashoreRead _ _ | .channelRead _ _ | .tankRead _ _
  | .verdictRead _ _ | .captureRead _ | .linkRead _ _ | .readJournal _ _ | .fixedRead _ _ | .craneRead _ _ | .faultRead _
  | .portStatus _ _ | .readTally _ _ => some .read
  | .bookWrite _ _ _ _ | .bookAccept _ => some .book
  | .claim _ _ | .stage _ _ _ | .commit _ _ _ | .releaseLink _ _ | .fixedSet _ _ _ _ _ _ _ | .tankManual _ _ _
  | .tankDensity _ _ _ | .tankPlan _ _ _ | .channelRestore _ _ | .channelModeChannel _ _ _ | .channelModeQueueLevel _ _
  | .captureClear _ | .captureMode _ _ | .faultClear _ | .conditionMode _ _ | .conditionConfirm _ | .purgeAshore _
  | .tallyControl _ _ _ | .tallySet _ _ _ | .stopVoteSet _ _ _ | .stopVoteRelease _ _ | .clearRequest _ _ _ _ _
  | .clearCancel _ _ | .subscribe _ _ | .portRestart _ none => some .condition
  | _ => none

/-- The class that a request's kind byte tells (Table 9-5). -/
def kindClass (n : Nat) : RequestClass := if n = 0x03 ∨ n = 0x04 then .book else if n ≤ 0x12 then .read else .condition

/-- What is read of a request is a command of the port and of its kind's class. -/
theorem readRequest_yields (p : Port) (kind : Byte) :
    Yields (readRequest p kind) fun c => c.port = some p ∧ requestClass c = some (kindClass kind.toNat) := by
  unfold readRequest
  generalize kind.toNat = n
  split
  · exact .two fun _ _ => ⟨rfl, rfl⟩
  · exact .none ⟨rfl, rfl⟩
  · exact .bind fun _ => .bind fun _ => .bind fun _ => .ite (.pure ⟨rfl, rfl⟩) .failure
  · exact .none ⟨rfl, rfl⟩
  · exact .one fun _ => ⟨rfl, rfl⟩
  · exact .two fun _ _ => ⟨rfl, rfl⟩
  · exact .one fun _ => ⟨rfl, rfl⟩
  · exact .one fun _ => ⟨rfl, rfl⟩
  · exact .one fun _ => ⟨rfl, rfl⟩
  · exact .one fun _ => ⟨rfl, rfl⟩
  · exact .none ⟨rfl, rfl⟩
  · exact .one fun _ => ⟨rfl, rfl⟩
  · exact .one fun _ => ⟨rfl, rfl⟩
  · exact .one fun _ => ⟨rfl, rfl⟩
  · exact .one fun _ => ⟨rfl, rfl⟩
  · exact .none ⟨rfl, rfl⟩
  · exact .one fun _ => ⟨rfl, rfl⟩
  · exact .one fun _ => ⟨rfl, rfl⟩
  · exact .one fun _ => ⟨rfl, rfl⟩
  · exact .bind fun _ => .bind fun _ => .pure ⟨rfl, rfl⟩
  · exact .two fun _ _ => ⟨rfl, rfl⟩
  · exact .one fun _ => ⟨rfl, rfl⟩
  · exact .bind fun _ => .bind fun _ => .bind fun _ => .bind fun _ => .bind fun _ => .bind fun _ => .pure ⟨rfl, rfl⟩
  · exact .byteInt fun _ _ => ⟨rfl, rfl⟩
  · exact .byteInt fun _ _ => ⟨rfl, rfl⟩
  · exact .bind fun _ => .bind fun _ => .pure ⟨rfl, rfl⟩
  · exact .one fun _ => ⟨rfl, rfl⟩
  · exact .bind fun _ => .ite (.bind fun _ => .bind fun _ => .pure ⟨rfl, rfl⟩) (.ite (.bind fun _ => .pure ⟨rfl, rfl⟩) .failure)
  · exact .none ⟨rfl, rfl⟩
  · exact .one fun _ => ⟨rfl, rfl⟩
  · exact .none ⟨rfl, rfl⟩
  · exact .one fun _ => ⟨rfl, rfl⟩
  · exact .none ⟨rfl, rfl⟩
  · exact .none ⟨rfl, rfl⟩
  · exact .bind fun _ => .bind fun _ => .bind fun _ => .bind fun _ => .bind fun _ => .bind fun _ => .bind fun _ => .bind fun _ =>
      .pure ⟨rfl, rfl⟩
  · exact .two fun _ _ => ⟨rfl, rfl⟩
  · exact .bind fun _ => .bind fun _ => .ite (.pure ⟨rfl, rfl⟩) (.pure ⟨rfl, rfl⟩)
  · exact .bind fun _ => .bind fun _ => .bind fun _ => .bind fun _ => .bind fun _ => .bind fun _ => .pure ⟨rfl, rfl⟩
  · exact .one fun _ => ⟨rfl, rfl⟩
  · exact .one fun _ => ⟨rfl, rfl⟩
  · exact .none ⟨rfl, rfl⟩
  · exact .failure

/-- The command that serves a request is one of its port. -/
theorem commandOf_port (p : Port) (kind : Byte) (payload : List Byte) : (commandOf p kind payload).port = some p := by
  rcases (readRequest_yields p kind).commandOf payload with h | ⟨h, -⟩
  · rw [h]; rfl
  · exact h

theorem State.serves_inService {s : State} {p : Port} {r : Request} (h : s.inService p = some r) :
    s.serves p (commandOf p r.kind r.payload) = true := by
  simp [State.serves, h]

theorem State.serves_port {s : State} {p : Port} {c : Instr} (h : s.serves p c = true) : c.port = some p := by
  unfold State.serves at h
  split at h
  · rw [← of_decide_eq_true h]
    exact commandOf_port ..
  · cases h

section Gates
variable {s : State} {p : Port} {c : Instr} (hs : s.serves p c = true)
include hs

theorem State.serveMalformed_answer (hp : s.part ≠ .start) : s.serveMalformed p c = s.answer p .malformed [] :=
  if_neg (by simp [hs, hp])

/-- In COMMISSION a request of the condition is not served (R16). -/
theorem exec_notInService (hc : requestClass c = some .condition) (hp : s.part = .commission) :
    exec c s = .next (s.answer p .notInService []) := by
  have own := State.serves_port hs
  have barred (gate : State → Option Breach) (block : State → State) :=
    next_congr (s.serve_notInService p c gate block hs hp)
  cases c with
  | portRestart q delivered =>
    cases delivered with
    | none => cases own; exact barred _ _
    | some tag => cases hc
  | claim | stage | commit | releaseLink | fixedSet | tankManual | tankDensity | tankPlan | channelRestore | channelModeChannel
  | channelModeQueueLevel | captureClear | captureMode | faultClear | conditionMode | conditionConfirm | purgeAshore
  | tallyControl | tallySet | stopVoteSet | stopVoteRelease | clearRequest | clearCancel | subscribe =>
    cases own; exact barred _ _
  | _ => cases hc

/-- In SERVICE a request of the book's writing is not served (R17). -/
theorem exec_notInCommission (hc : requestClass c = some .book) (hp : s.part = .service) :
    exec c s = .next (s.answer p .notInCommission []) := by
  have own := State.serves_port hs
  have barred (gate : State → Option Breach) (block : State → State) :=
    next_congr (s.serve_notInCommission p c gate block hs hp)
  cases c with
  | bookWrite | bookAccept => cases own; exact barred _ _
  | portRestart q delivered => cases delivered <;> cases hc
  | _ => cases hc

end Gates

theorem tallyIdx_eq_none {n : Nat} (h : 8 ≤ n) : tallyIdx n = none := dif_neg (by omega)

/-- Settles O12: the form step, then the part state by the class of the request's kind. -/
theorem formAndPartStateGateRequests : Obligations.FormAndPartStateGateRequests := by
  unfold Obligations.FormAndPartStateGateRequests
  intro s p r hr hp c
  have hs : s.serves p c = true := State.serves_inService hr
  have known (h : c ≠ .unknownRequest p) : requestClass c = some (kindClass r.kind.toNat) := by
    rcases (readRequest_yields p r.kind).commandOf r.payload with hu | ⟨-, hc⟩
    · exact absurd hu h
    · exact hc
  refine ⟨fun hc => ?_, fun hk => ?_, fun n hc hn => ?_, fun hc hpart hk => ?_, fun hc hpart hk => ?_⟩
  · rw [hc] at hs ⊢
    exact congrArg _ (State.serveMalformed_answer hs hp)
  · change (readAll (readRequest p r.kind) r.payload).getD _ = _
    rw [readRequest_unlisted hk]
    rfl
  · rw [hc] at hs ⊢
    change Host.Outcome.next (match tallyIdx n with
      | none => s.serveMalformed p (.readTally p n)
      | some _ => _) = _
    rw [tallyIdx_eq_none hn]
    exact congrArg _ (State.serveMalformed_answer hs hp)
  · refine exec_notInService hs ((known hc).trans ?_) hpart
    rw [kindClass, if_neg (by omega), if_neg (by omega)]
  · refine exec_notInCommission hs ((known hc).trans ?_) hpart
    rcases hk with hk | hk <;> rw [hk] <;> rfl

end Sys2Proof.Machine
end

section
/-!
PROOF. The access table: which request of which port is a breach, and what SERVICE answers it (R130, R168, R169, R183).
-/
namespace Sys2Proof.Machine

/-! ### The gates (R168) -/

section Gates
variable {s : State} {p : Port}

theorem State.onlyRoles_eq_some {roles : List Role} (v : RefValue) (h : s.role p ∉ roles) :
    s.onlyRoles roles v p = some (.role, v) :=
  if_neg fun hc => h (List.contains_iff_mem.1 hc)

theorem State.ownCrane_notCrane {crane : Nat} (h : s.role p ≠ .crane) : s.ownCrane crane p = some (.role, .crane crane) :=
  if_neg h

theorem State.ownCrane_notOwn {crane : Nat} (h : s.role p = .crane) (ho : s.ownsCrane p crane = false) :
    s.ownCrane crane p = some (.craneNotOwn, .crane crane) :=
  (if_pos h).trans (if_neg (by simp [ho]))

theorem State.ownCrane_eq_none {crane : Nat} (h : s.role p = .crane) (ho : s.ownsCrane p crane = true) : s.ownCrane crane p = none :=
  (if_pos h).trans (if_pos ho)

theorem State.craneReader_eq_none {crane : Nat} (h : s.role p ∈ usedRoles) (ho : s.role p = .crane → s.ownsCrane p crane = true) :
    s.craneReader crane p = none := by
  by_cases hc : s.role p = .crane
  · exact (if_pos hc).trans (State.ownCrane_eq_none hc (ho hc))
  · exact (if_neg hc).trans (State.anyRole_eq_none h _)

theorem State.craneReader_unused {crane : Nat} (h : s.role p ∉ usedRoles) : s.craneReader crane p = some (.role, .crane crane) :=
  (if_neg fun hc => h (by simp [hc, usedRoles])).trans (State.anyRole_eq_some h _)

/-- The gate of STOP-VOTE asks a port that is neither OFFICER nor PLANNER for its own crane. -/
theorem State.voteGate_eq_ownCrane {crane : Nat} (ho : s.role p ≠ .officer) (hp : s.role p ≠ .planner) :
    s.voteGate crane p = s.ownCrane crane p :=
  if_neg fun hc => hc.elim ho hp

theorem State.stageGate_otherRole {group : Nat} {am : Amendment} (h : s.role p ∉ linkRoles) :
    s.stageGate group am p = some (.role, spaceValue am.carried) := by
  have notShore : ¬ (s.role p = .shore ∧ am.isLive = true) := fun ⟨hr, _⟩ => h (by simp [hr, linkRoles])
  exact (if_neg notShore).trans (State.onlyRoles_eq_some _ h)

/-- A SHORE port's STAGE of a live kind names the link's target, or else the space the amendment carries (R130). -/
theorem State.stageGate_shore {group : Nat} {am : Amendment} (h : s.role p = .shore) (ham : am.isLive = true) :
    s.stageGate group am p = some (.role, spaceValue ((s.linkTarget group).or am.carried)) := by
  refine (if_pos ⟨h, ham⟩).trans ?_
  cases s.linkTarget group <;> rfl

theorem State.commitGate_otherRole {group override : Nat} (h : s.role p ∉ linkRoles) :
    s.commitGate group override p = some (.role, .none) := by
  rw [State.commitGate, State.onlyRoles_eq_some _ h]

theorem State.commitGate_override {group : Nat} (h : s.role p = .planner ∨ s.role p = .shore) :
    s.commitGate group 1 p = some (.override, spaceValue (s.linkTarget group)) := by
  have isLinkRole : s.role p ∈ linkRoles := by rcases h with h | h <;> simp [h, linkRoles]
  have notOfficer : s.role p ≠ .officer := by rcases h with h | h <;> simp [h]
  rw [State.commitGate, State.onlyRoles_eq_none _ isLinkRole]
  exact if_pos ⟨rfl, notOfficer⟩

theorem tallyIdx_val (i : Fin 8) : tallyIdx i.val = some i := dif_pos i.isLt

theorem State.tallyGate_unused {n : Nat} (h : s.role p ∉ usedRoles) : s.tallyGate n p = some (.role, .none) := by
  rw [State.tallyGate, State.anyRole_eq_some h]

theorem State.tallyGate_used {i : Fin 8} (h : s.role p ∈ usedRoles) :
    s.tallyGate i.val p =
      if roleIn s.vol.tallies[i.val].control.readable (s.role p) then none else some (.tallyHidden, .tally i.val) := by
  rw [State.tallyGate, State.anyRole_eq_none h, tallyIdx_val]

end Gates

/-! ### Breaches -/

/-- The service of a READ-TALLY of a tally that exists. -/
theorem exec_readTally (s : State) (p : Port) (i : Fin 8) :
    exec (.readTally p i.val) s =
      .next (s.serve p (.readTally p i.val) .read (State.tallyGate i.val p) fun t =>
        t.done p ([.u32 t.vol.tallies[i.val].value, flagVal t.vol.tallies[i.val].overflow] ++ t.vol.tallies[i.val].control.vals)) := by
  change Host.Outcome.next (match tallyIdx i.val with
    | none => _
    | some k => _) = _
  rw [tallyIdx_val]

theorem exec_readTally_malformed {s : State} {p : Port} {n : Nat} (h : 8 ≤ n) :
    exec (.readTally p n) s = .next (s.serveMalformed p (.readTally p n)) := by
  change Host.Outcome.next (match tallyIdx n with
    | none => _
    | some k => _) = _
  rw [tallyIdx_eq_none h]

section Denied
variable {s : State} {p : Port} (hp : s.part = .service)
include hp

/-- A READ-TALLY of a tally that exists is gated as its record says (R183). -/
theorem exec_readTally_denied {i : Fin 8} {b : Breach} (hs : s.serves p (.readTally p i.val) = true)
    (hg : s.tallyGate i.val p = some b) : exec (.readTally p i.val) s = .next (s.deny p b) := by
  rw [exec_readTally]
  exact next_congr (s.serve_breach p _ _ _ _ _ hs hp (by decide) hg)

/-- A role outside those of R168 is a breach of the role (R169). -/
theorem exec_roleDenied {c : Instr} {roles : List Role} (hs : s.serves p c = true) (hc : accessRoles c = some roles)
    (hr : s.role p ∉ roles) (htally : ∀ n, c = .readTally p n → n < 8) :
    exec c s = .next (s.deny p (.role, accessValue c)) := by
  have own := State.serves_port hs
  have denied {cls : RequestClass} (hcls : cls ≠ .book) {gate : State → Option Breach} {b : Breach} (hg : gate s = some b)
      (block : State → State) :=
    next_congr (s.serve_breach p c cls gate block b hs hp hcls hg)
  cases c with
  | lotRead | spaceRead | ashoreRead | channelRead | tankRead | verdictRead | captureRead | linkRead | readJournal | fixedRead
  | faultRead =>
    cases own; cases hc; exact denied (cls := .read) (by decide) (State.anyRole_eq_some hr _) _
  | craneRead => cases own; cases hc; exact denied (cls := .read) (by decide) (State.craneReader_unused hr) _
  | readTally q n =>
    cases own; cases hc
    exact exec_readTally_denied hp (i := ⟨n, htally n rfl⟩) hs (State.tallyGate_unused hr)
  | subscribe => cases own; cases hc; exact denied (cls := .condition) (by decide) (State.anyRole_eq_some hr _) _
  | portRestart q delivered =>
    cases delivered with
    | none => cases own; cases hc; exact denied (cls := .condition) (by decide) (State.anyRole_eq_some hr _) _
    | some tag => cases hc
  | claim | releaseLink | tankDensity | tankPlan | fixedSet | tankManual | channelRestore | channelModeChannel
  | channelModeQueueLevel | captureClear | captureMode | faultClear | conditionMode | conditionConfirm | purgeAshore
  | tallyControl | tallySet =>
    cases own; cases hc; exact denied (cls := .condition) (by decide) (State.onlyRoles_eq_some _ hr) _
  | stage => cases own; cases hc; exact denied (cls := .condition) (by decide) (State.stageGate_otherRole hr) _
  | commit => cases own; cases hc; exact denied (cls := .condition) (by decide) (State.commitGate_otherRole hr) _
  | stopVoteSet | stopVoteRelease =>
    cases own; cases hc
    simp only [List.mem_cons, List.not_mem_nil, or_false, not_or] at hr
    obtain ⟨ho, hpl, hcr⟩ := hr
    exact denied (cls := .condition) (by decide) ((State.voteGate_eq_ownCrane ho hpl).trans (State.ownCrane_notCrane hcr)) _
  | clearRequest | clearCancel =>
    cases own; cases hc
    exact denied (cls := .condition) (by decide) (State.ownCrane_notCrane fun h => hr (by simp [h])) _
  | _ => cases hc

/-- A CRANE port that names another crane than its own breaches its crane set (R168; the read: log entry 45). -/
theorem exec_craneDenied {c : Instr} {crane : Nat} (hs : s.serves p c = true) (hr : s.role p = .crane)
    (ho : s.ownsCrane p crane = false)
    (hc : (∃ lot d q, c = .clearRequest p crane lot d q) ∨ c = .clearCancel p crane ∨ (∃ a, c = .stopVoteSet p crane a) ∨
        c = .stopVoteRelease p crane ∨ c = .craneRead p crane) :
    exec c s = .next (s.deny p (.craneNotOwn, .crane crane)) := by
  have foreign := State.ownCrane_notOwn hr ho
  have vote : s.voteGate crane p = _ := (State.voteGate_eq_ownCrane (by simp [hr]) (by simp [hr])).trans foreign
  have reader : s.craneReader crane p = _ := (if_pos hr).trans foreign
  have denied {cls : RequestClass} (hcls : cls ≠ .book) {gate : State → Option Breach} {b : Breach} (hg : gate s = some b)
      (block : State → State) :=
    next_congr (s.serve_breach p c cls gate block b hs hp hcls hg)
  obtain ⟨lot, d, q, rfl⟩ | rfl | ⟨a, rfl⟩ | rfl | rfl := hc
  · exact denied (cls := .condition) (by decide) foreign _
  · exact denied (cls := .condition) (by decide) foreign _
  · exact denied (cls := .condition) (by decide) vote _
  · exact denied (cls := .condition) (by decide) vote _
  · exact denied (cls := .read) (by decide) reader _

end Denied

/-- Settles O13, breach by breach of the table. -/
theorem accessTableBreachIsDenied : Obligations.AccessTableBreachIsDenied := by
  unfold Obligations.AccessTableBreachIsDenied
  refine fun s p hp => ⟨fun c roles hs => exec_roleDenied hp hs, fun c crane hs hr ho => exec_craneDenied hp hs hr ho,
    fun group hs hr => ?_, fun group am hs hr ham => ?_, fun n hs hr hhidden => ?_, fun cause v => rfl⟩
  · exact next_congr (s.serve_breach p _ .condition _ _ _ hs hp (by decide) (State.commitGate_override hr))
  · exact next_congr (s.serve_breach p _ .condition _ _ _ hs hp (by decide) (State.stageGate_shore hr ham))
  · refine exec_readTally_denied hp hs ((State.tallyGate_used hr).trans (if_neg ?_))
    simp [hhidden]

end Sys2Proof.Machine
end

section
/-!
PROOF. The reads: who gets them, that each touches its own port alone, and what each of them answers (R1, R16, R23 to R25, R40,
R41, R72, R119, R124, R138, R141, R142, R162, R169, R176, R183).
-/
namespace Sys2Proof.Machine

/-! ### A read that is let pass (R16, R167, R168) -/

section Let
variable {s : State} {p : Port} {c : Instr} {gate : State → Option Breach}

/-- A read that its gate lets pass in SERVICE is served in COMMISSION and in SERVICE. -/
theorem State.serve_read (hs : s.serves p c = true) (hp : s.part = .commission ∨ (s.part = .service ∧ gate s = none))
    (block : State → State) : s.serve p c .read gate block = block s := by
  rcases hp with hp | ⟨hp, hg⟩
  · exact s.serve_commission p c _ _ _ hs hp (by decide)
  · exact s.serve_service p c _ _ _ hs hp (by decide) hg

theorem State.readsOpenly.serve (h : s.readsOpenly p c) (block : State → State) : s.serve p c .read (fun _ => none) block = block s :=
  State.serve_read h.1 (h.2.imp_right fun hp => ⟨hp, rfl⟩) block

theorem State.reads.serve {v : RefValue} (h : s.reads p c) (block : State → State) : s.serve p c .read (State.anyRole v p) block = block s :=
  State.serve_read h.1 (h.2.imp_right fun ⟨hp, hr⟩ => ⟨hp, State.anyRole_eq_none hr v⟩) block

/-- A CRANE port reads its own cranes (log entry 45). -/
theorem State.reads.serve_crane {n : Nat} (h : s.reads p c) (hn : s.craneMayRead p n) (block : State → State) :
    s.serve p c .read (State.craneReader n p) block = block s :=
  State.serve_read h.1 (h.2.imp_right fun ⟨hp, hr⟩ => ⟨hp, State.craneReader_eq_none hr (hn hp)⟩) block

end Let

/-! ### What a read touches -/

/-- The request in service is answered, and nothing but its port has changed. -/
structure State.Answered (s : State) (p : Port) (t : State) : Prop where
  frame : t = { s with vol.ports := t.vol.ports }
  others : ∀ q, q ≠ p → t.port q = s.port q
  served : (t.port p).requests = (s.port p).requests.tail

theorem PortState.pushReply_requests (q : PortState) (r : Reply) : (q.pushReply r).requests = q.requests := by
  unfold PortState.pushReply
  split <;> rfl

theorem PortState.pump_requests (q : PortState) : q.pump.requests = q.requests := by
  unfold PortState.pump
  split
  · rfl
  · split <;> rfl

theorem PortState.answer_requests (q : PortState) (st : Status) (body : List Val) : (q.answer st body).requests = q.requests.tail := by
  rcases hr : q.requests with _ | ⟨r, rest⟩
  · simp only [PortState.answer, hr, List.tail_nil]
  · cases ho : r.orphaned with
    | true => rw [PortState.answer_orphaned hr ho, List.tail_cons]
    | false => rw [PortState.answer_placed hr ho, PortState.pump_requests, PortState.pushReply_requests, List.tail_cons]

theorem State.answer_answered (s : State) (p : Port) (st : Status) (body : List Val) : s.Answered p (s.answer p st body) where
  frame := rfl
  others _ hq := State.onPort_port_other s _ hq
  served := by rw [State.answer, State.onPort_port_self, PortState.answer_requests]

/-- An answer behind a change of the port that leaves its queue of requests. -/
theorem State.onPort_answered (s : State) (p : Port) {f : PortState → PortState} (hf : (f (s.port p)).requests = (s.port p).requests)
    (st : Status) (body : List Val) : s.Answered p ((s.onPort p f).answer p st body) where
  frame := rfl
  others q hq := ((State.onPort_port_other _ _ hq).trans (State.onPort_port_other s f hq))
  served := by rw [State.answer, State.onPort_port_self, PortState.answer_requests, State.onPort_port_self, hf]

/-- What a request's frame names is not the row of the port's own delivery; its class is that of its kind. -/
theorem requestClass_encodeRequest {c : Instr} {kind : Byte} {payload : List Byte} (h : encodeRequest c = some (kind, payload)) :
    requestClass c = some (kindClass kind.toNat) := by
  cases c with
  | portRestart q delivered =>
    cases delivered with
    | none => cases h; rfl
    | some tag => cases h
  | _ => cases h <;> rfl

section Touched
variable {s : State} {p : Port}

/-- Of the reads, those of the book and of a port's status are let pass from any port (log entry 44). -/
theorem exec_openRead_answered {c : Instr} (h : s.readsOpenly p c)
    (hc : (∃ sect entry, c = .bookRead p sect entry) ∨ c = .bookStatus p ∨ ∃ n, c = .portStatus p n) :
    ∃ t, exec c s = .next t ∧ s.Answered p t := by
  obtain ⟨sect, entry, rfl⟩ | rfl | ⟨n, rfl⟩ := hc
  · refine ⟨_, next_congr (h.serve _), ?_⟩
    split <;> exact s.answer_answered p _ _
  · exact ⟨_, next_congr (h.serve _), s.answer_answered p _ _⟩
  · refine ⟨_, next_congr (h.serve _), ?_⟩
    split
    · exact s.answer_answered p _ _
    · dsimp only
      split
      · exact s.onPort_answered p (by rfl) _ _
      · exact s.answer_answered p _ _

theorem exec_read_answered {c : Instr} (h : s.reads p c) (hc : requestClass c = some .read)
    (htally : ∀ n, c = .readTally p n → s.part = .service → State.tallyGate n p s = none)
    (hcrane : ∀ n, c = .craneRead p n → s.craneMayRead p n) : ∃ t, exec c s = .next t ∧ s.Answered p t := by
  obtain ⟨hs, hmay⟩ := h
  have own := State.serves_port hs
  have hopen : s.part = .commission ∨ s.part = .service := hmay.imp_right fun h => h.1
  cases c with
  | bookRead => cases own; exact exec_openRead_answered ⟨hs, hopen⟩ (.inl ⟨_, _, rfl⟩)
  | bookStatus => cases own; exact exec_openRead_answered ⟨hs, hopen⟩ (.inr (.inl rfl))
  | portStatus => cases own; exact exec_openRead_answered ⟨hs, hopen⟩ (.inr (.inr ⟨_, rfl⟩))
  | lotRead =>
    cases own
    refine ⟨_, next_congr (State.reads.serve ⟨hs, hmay⟩ _), ?_⟩
    split
    · exact s.answer_answered p _ _
    · split <;> exact s.answer_answered p _ _
  | spaceRead | channelRead | tankRead | verdictRead | linkRead | fixedRead =>
    cases own
    refine ⟨_, next_congr (State.reads.serve ⟨hs, hmay⟩ _), ?_⟩
    split <;> exact s.answer_answered p _ _
  | readJournal =>
    cases own
    refine ⟨_, next_congr (State.reads.serve ⟨hs, hmay⟩ _), ?_⟩
    dsimp only
    split <;> exact s.answer_answered p _ _
  | ashoreRead | captureRead | faultRead =>
    cases own
    exact ⟨_, next_congr (State.reads.serve ⟨hs, hmay⟩ _), s.answer_answered p _ _⟩
  | craneRead =>
    cases own
    refine ⟨_, next_congr (State.reads.serve_crane ⟨hs, hmay⟩ (hcrane _ rfl) _), ?_⟩
    split <;> exact s.answer_answered p _ _
  | readTally q n =>
    cases own
    rcases Nat.lt_or_ge n 8 with hn | hn
    · refine ⟨_, (exec_readTally s p ⟨n, hn⟩).trans (next_congr (State.serve_read hs (hopen.imp_right fun hp => ⟨hp, ?_⟩) _)), ?_⟩
      · exact htally n rfl hp
      · exact s.answer_answered p _ _
    · refine ⟨_, exec_readTally_malformed hn, ?_⟩
      rw [State.serveMalformed_answer hs (by rcases hopen with h | h <;> simp [h])]
      exact s.answer_answered p _ _
  | portRestart q delivered => cases delivered <;> cases hc
  | _ => cases hc

end Touched

/-- Settles O19: whichever read is let pass, its port is answered and nothing else has changed. -/
theorem readsChangeOnlyTheirOwnPort : Obligations.ReadsChangeOnlyTheirOwnPort := by
  unfold Obligations.ReadsChangeOnlyTheirOwnPort
  intro s p c kind payload he hk h3 h4 h htally hcrane
  have three (n : Nat) (hn : n < 256) : kind ≠ BitVec.ofNat 8 n → kind.toNat ≠ n := fun h e =>
    h (BitVec.eq_of_toNat_eq (by rw [e, BitVec.toNat_ofNat, Nat.mod_eq_of_lt hn]))
  have isRead : kindClass kind.toNat = .read := by
    rw [kindClass, if_neg (not_or.2 ⟨three 3 (by decide) h3, three 4 (by decide) h4⟩), if_pos hk]
  have answered : ∃ t, exec c s = .next t ∧ s.Answered p t := by
    rcases h with h | ⟨h, hc⟩
    · exact exec_read_answered h ((requestClass_encodeRequest he).trans (congrArg some isRead)) htally hcrane
    · exact exec_openRead_answered h hc
  obtain ⟨t, ht, frame, others, served⟩ := answered
  exact ⟨t, ht, frame, others, served⟩

end Sys2Proof.Machine
end

section
/-!
PROOF. What each read answers: the book and its status, the Stowage Table, channels and tanks, the Evaluator's and the Link
Monitors' records, cranes, ports and tallies.
-/
namespace Sys2Proof.Machine

/-! ### The Vessel Book (R1) -/

/-- The entries of a section that Table 1-1 gives up to `last`. -/
theorem mem_section_iff {sect last : Nat} (h : ∀ n, (sect, n) ∈ sectionEntries ↔ n = last) (entry : Nat) :
    (∃ n, (sect, n) ∈ sectionEntries ∧ entry ≤ n) ↔ entry ≤ last := by
  simp [h]

/-- The entries that hold a record are those of Table 1-1. -/
theorem Book.read_isSome_iff (b : Book) (sect entry : Nat) :
    (b.read sect entry).isSome = true ↔ ∃ last, (sect, last) ∈ sectionEntries ∧ entry ≤ last := by
  have single (vs : List Val) : (if entry = 0 then some vs else none).isSome = true ↔ entry ≤ 0 := by
    split <;> simp_all
  have counted {α : Type} {n : Nat} (vs : List Val) (v : Vector α n) (f : α → List Val) :
      (if entry = 0 then some vs else v[entry - 1]?.map f).isSome = true ↔ entry ≤ n := by
    split
    · simp_all
    · simp; omega
  have plain {α : Type} {n : Nat} (v : Vector α (n + 1)) (f : α → List Val) : (v[entry]?.map f).isSome = true ↔ entry ≤ n := by
    by_cases h : entry < n + 1
    · rw [Vector.getElem?_eq_getElem h]
      exact iff_of_true rfl (by omega)
    · rw [Vector.getElem?_eq_none (by omega)]
      exact iff_of_false Bool.false_ne_true (by omega)
  have tanks : (b.read 7 entry).isSome = true ↔ entry ≤ 800 := by
    simp only [Book.read]
    split
    · simp_all
    · by_cases ht : (entry - 1) / 25 < 32
      · rw [Vector.getElem?_eq_getElem ht, Option.bind_some]
        split
        · simp; omega
        · simp; omega
      · rw [Vector.getElem?_eq_none (by omega)]
        simp; omega
  match sect with
  | 1 => exact (single _).trans (mem_section_iff (by simp [sectionEntries]) _).symm
  | 2 => exact (counted _ b.hydro _).trans (mem_section_iff (by simp [sectionEntries]) _).symm
  | 3 => exact (single _).trans (mem_section_iff (by simp [sectionEntries]) _).symm
  | 4 => exact (counted _ b.cross _).trans (mem_section_iff (by simp [sectionEntries]) _).symm
  | 5 => exact (plain b.stations _).trans (mem_section_iff (by simp [sectionEntries]) _).symm
  | 6 => exact (counted _ b.spaces _).trans (mem_section_iff (by simp [sectionEntries]) _).symm
  | 7 => exact tanks.trans (mem_section_iff (by simp [sectionEntries]) _).symm
  | 8 => exact (single _).trans (mem_section_iff (by simp [sectionEntries]) _).symm
  | 9 => exact (counted _ b.cranes _).trans (mem_section_iff (by simp [sectionEntries]) _).symm
  | 10 => exact (single _).trans (mem_section_iff (by simp [sectionEntries]) _).symm
  | 11 => exact (single _).trans (mem_section_iff (by simp [sectionEntries]) _).symm
  | 12 => exact (plain b.ports _).trans (mem_section_iff (by simp [sectionEntries]) _).symm
  | 13 => exact (counted _ b.fixed _).trans (mem_section_iff (by simp [sectionEntries]) _).symm
  | 0 => exact iff_of_false Bool.false_ne_true (by simp [sectionEntries])
  | n + 14 => exact iff_of_false Bool.false_ne_true (by simp [sectionEntries])

/-- Settles O20. -/
theorem bookReadsAnswerTheStore : Obligations.BookReadsAnswerTheStore := by
  unfold Obligations.BookReadsAnswerTheStore
  refine fun s p => ⟨s.book.read_isSome_iff, fun sect entry h => next_congr ((h.serve _).trans ?_), fun h => next_congr ((h.serve _).trans ?_)⟩
  · dsimp only
    cases s.book.read sect entry <;> rfl
  · refine congrArg (s.answer p .done) ?_
    cases hc : s.bookCheck <;> cases ha : s.vol.acceptance <;> simp only [State.bookStatusVals, hc, ha] <;> rfl

/-! ### The Stowage Table (R23, R25, R40, R41) -/

theorem handleOk_iff (h : Nat) : handleOk h = true ↔ h < 1024 := decide_eq_true_iff

theorem lotRead_answers {s : State} {p : Port} {h : Nat} (hr : s.reads p (.lotRead p h)) :
    exec (.lotRead p h) s = .next
      (if handleOk h = false then s.malformed p
       else match s.kept.lot h with
        | some l => s.done p (lotVals h l)
        | none => s.refuse p .unknownLot (.handle h)) :=
  next_congr (hr.serve _)

theorem spaceRead_answers {s : State} {p : Port} {space pos : Nat} (hr : s.reads p (.spaceRead p space pos)) :
    exec (.spaceRead p space pos) s = .next
      (match s.spaceBook space with
       | none => s.refuse p .outOfSpace (.space space)
       | some b => s.done p (s.spaceVals space pos b)) :=
  next_congr (hr.serve _)

section Weights
variable {s : State} (hl : s.kept.lotsInv) (n : Nat)
include hl

/-- The LIVE weight of a space over the handles (R41). -/
theorem State.liveWeight_total :
    s.liveWeight n = ((List.range 1024).map fun h => ((s.kept.lot h).map fun l =>
      match l.state with
      | .stowed _ _ | .hookedDischarging _ _ => if l.space = n then l.verified.getD l.declared else 0
      | .planned | .hookedLoading _ | .ashore _ => 0).getD 0).sum := by
  refine (weightOf_sum s.kept hl _).trans (congrArg (fun f : Lot → Int => ((List.range 1024).map fun h => ((s.kept.lot h).map f).getD 0).sum)
    (funext fun l => ?_))
  cases hs : l.state <;> by_cases hn : l.space = n <;> simp [hn, LotState.inLive, Lot.weight]

theorem State.planWeight_total :
    s.planWeight n = ((List.range 1024).map fun h => ((s.kept.lot h).map fun l =>
      match l.state with
      | .stowed .keep _ | .hookedLoading _ | .planned => if l.space = n then l.verified.getD l.declared else 0
      | .stowed .discharge _ | .hookedDischarging _ _ | .ashore _ => 0).getD 0).sum := by
  refine (weightOf_sum s.kept hl _).trans (congrArg (fun f : Lot → Int => ((List.range 1024).map fun h => ((s.kept.lot h).map f).getD 0).sum)
    (funext fun l => ?_))
  cases hs : l.state with
  | stowed i t => cases i <;> by_cases hn : l.space = n <;> simp [hn, LotState.inPlan, Lot.weight]
  | _ => by_cases hn : l.space = n <;> simp [hn, LotState.inPlan, Lot.weight]

theorem State.lotCount_total :
    (s.lotCount n : Int) = ((List.range 1024).map fun h => ((s.kept.lot h).map fun l =>
      match l.state with
      | .ashore _ => (0 : Int)
      | .planned | .hookedLoading _ | .hookedDischarging _ _ | .stowed _ _ => if l.space = n then 1 else 0).getD 0).sum := by
  refine (count_sum s.kept hl fun l => decide (l.space = n) && l.state.aboard).trans (congrArg (fun f : Lot → Int => ((List.range 1024).map fun h => ((s.kept.lot h).map f).getD 0).sum)
    (funext fun l => ?_))
  cases hs : l.state <;> by_cases hn : l.space = n <;> simp [hn, LotState.aboard]

end Weights

/-- Settles O21. -/
theorem stowageReadsAnswerTheTable : Obligations.StowageReadsAnswerTheTable := by
  unfold Obligations.StowageReadsAnswerTheTable
  refine ⟨fun s p => ⟨fun h l hr hh hl => ?_, fun h hr hh hl => ?_, fun h hr hh => ?_, fun space pos b hr hn hb => ?_,
    fun space pos hr hn => ?_, fun pos hr => next_congr (hr.serve _)⟩,
    fun s n hl => ⟨State.liveWeight_total hl n, State.planWeight_total hl n, State.lotCount_total hl n⟩⟩
  · rw [lotRead_answers hr, if_neg (by simp [handleOk_iff, hh]), hl]; rfl
  · rw [lotRead_answers hr, if_neg (by simp [handleOk_iff, hh]), hl]; rfl
  · rw [lotRead_answers hr, if_pos (Bool.eq_false_iff.2 fun hc => Nat.not_lt.2 hh ((handleOk_iff h).1 hc))]; rfl
  · rw [spaceRead_answers hr, State.spaceBook_eq_some hn hb]; rfl
  · rw [spaceRead_answers hr, State.spaceBook_eq_none hn]; rfl

/-! ### Channels and tanks (R72) -/

theorem channelIdx_val (ch : ChannelNo) : channelIdx ch.val = some ch := dif_pos ch.isLt

theorem channelIdx_eq_none {n : Nat} (h : 39 ≤ n) : channelIdx n = none := dif_neg (by omega)

theorem State.tankIdx_val {s : State} {t : TankNo} (h : t.val < s.book.tankCount) : s.tankIdx t.val = some t :=
  (dif_pos t.isLt).trans (if_pos h)

theorem State.tankIdx_eq_none {s : State} {n : Nat} (h : 32 ≤ n ∨ s.book.tankCount ≤ n) : s.tankIdx n = none := by
  unfold State.tankIdx
  split
  · exact if_neg (by omega)
  · rfl

theorem channelRead_answers {s : State} {p : Port} {n : Nat} (hr : s.reads p (.channelRead p n)) :
    exec (.channelRead p n) s = .next
      (match channelIdx n with
       | some ch => s.done p (s.channelVals ch)
       | none => s.malformed p) :=
  next_congr (hr.serve _)

theorem tankRead_answers {s : State} {p : Port} {n : Nat} (hr : s.reads p (.tankRead p n)) :
    exec (.tankRead p n) s = .next
      (match s.tankIdx n with
       | some t => s.done p (s.tankVals t)
       | none => s.malformed p) :=
  next_congr (hr.serve _)

/-- Settles O22. -/
theorem channelReadsAnswerTheRecords : Obligations.ChannelReadsAnswerTheRecords := by
  unfold Obligations.ChannelReadsAnswerTheRecords
  refine fun s p => ⟨fun ch hr => ?_, fun n hr hn => ?_, fun t hr ht hv => ?_, fun t hr ht hv => ?_, fun n hr hn => ?_⟩
  · rw [channelRead_answers hr, channelIdx_val]
    refine next_congr (congrArg (s.answer p .done) ?_)
    rw [State.channelVals]
    cases (s.channelLive ch).reference <;> rfl
  · rw [channelRead_answers hr, channelIdx_eq_none hn]; rfl
  · rw [tankRead_answers hr, State.tankIdx_val ht]
    refine next_congr (congrArg (s.answer p .done) ?_)
    simp only [State.tankVals, hv, decide_true, if_true]
    cases (s.tank t).planned <;> simp [optVals, flagVal]
  · rw [tankRead_answers hr, State.tankIdx_val ht]
    refine next_congr (congrArg (s.answer p .done) ?_)
    simp only [State.tankVals, hv]
    cases (s.tank t).planned <;> simp [optVals, flagVal]
  · rw [tankRead_answers hr, State.tankIdx_eq_none hn]; rfl

/-! ### The Evaluator, the links and the Journal (R119, R124, R138, R141, R142) -/

/-- Settles O23. -/
theorem captureReadShowsTheCapture : Obligations.CaptureReadShowsTheCapture := by
  unfold Obligations.CaptureReadShowsTheCapture
  refine fun s p hr => ⟨fun hh => next_congr ((hr.serve _).trans ?_), fun h hh => next_congr ((hr.serve _).trans ?_)⟩
  · exact congrArg (fun held => s.answer p .done (.u8 (captureModeCode s.vol.capture.mode) :: captureVals held)) hh
  · exact congrArg (fun held => s.answer p .done (.u8 (captureModeCode s.vol.capture.mode) :: captureVals held)) hh

theorem verdictRead_answers {s : State} {p : Port} {n : Nat} (hr : s.reads p (.verdictRead p n)) :
    exec (.verdictRead p n) s = .next
      (match setOf n with
       | some set => s.done p (s.verdictReadVals set)
       | none => s.malformed p) :=
  next_congr (hr.serve _)

theorem setOf_eq_none {n : Nat} (h : 2 ≤ n) : setOf n = none := by
  obtain ⟨m, rfl⟩ := Nat.exists_eq_add_of_le' h
  rfl

theorem linkRead_answers {s : State} {p : Port} {n : Nat} (hr : s.reads p (.linkRead p n)) :
    exec (.linkRead p n) s = .next
      (match groupIdx n with
       | some g => s.done p (s.linkVals g)
       | none => s.malformed p) :=
  next_congr (hr.serve _)

theorem readJournal_answers {s : State} {p : Port} {gen : Nat} (hr : s.reads p (.readJournal p gen)) :
    exec (.readJournal p gen) s = .next
      (if 64 < s.kept.generation ∧ gen < s.kept.generation - 63 then
        s.answer p .gone (s.refusalBody .none ++ [.u64 (s.kept.generation - 63)])
      else
        s.done p
          (listVals [.u64 s.kept.generation, .u16 (s.kept.journal.filter fun e => decide (gen ≤ e.generation)).length]
            ((s.kept.journal.filter fun e => decide (gen ≤ e.generation)).map journalVals))) :=
  next_congr (hr.serve _)

theorem fixedRead_answers {s : State} {p : Port} {n : Nat} (hr : s.reads p (.fixedRead p n)) :
    exec (.fixedRead p n) s = .next
      (match s.fixedIdx n with
       | some i => s.done p (s.fixedVals i)
       | none => s.malformed p) :=
  next_congr (hr.serve _)

theorem State.fixedIdx_val {s : State} {i : Fin 16} (h : i.val < s.book.fixedCount) : s.fixedIdx i.val = some i :=
  (dif_pos i.isLt).trans (if_pos h)

theorem State.fixedIdx_eq_none {s : State} {n : Nat} (h : 16 ≤ n ∨ s.book.fixedCount ≤ n) : s.fixedIdx n = none := by
  unfold State.fixedIdx
  split
  · exact if_neg (by omega)
  · rfl

/-- Settles O24. -/
theorem recordReadsAnswerTheRecords : Obligations.RecordReadsAnswerTheRecords := by
  unfold Obligations.RecordReadsAnswerTheRecords
  refine fun s p => ⟨fun hr => ?_, fun hr => ?_, fun n hr hn => ?_, fun g hr hg => ?_, fun g l hr hg => ?_, fun n hr hn => ?_,
    fun gen hr hgen => ?_, fun gen hr hgone hgen => ?_, fun i hr hi => ?_, fun n hr hn => ?_⟩
  · refine (verdictRead_answers hr).trans (next_congr (congrArg (s.answer p .done) ?_))
    rw [State.verdictReadVals]
    cases s.vol.liveVerdict <;> rfl
  · refine (verdictRead_answers hr).trans (next_congr (congrArg (s.answer p .done) ?_))
    rw [State.verdictReadVals]
    cases s.vol.planVerdict <;> rfl
  · rw [verdictRead_answers hr, setOf_eq_none hn]; rfl
  · rw [linkRead_answers hr, groupIdx_val_add_one]
    refine next_congr (congrArg (s.answer p .done) ?_)
    rw [State.linkVals, hg]
    rfl
  · rw [linkRead_answers hr, groupIdx_val_add_one]
    refine next_congr (congrArg (s.answer p .done) ?_)
    simp only [State.linkVals, hg]
    cases l.staged <;> rfl
  · rw [linkRead_answers hr, groupIdx_eq_none hn]; rfl
  · rw [readJournal_answers hr, if_neg (by omega)]; rfl
  · rw [readJournal_answers hr, if_pos ⟨hgone, hgen⟩]; rfl
  · rw [fixedRead_answers hr, State.fixedIdx_val hi]; rfl
  · rw [fixedRead_answers hr, State.fixedIdx_eq_none hn]; rfl

/-! ### Cranes, ports and tallies (R14, R162, R169, R176, R183) -/

theorem craneRead_answers {s : State} {p : Port} {n : Nat} (hr : s.reads p (.craneRead p n)) (hn : s.craneMayRead p n) :
    exec (.craneRead p n) s = .next
      (match s.craneFor n with
       | some c => s.done p (s.craneVals c)
       | none => s.malformed p) :=
  next_congr (hr.serve_crane hn _)

theorem craneIdx_val (c : CraneNo) : craneIdx (c.val + 1) = some c := by
  have : 1 ≤ c.val + 1 ∧ c.val + 1 ≤ 4 := by omega
  simp [craneIdx, this]

theorem State.craneFor_val {s : State} {c : CraneNo} (h : c.val + 1 ≤ s.book.craneCount) : s.craneFor (c.val + 1) = some c := by
  rw [State.craneFor, craneIdx_val]
  exact if_pos (decide_eq_true h)

/-- A number that names no crane of the book (R9, R143). -/
theorem State.craneFor_eq_none {s : State} {n : Nat} (h : n = 0 ∨ 5 ≤ n ∨ s.book.craneCount < n) : s.craneFor n = none := by
  unfold State.craneFor craneIdx
  split
  · have absent : ¬ s.book.craneCount ≥ n := by omega
    refine if_neg fun hc => absent ?_
    have := of_decide_eq_true hc
    simp only [craneNum] at this
    omega
  · rfl

theorem portIdx_val (q : Port) : portIdx q.val = some q := dif_pos q.isLt

theorem portIdx_eq_none {n : Nat} (h : 6 ≤ n) : portIdx n = none := dif_neg (by omega)

theorem portStatus_answers {s : State} {p : Port} {n : Nat} (hr : s.readsOpenly p (.portStatus p n)) :
    exec (.portStatus p n) s = .next
      (match portIdx n with
       | none => s.malformed p
       | some q => (if q = p then s.onPort p fun r => { r with dropped := false } else s).done p (s.portStatusVals q)) :=
  next_congr (hr.serve _)

/-- Settles O25. -/
theorem stationReadsAnswerTheRecords : Obligations.StationReadsAnswerTheRecords := by
  unfold Obligations.StationReadsAnswerTheRecords
  refine fun s p => ⟨fun c hr hm hc => ?_, fun n hr hm hn => ?_, fun hr hf => ?_, fun f hr hf => ?_, fun q hr => ?_, fun n hr hn => ?_,
    fun i hr hmay => ?_⟩
  · rw [craneRead_answers hr hm, State.craneFor_val hc]; rfl
  · rw [craneRead_answers hr hm, State.craneFor_eq_none hn]; rfl
  · exact next_congr ((hr.serve _).trans (congrArg (fun f => s.answer p .done (accessFaultVals f)) hf))
  · exact next_congr ((hr.serve _).trans (congrArg (fun f => s.answer p .done (accessFaultVals f)) hf))
  · rw [portStatus_answers hr, portIdx_val]; rfl
  · rw [portStatus_answers hr, portIdx_eq_none hn]; rfl
  · obtain ⟨hs, hmay'⟩ := hr
    have passed : s.part = .commission ∨ (s.part = .service ∧ s.tallyGate i.val p = none) :=
      hmay'.imp_right fun ⟨hp, hrole⟩ => ⟨hp, (State.tallyGate_used hrole).trans (if_pos (hmay hp))⟩
    exact (exec_readTally s p i).trans (next_congr (State.serve_read hs passed _))

end Sys2Proof.Machine
end

section
/-!
PROOF. The writing and accepting of the book (R17, R18): a record that fits is its entry's fields, and the written entry reads
back as that record.
-/
namespace Sys2Proof.Machine

/-! ### The fields that a record's bytes spell (R165) -/

theorem foldl_natOf (bs : List Byte) (acc : Nat) :
    bs.foldl (fun (acc : Nat) (b : Byte) => acc * 256 + b.toNat) acc = acc * 256 ^ bs.length + natOf bs := by
  induction bs generalizing acc with
  | nil => simp [natOf]
  | cons b bs ih =>
    rw [natOf, List.foldl_cons, List.foldl_cons, ih, ih (0 * 256 + b.toNat), List.length_cons, Nat.pow_succ, Nat.zero_mul,
      Nat.zero_add, Nat.add_mul, Nat.mul_assoc, Nat.mul_comm 256 (256 ^ bs.length)]
    omega

theorem natOf_cons (b : Byte) (bs : List Byte) : natOf (b :: bs) = b.toNat * 256 ^ bs.length + natOf bs := by
  rw [natOf, List.foldl_cons, foldl_natOf, Nat.zero_mul, Nat.zero_add]

theorem natOf_lt (bs : List Byte) : natOf bs < 256 ^ bs.length := by
  induction bs with
  | nil => simp [natOf]
  | cons b bs ih =>
    have hb : b.toNat + 1 ≤ 256 := b.isLt
    calc natOf (b :: bs) < b.toNat * 256 ^ bs.length + 256 ^ bs.length := by rw [natOf_cons]; omega
      _ = (b.toNat + 1) * 256 ^ bs.length := (Nat.add_one_mul _ _).symm
      _ ≤ 256 * 256 ^ bs.length := Nat.mul_le_mul_right _ hb
      _ = 256 ^ (b :: bs).length := by rw [List.length_cons, Nat.pow_succ, Nat.mul_comm]

/-- Only the last `k` digits make `k` bytes. -/
theorem bytesOf_add_mul (k a n : Nat) : bytesOf k (a * 256 ^ k + n) = bytesOf k n := by
  induction k generalizing a with
  | zero => rfl
  | succ k ih =>
    have shift : a * 256 ^ (k + 1) + n = a * 256 * 256 ^ k + n := by rw [Nat.pow_succ, Nat.mul_comm (256 ^ k) 256, Nat.mul_assoc]
    have digit : (a * 256 * 256 ^ k + n) / 256 ^ k = n / 256 ^ k + a * 256 := by
      rw [Nat.add_comm, Nat.add_mul_div_right _ _ (Nat.pow_pos (by decide))]
    have byte : BitVec.ofNat 8 (n / 256 ^ k + a * 256) = BitVec.ofNat 8 (n / 256 ^ k) :=
      BitVec.eq_of_toNat_eq (by simp [BitVec.toNat_ofNat])
    rw [bytesOf, bytesOf, shift, ih, digit, byte]

theorem bytesOf_natOf (bs : List Byte) : bytesOf bs.length (natOf bs) = bs := by
  induction bs with
  | nil => rfl
  | cons b bs ih =>
    have digit : (b.toNat * 256 ^ bs.length + natOf bs) / 256 ^ bs.length = b.toNat := by
      rw [Nat.add_comm, Nat.add_mul_div_right _ _ (Nat.pow_pos (by decide)), Nat.div_eq_of_lt (natOf_lt bs), Nat.zero_add]
    rw [List.length_cons, bytesOf, natOf_cons, digit, bytesOf_add_mul, ih, BitVec.ofNat_toNat, BitVec.setWidth_eq]

/-- The four bytes of a signed number are those it was read from. -/
theorem bytesOfInt_signed32 {bs : List Byte} (h : bs.length = 4) : bytesOfInt (signed32 (natOf bs)) = bs := by
  have hlt := natOf_lt bs
  have back := bytesOf_natOf bs
  rw [h] at hlt back
  have range : -2147483648 ≤ signed32 (natOf bs) ∧ signed32 (natOf bs) < 2147483648 := by
    unfold signed32; split <;> omega
  have pattern : (signed32 (natOf bs) % 4294967296).toNat = natOf bs := by
    unfold signed32; split <;> omega
  rw [bytesOfInt, if_pos range, pattern, back]

/-- What a reader takes from the front of some bytes. -/
theorem takeBytes_eq_some {k : Nat} {bs front rest : List Byte} (h : takeBytes k bs = some (front, rest)) :
    front.length = k ∧ bs = front ++ rest := by
  unfold takeBytes at h
  split at h
  · cases h
    exact ⟨List.length_take_of_le ‹_›, (List.take_append_drop k bs).symm⟩
  · cases h

theorem readNat_eq_some {k n : Nat} {bs rest : List Byte} (h : readNat k bs = some (n, rest)) :
    ∃ front, front.length = k ∧ bs = front ++ rest ∧ n = natOf front := by
  obtain ⟨⟨front, r⟩, hf, hr⟩ := Option.bind_eq_some_iff.1 h
  obtain ⟨hlen, hbs⟩ := takeBytes_eq_some hf
  cases hr
  exact ⟨front, hlen, hbs, rfl⟩

/-- The field that a type reads from a list of fields (R165). -/
def fieldAt (vs : List Val) (k : Nat) : FieldTy → Val
  | .u8 => .u8 (natAt vs k)
  | .u16 => .u16 (natAt vs k)
  | .u32 => .u32 (natAt vs k)
  | .u64 => .u64 (natAt vs k)
  | .i32 => .i32 (intAt vs k)
  | .text => .text (valText (vs.getD k (.text [])))

/-- The fields that a list of types reads from field `k` on. -/
def fieldsAt (vs : List Val) : Nat → List FieldTy → List Val
  | _, [] => []
  | k, t :: ts => fieldAt vs k t :: fieldsAt vs (k + 1) ts

/-- A number that a reader has taken is encoded by the bytes it was read from. -/
theorem bytesOf_of_readNat {k n : Nat} {bs rest : List Byte} (h : readNat k bs = some (n, rest)) : bs = bytesOf k n ++ rest := by
  obtain ⟨front, hlen, hbs, rfl⟩ := readNat_eq_some h
  rw [hbs, ← hlen, bytesOf_natOf]

/-- A field that was read has its type and its bytes. -/
theorem readVal_eq_some {t : FieldTy} {v : Val} {bs rest : List Byte} (h : readVal t bs = some (v, rest)) :
    bs = encodeVal v ++ rest ∧ ∀ pre post, fieldAt (pre ++ v :: post) pre.length t = v := by
  cases t with
  | i32 =>
    obtain ⟨⟨z, r⟩, hz, hv⟩ := Option.bind_eq_some_iff.1 h
    obtain ⟨⟨n, r'⟩, hn, hz⟩ := Option.bind_eq_some_iff.1 hz
    obtain ⟨front, hlen, hbs, rfl⟩ := readNat_eq_some hn
    cases hz
    cases hv
    exact ⟨by rw [hbs, encodeVal, bytesOfInt_signed32 hlen], fun pre post => by simp [fieldAt, intAt, valInt]⟩
  | text =>
    obtain ⟨⟨text, r⟩, ht, hv⟩ := Option.bind_eq_some_iff.1 h
    obtain ⟨⟨n, r'⟩, hn, ht⟩ := Option.bind_eq_some_iff.1 ht
    obtain ⟨hlen, hr⟩ := takeBytes_eq_some ht
    have hbs := bytesOf_of_readNat hn
    cases hv
    refine ⟨?_, fun pre post => by simp [fieldAt, valText]⟩
    rw [hbs, hr, bytesOf_one, encodeVal, hlen]
    rfl
  | _ =>
    obtain ⟨⟨n, r⟩, hn, hv⟩ := Option.bind_eq_some_iff.1 h
    have hbs := bytesOf_of_readNat hn
    cases hv
    exact ⟨hbs, fun pre post => by simp [fieldAt, natAt, valNat]⟩

/-- Fields that were read are those that their types read from them, and encode as the bytes they were read from. -/
theorem readVals_eq_some {ts : List FieldTy} {vs : List Val} {bs rest : List Byte} (h : readVals ts bs = some (vs, rest)) :
    bs = encodeVals vs ++ rest ∧ ∀ pre, fieldsAt (pre ++ vs) pre.length ts = vs := by
  induction ts generalizing bs vs rest with
  | nil => cases h; exact ⟨rfl, fun _ => rfl⟩
  | cons t ts ih =>
    obtain ⟨⟨v, r⟩, hv, h⟩ := Option.bind_eq_some_iff.1 h
    obtain ⟨⟨us, r'⟩, hus, h⟩ := Option.bind_eq_some_iff.1 h
    cases h
    obtain ⟨hbs, hfield⟩ := readVal_eq_some hv
    obtain ⟨hr, hfields⟩ := ih hus
    refine ⟨by rw [hbs, hr, encodeVals_cons, List.append_assoc], fun pre => ?_⟩
    have tail := hfields (pre ++ [v])
    rw [List.append_assoc, List.length_append] at tail
    exact congr (congrArg List.cons (hfield pre us)) tail

/-- A record that fits its entry is the bytes of its fields, each of its type (R17, R165). -/
theorem recordVals_eq_some {sect entry : Nat} {record : List Byte} {vs : List Val} (h : recordVals sect entry record = some vs) :
    encodeVals vs = record ∧ ∃ ts, recordTypes sect entry = some ts ∧ fieldsAt vs 0 ts = vs := by
  obtain ⟨ts, hts, hread⟩ := Option.bind_eq_some_iff.1 h
  unfold readAll at hread
  split at hread
  · cases hread
    obtain ⟨hbs, hfields⟩ := readVals_eq_some ‹_›
    exact ⟨by rw [hbs, List.append_nil], ts, hts, hfields []⟩
  · cases hread

/-! ### A record of its fields (R3 to R12) -/

theorem fieldsAt_append (vs : List Val) (k : Nat) (ts us : List FieldTy) :
    fieldsAt vs k (ts ++ us) = fieldsAt vs k ts ++ fieldsAt vs (k + ts.length) us := by
  induction ts generalizing k with
  | nil => rfl
  | cons t ts ih => rw [List.cons_append, fieldsAt, fieldsAt, ih, List.length_cons, List.cons_append, Nat.add_assoc, Nat.add_comm 1]

/-- Fields of one type in a row. -/
theorem fieldsAt_replicate (vs : List Val) (k n : Nat) (t : FieldTy) :
    fieldsAt vs k (List.replicate n t) = List.ofFn fun j : Fin n => fieldAt vs (k + j) t := by
  induction n generalizing k with
  | zero => rfl
  | succ n ih =>
    rw [List.replicate_succ, fieldsAt, ih, List.ofFn_succ]
    simp [Nat.add_assoc, Nat.add_comm 1]

/-- A vector of the fields of one type. -/
theorem toList_ofFn_fields {α : Type} (vs : List Val) (k n : Nat) (t : FieldTy) (read : Nat → α) (val : α → Val)
    (h : ∀ j, val (read j) = fieldAt vs j t) :
    (Vector.ofFn fun j : Fin n => read (k + j)).toList.map val = fieldsAt vs k (List.replicate n t) := by
  rw [fieldsAt_replicate, Vector.toList_ofFn, List.map_ofFn]
  exact congrArg List.ofFn (funext fun j => h _)

/-- A record of some fields and a row of fields of one type. -/
theorem fieldsAt_append_row {α : Type} (vs : List Val) {ts : List FieldTy} {k n : Nat} {t : FieldTy} {read : Nat → α} {val : α → Val}
    (hk : ts.length = k) (h : ∀ j, val (read j) = fieldAt vs j t) :
    fieldsAt vs 0 ts ++ (Vector.ofFn fun j : Fin n => read (k + j)).toList.map val = fieldsAt vs 0 (ts ++ List.replicate n t) := by
  rw [fieldsAt_append, hk, Nat.zero_add, toList_ofFn_fields vs k n t read val h]

theorem ints_add (m n : Nat) : ints (m + n) = ints m ++ List.replicate n .i32 := List.replicate_append_replicate.symm

theorem Hull.vals_ofVals (vs : List Val) : (Hull.ofVals vs).vals = fieldsAt vs 0 (ints 26) :=
  (fieldsAt_append_row vs (ts := ints 5) rfl fun _ => rfl).trans (congrArg _ (ints_add 5 21).symm)

theorem HydroRow.vals_ofVals (vs : List Val) : (HydroRow.ofVals vs).vals = fieldsAt vs 0 (ints 28) :=
  (fieldsAt_append_row vs (ts := ints 7) rfl fun _ => rfl).trans (congrArg _ (ints_add 7 21).symm)

theorem CrossRow.vals_ofVals (vs : List Val) : (CrossRow.ofVals vs).vals = fieldsAt vs 0 (ints 10) :=
  (fieldsAt_append_row vs (ts := ints 1) rfl fun _ => rfl).trans (congrArg _ (ints_add 1 9).symm)

theorem ChannelsBook.vals_ofVals (vs : List Val) :
    (ChannelsBook.ofVals vs).vals = fieldsAt vs 0 (ints 4 ++ List.replicate 39 .u8) :=
  fieldsAt_append_row vs (ts := ints 4) rfl fun _ => rfl

theorem trim_vals (vs : List Val) :
    (Vector.ofFn fun k : Fin 21 => intAt vs k).toList.map Val.i32 = fieldsAt vs 0 (ints 21) := by
  have h := toList_ofFn_fields vs 0 21 .i32 (intAt vs) .i32 fun _ => rfl
  simp only [Nat.zero_add] at h
  exact h

theorem segregation_vals (vs : List Val) :
    (Vector.ofFn fun k : Fin 81 => natAt vs k).toList.map Val.u8 = fieldsAt vs 0 (List.replicate 81 .u8) := by
  have h := toList_ofFn_fields vs 0 81 .u8 (natAt vs) .u8 fun _ => rfl
  simp only [Nat.zero_add] at h
  exact h

/-! ### Counted sections (R1, R17) -/

/-- A section of a count and its rows, read at an entry. -/
def countedRead {α : Type} {n : Nat} (count : Nat) (rows : Vector α n) (vals : α → List Val) (entry : Nat) : Option (List Val) :=
  if entry = 0 then some [.u16 count] else rows[entry - 1]?.map vals

section Counted
variable {α : Type} {n : Nat} (count : Nat) (rows : Vector α n) (vals : α → List Val) (entry : Nat) (vs : List Val) (row : α)

/-- The section with its count, or one of its rows, replaced. -/
def countedWrite : Nat × Vector α n :=
  if entry = 0 then (natAt vs 0, rows) else (count, rows.setIfInBounds (entry - 1) row)

/-- The written entry reads back, the count or a row that spells the fields. -/
theorem countedRead_self {ts us : List FieldTy}
    (hts : (if entry = 0 then some [.u16] else if entry ≤ n then some us else none) = some ts) (hvs : fieldsAt vs 0 ts = vs)
    (hrow : vals row = fieldsAt vs 0 us) :
    countedRead (countedWrite count rows entry vs row).1 (countedWrite count rows entry vs row).2 vals entry = some vs := by
  unfold countedRead countedWrite
  by_cases h0 : entry = 0
  · rw [if_pos h0] at hts ⊢
    cases hts
    rw [if_pos h0]
    exact congrArg some hvs
  · rw [if_neg h0] at hts ⊢
    split at hts
    · cases hts
      have hlt : entry - 1 < n := by omega
      rw [if_neg h0, Vector.getElem?_setIfInBounds_self_of_lt hlt, Option.map_some, hrow, hvs]
    · cases hts

theorem countedRead_other {entry' : Nat} (h : entry' ≠ entry) :
    countedRead (countedWrite count rows entry vs row).1 (countedWrite count rows entry vs row).2 vals entry' =
      countedRead count rows vals entry' := by
  unfold countedRead countedWrite
  by_cases h0 : entry' = 0
  · rw [if_pos h0, if_pos h0, if_neg (fun h1 : entry = 0 => h (h0.trans h1.symm))]
  · rw [if_neg h0, if_neg h0]
    by_cases h1 : entry = 0
    · rw [if_pos h1]
    · rw [if_neg h1, Vector.getElem?_setIfInBounds_ne (by omega)]

end Counted

theorem Book.read_write_hydro (b : Book) (entry : Nat) (vs : List Val) (entry' : Nat) :
    (b.write 2 entry vs).read 2 entry' =
      countedRead (countedWrite b.hydroCount b.hydro entry vs (HydroRow.ofVals vs)).1
        (countedWrite b.hydroCount b.hydro entry vs (HydroRow.ofVals vs)).2 HydroRow.vals entry' := by
  simp only [Book.write, countedWrite]
  split <;> rfl

theorem Book.read_write_cross (b : Book) (entry : Nat) (vs : List Val) (entry' : Nat) :
    (b.write 4 entry vs).read 4 entry' =
      countedRead (countedWrite b.crossCount b.cross entry vs (CrossRow.ofVals vs)).1
        (countedWrite b.crossCount b.cross entry vs (CrossRow.ofVals vs)).2 CrossRow.vals entry' := by
  simp only [Book.write, countedWrite]
  split <;> rfl

theorem Book.read_write_spaces (b : Book) (entry : Nat) (vs : List Val) (entry' : Nat) :
    (b.write 6 entry vs).read 6 entry' =
      countedRead (countedWrite b.spaceCount b.spaces entry vs (Space.ofVals vs)).1
        (countedWrite b.spaceCount b.spaces entry vs (Space.ofVals vs)).2 Space.vals entry' := by
  simp only [Book.write, countedWrite]
  split <;> rfl

theorem Book.read_write_cranes (b : Book) (entry : Nat) (vs : List Val) (entry' : Nat) :
    (b.write 9 entry vs).read 9 entry' =
      countedRead (countedWrite b.craneCount b.cranes entry vs (CraneBook.ofVals vs)).1
        (countedWrite b.craneCount b.cranes entry vs (CraneBook.ofVals vs)).2 CraneBook.vals entry' := by
  simp only [Book.write, countedWrite]
  split <;> rfl

theorem Book.read_write_fixed (b : Book) (entry : Nat) (vs : List Val) (entry' : Nat) :
    (b.write 13 entry vs).read 13 entry' =
      countedRead (countedWrite b.fixedCount b.fixed entry vs (FixedBook.ofVals vs)).1
        (countedWrite b.fixedCount b.fixed entry vs (FixedBook.ofVals vs)).2 FixedBook.vals entry' := by
  simp only [Book.write, countedWrite]
  split <;> rfl

/-! ### The tanks' section (R1, R7) -/

/-- One of the 25 entries of a tank. -/
def TankBook.row (t : TankBook) (part : Nat) : Option (List Val) :=
  if part = 0 then some t.consts.vals else t.points[part - 1]?.map SoundingPoint.vals

theorem TankBook.row_write_self (t : TankBook) {part : Nat} {vs : List Val} (hp : part < 25)
    (hvs : fieldsAt vs 0 (if part = 0 then ints 9 ++ [.u16] else ints 6) = vs) : (t.write part vs).row part = some vs := by
  unfold TankBook.write TankBook.row
  by_cases h0 : part = 0
  · rw [if_pos h0] at hvs
    rw [if_pos h0, if_pos h0]
    exact congrArg some hvs
  · rw [if_neg h0] at hvs
    have hlt : part - 1 < 24 := by omega
    rw [if_neg h0, if_neg h0, Vector.getElem?_setIfInBounds_self_of_lt hlt]
    exact congrArg some hvs

theorem TankBook.row_write_other (t : TankBook) {part part' : Nat} {vs : List Val} (h : part' ≠ part) :
    (t.write part vs).row part' = t.row part' := by
  unfold TankBook.write TankBook.row
  by_cases h0 : part = 0
  · rw [if_pos h0, if_neg (h0 ▸ h), if_neg (h0 ▸ h)]
  · rw [if_neg h0]
    by_cases h1 : part' = 0
    · rw [if_pos h1, if_pos h1]
    · rw [if_neg h1, if_neg h1, Vector.getElem?_setIfInBounds_ne (by omega)]

/-- An entry of the tanks' section behind its count. -/
theorem Book.read_tanks (b : Book) {entry : Nat} (h : entry ≠ 0) :
    b.read 7 entry = (b.tanks[(entry - 1) / 25]?).bind fun t => t.row ((entry - 1) % 25) := if_neg h

theorem Book.write_tanks (b : Book) {entry : Nat} (vs : List Val) (h : entry ≠ 0) {t : TankBook}
    (ht : b.tanks[(entry - 1) / 25]? = some t) :
    b.write 7 entry vs = { b with tanks := b.tanks.setIfInBounds ((entry - 1) / 25) (t.write ((entry - 1) % 25) vs) } := by
  refine (if_neg h).trans ?_
  rw [ht]

theorem Book.read_write_tanks_self (b : Book) {entry : Nat} {vs : List Val} {ts : List FieldTy} (hts : recordTypes 7 entry = some ts)
    (hvs : fieldsAt vs 0 ts = vs) : (b.write 7 entry vs).read 7 entry = some vs := by
  by_cases h0 : entry = 0
  · subst h0
    cases hts
    exact congrArg some hvs
  · have htypes : (if entry ≤ 800 then (if (entry - 1) % 25 = 0 then some (ints 9 ++ [.u16]) else some (ints 6)) else none) = some ts :=
      (if_neg h0).symm.trans hts
    split at htypes
    · have hlt : (entry - 1) / 25 < 32 := by omega
      rw [Book.write_tanks b vs h0 (Vector.getElem?_eq_getElem hlt), Book.read_tanks _ h0,
        Vector.getElem?_setIfInBounds_self_of_lt hlt, Option.bind_some]
      refine TankBook.row_write_self _ (Nat.mod_lt _ (by decide)) ?_
      split at htypes
      · cases htypes
        rw [if_pos ‹_›]
        exact hvs
      · cases htypes
        rw [if_neg ‹_›]
        exact hvs
    · cases htypes

theorem Book.read_write_tanks_other (b : Book) {entry entry' : Nat} (vs : List Val) (h : entry' ≠ entry) :
    (b.write 7 entry vs).read 7 entry' = b.read 7 entry' := by
  by_cases h0 : entry = 0
  · subst h0
    exact (if_neg h).trans (if_neg h).symm
  · rcases ht : b.tanks[(entry - 1) / 25]? with _ | t
    · have same : b.write 7 entry vs = b := by
        refine (if_neg h0).trans ?_
        rw [ht]
      rw [same]
    · rw [Book.write_tanks b vs h0 ht]
      by_cases h1 : entry' = 0
      · subst h1; rfl
      · rw [Book.read_tanks _ h1, Book.read_tanks _ h1]
        obtain ⟨hlt, -⟩ := Vector.getElem?_eq_some_iff.1 ht
        by_cases hsame : (entry' - 1) / 25 = (entry - 1) / 25
        · have parts : (entry' - 1) % 25 ≠ (entry - 1) % 25 := by omega
          rw [hsame, Vector.getElem?_setIfInBounds_self_of_lt hlt, ht, Option.bind_some, Option.bind_some,
            TankBook.row_write_other _ parts]
        · rw [Vector.getElem?_setIfInBounds_ne (Ne.symm hsame)]

/-! ### The book (R17) -/

section Whole
variable (b : Book) {sect entry : Nat} {vs : List Val}

/-- The written entry reads back as the record's fields. -/
theorem Book.read_write_self {ts : List FieldTy} (hts : recordTypes sect entry = some ts) (hvs : fieldsAt vs 0 ts = vs) :
    (b.write sect entry vs).read sect entry = some vs := by
  have only {us : List FieldTy} {rs : List Val} (h : (if entry = 0 then some us else none) = some ts) (hr : rs = fieldsAt vs 0 us) :
      (if entry = 0 then some rs else none) = some vs := by
    split at h
    · cases h
      rw [if_pos ‹_›, hr, hvs]
    · cases h
  have rows {α : Type} {n : Nat} {v : Vector α n} {row : α} {vals : α → List Val} {us : List FieldTy}
      (h : (if entry ≤ n - 1 then some us else none) = some ts) (hn : 0 < n) (hr : vals row = fieldsAt vs 0 us) :
      (v.setIfInBounds entry row)[entry]?.map vals = some vs := by
    split at h
    · cases h
      have hlt : entry < n := by omega
      rw [Vector.getElem?_setIfInBounds_self_of_lt hlt, Option.map_some, hr, hvs]
    · cases h
  match sect with
  | 1 => exact only hts (Hull.vals_ofVals vs)
  | 2 => rw [Book.read_write_hydro]; exact countedRead_self _ _ _ _ _ _ hts hvs (HydroRow.vals_ofVals vs)
  | 3 => exact only hts (trim_vals vs)
  | 4 => rw [Book.read_write_cross]; exact countedRead_self _ _ _ _ _ _ hts hvs (CrossRow.vals_ofVals vs)
  | 5 => exact rows (row := FrameStation.ofVals vs) hts (by decide) rfl
  | 6 => rw [Book.read_write_spaces]; exact countedRead_self _ _ _ _ _ _ hts hvs rfl
  | 7 => exact b.read_write_tanks_self hts hvs
  | 8 => exact only hts (ChannelsBook.vals_ofVals vs)
  | 9 => rw [Book.read_write_cranes]; exact countedRead_self _ _ _ _ _ _ hts hvs rfl
  | 10 => exact only hts rfl
  | 11 => exact only hts (segregation_vals vs)
  | 12 => exact rows (row := PortBook.ofVals vs) hts (by decide) rfl
  | 13 => rw [Book.read_write_fixed]; exact countedRead_self _ _ _ _ _ _ hts hvs rfl
  | 0 => cases hts
  | n + 14 => cases hts

/-- Another section reads as before. -/
theorem Book.read_write_section {sect' entry' : Nat} (h : sect' ≠ sect) : (b.write sect entry vs).read sect' entry' = b.read sect' entry' := by
  unfold Book.write
  repeat' split
  all_goals
    unfold Book.read
    split <;> trivial

/-- Another entry of the section reads as before. -/
theorem Book.read_write_entry {entry' : Nat} {ts : List FieldTy} (hts : recordTypes sect entry = some ts) (h : entry' ≠ entry) :
    (b.write sect entry vs).read sect entry' = b.read sect entry' := by
  have only {us : List FieldTy} {rs qs : List Val} (ht : (if entry = 0 then some us else none) = some ts) :
      (if entry' = 0 then some rs else none) = (if entry' = 0 then some qs else none) := by
    split at ht
    · rw [if_neg (by omega), if_neg (by omega)]
    · cases ht
  have rows {α : Type} {n : Nat} {v : Vector α n} (row : α) {vals : α → List Val} :
      (v.setIfInBounds entry row)[entry']?.map vals = v[entry']?.map vals := by
    rw [Vector.getElem?_setIfInBounds_ne (Ne.symm h)]
  match sect with
  | 1 => exact only hts
  | 2 => rw [Book.read_write_hydro]; exact countedRead_other _ _ _ _ _ _ h
  | 3 => exact only hts
  | 4 => rw [Book.read_write_cross]; exact countedRead_other _ _ _ _ _ _ h
  | 5 => exact rows (FrameStation.ofVals vs)
  | 6 => rw [Book.read_write_spaces]; exact countedRead_other _ _ _ _ _ _ h
  | 7 => exact b.read_write_tanks_other vs h
  | 8 => exact only hts
  | 9 => rw [Book.read_write_cranes]; exact countedRead_other _ _ _ _ _ _ h
  | 10 => exact only hts
  | 11 => exact only hts
  | 12 => exact rows (PortBook.ofVals vs)
  | 13 => rw [Book.read_write_fixed]; exact countedRead_other _ _ _ _ _ _ h
  | 0 => cases hts
  | n + 14 => cases hts

end Whole

/-- A request of the book's writing is served in COMMISSION. -/
theorem State.commissions.serve {s : State} {p : Port} {c : Instr} (h : s.commissions p c) (gate : State → Option Breach)
    (block : State → State) : s.serve p c .book gate block = block s :=
  s.serve_commission p c _ _ _ h.2 h.1 (by decide)

/-- Settles O26: a record that fits is its entry's fields, the written entry reads back, and every other entry stands. -/
theorem bookWriteStoresTheRecord : Obligations.BookWriteStoresTheRecord := by
  unfold Obligations.BookWriteStoresTheRecord
  refine fun s p sect entry record h => ⟨fun vs hvs => ?_, fun hnone => next_congr ((h.serve _ _).trans ?_)⟩
  · obtain ⟨hbytes, ts, hts, hfields⟩ := recordVals_eq_some hvs
    refine ⟨hbytes, next_congr ((h.serve _ _).trans ?_), s.book.read_write_self hts hfields, fun sect' entry' hne => ?_⟩
    · rw [hvs]; rfl
    · by_cases hsect : sect' = sect
      · subst hsect
        exact s.book.read_write_entry hts fun he => hne (by rw [he])
      · exact s.book.read_write_section hsect
  · rw [hnone]; rfl

/-- Settles O27: the first failing check is answered and kept; a book that passes is accepted and SERVICE entered. -/
theorem bookAcceptChecksAndEntersService : Obligations.BookAcceptChecksAndEntersService := by
  unfold Obligations.BookAcceptChecksAndEntersService
  refine fun s p h => ⟨fun sect entry code hcheck => next_congr ((h.serve _ _).trans ?_), fun hcheck => ?_⟩
  · rw [State.bookAccepted, hcheck]; rfl
  · refine ⟨s.acceptBook.enterService, next_congr ((h.serve _ _).trans ?_), ?_⟩
    · rw [State.bookAccepted, hcheck]
    · rfl

end Sys2Proof.Machine
end

section
/-!
PROOF. The officer's register requests (R20, R101, R123, R169, R174, R181, R182), and what a tally counts (R179, R180).
-/
namespace Sys2Proof.Machine

/-! ### Masks -/

/-- A mask of the low `k` bits keeps the remainder by `2 ^ k`. -/
theorem ofNat_and_low {w : Nat} (n k : Nat) : BitVec.ofNat w n &&& BitVec.ofNat w (2 ^ k - 1) = BitVec.ofNat w (n % 2 ^ k) := by
  apply BitVec.eq_of_getLsbD_eq
  intro i hi
  simp only [BitVec.getLsbD_and, BitVec.getLsbD_ofNat, Nat.testBit_two_pow_sub_one, Nat.testBit_mod_two_pow, hi, decide_true,
    Bool.true_and]
  exact Bool.and_comm ..

theorem sixBits_and (n : Nat) : BitVec.ofNat 8 n &&& sixBits = BitVec.ofNat 8 (n % 64) := ofNat_and_low n 6

theorem subscriptionBits_and (n : Nat) : BitVec.ofNat 16 n &&& subscriptionBits = BitVec.ofNat 16 (n % 32768) :=
  ofNat_and_low n 15

/-! ### The register requests -/

section Registers
variable {s : State} {p : Port}

theorem captureModeOf_code (m : CaptureMode) : captureModeOf (captureModeCode m) = some m := by cases m <;> rfl

theorem captureModeOf_eq_none {n : Nat} (h : 2 ≤ n) : captureModeOf n = none := by
  obtain ⟨m, rfl⟩ := Nat.exists_eq_add_of_le' h
  rfl

theorem conditionModeOf_code (m : ConditionMode) : conditionModeOf (conditionModeCode m) = some m := by cases m <;> rfl

theorem conditionModeOf_eq_none {n : Nat} (h : 2 ≤ n) : conditionModeOf n = none := by
  obtain ⟨m, rfl⟩ := Nat.exists_eq_add_of_le' h
  rfl

theorem exec_captureMode {n : Nat} (h : s.asks p (.captureMode p n) [.officer]) :
    exec (.captureMode p n) s = .next
      (match captureModeOf n with
       | none => s.malformed p
       | some m => State.done { s with vol.capture := { mode := m, held := none } } p
          (.u8 (captureModeCode m) :: captureVals s.vol.capture.held)) :=
  next_congr (State.serve_onlyRoles h)

theorem exec_subscribe {n : Nat} (h : s.asks p (.subscribe p n) usedRoles) :
    exec (.subscribe p n) s = .next
      ((s.onPort p fun q => { q with subscription := BitVec.ofNat 16 n &&& subscriptionBits }).done p
        [.u16 (BitVec.ofNat 16 n &&& subscriptionBits).toNat]) := by
  obtain ⟨hp, hs, hr⟩ := h
  exact next_congr (s.serve_service p _ _ _ _ hs hp (by decide) (State.anyRole_eq_none hr _))

theorem exec_tallyControl {n : Nat} {c : ControlFields} (h : s.asks p (.tallyControl p n c) [.officer]) :
    exec (.tallyControl p n c) s = .next
      (match tallyIdx n, controlOk c with
       | some i, true => (s.onTally i fun y => { y with control := storedControl c }).done p (storedControl c).vals
       | _, _ => s.malformed p) :=
  next_congr (State.serve_onlyRoles h)

theorem exec_tallySet {n v : Nat} (h : s.asks p (.tallySet p n v) [.officer]) :
    exec (.tallySet p n v) s = .next
      (match tallyIdx n with
       | none => s.malformed p
       | some i => (s.onTally i fun y => { y with value := v, overflow := false }).done p
          [.u32 s.vol.tallies[i.val].value, flagVal s.vol.tallies[i.val].overflow]) :=
  next_congr (State.serve_onlyRoles h)

theorem exec_conditionMode {n : Nat} (h : s.asks p (.conditionMode p n) [.officer]) :
    exec (.conditionMode p n) s = .next
      (match conditionModeOf n with
       | none => s.malformed p
       | some m =>
        ((if s.kept.mode = m then s else (s.setKept { s.kept with mode := m }).pendLive.pendPlan).done p
          [.u8 (conditionModeCode m)]).settle) :=
  next_congr (State.serve_onlyRoles h)

theorem exec_conditionConfirm (h : s.asks p (.conditionConfirm p) [.officer]) :
    exec (.conditionConfirm p) s = .next
      ((if s.kept.notEstablished then (s.setKept { s.kept with notEstablished := false }).pendLive.pendPlan else s).done p []).settle :=
  next_congr (State.serve_onlyRoles h)

end Registers

theorem controlOk_iff (c : ControlFields) : controlOk c = true ↔ c.cls ≤ 7 ∧ c.inhibit ≤ 1 ∧ c.notice ≤ 1 := by
  simp [controlOk, and_assoc]

/-- The control that is stored has the bits that name something (R181). -/
theorem storedControl_eq (c : ControlFields) :
    storedControl c =
      { cls := c.cls
        subevents := BitVec.ofNat 8 c.subevents &&& subeventBits c.cls
        roles := BitVec.ofNat 8 (c.roles % 64)
        groups := BitVec.ofNat 8 (c.groups % 64)
        inhibit := decide (c.inhibit = 1)
        notice := decide (c.notice = 1)
        readable := BitVec.ofNat 8 (c.readable % 64) } := by
  simp only [storedControl, sixBits_and]
  rfl

/-- Settles O46, request by request. -/
theorem registerRequestsSetAndShow : Obligations.RegisterRequestsSetAndShow := by
  unfold Obligations.RegisterRequestsSetAndShow
  refine fun s p => ⟨fun h => next_congr (State.serve_onlyRoles h), fun m h => ?_, fun n h hn => ?_,
    fun h => next_congr (State.serve_onlyRoles h), fun mask h => ?_, fun i c h hcls hinhibit hnotice => ?_, fun n c h hbad => ?_,
    fun i v h => ?_, fun n v h hn => ?_, fun m h => ⟨fun hm => ?_, fun hm => ?_⟩, fun n h hn => ?_,
    fun h => ⟨fun hc => ?_, fun hc => ?_⟩⟩
  · rw [exec_captureMode h, captureModeOf_code]; rfl
  · rw [exec_captureMode h, captureModeOf_eq_none hn]; rfl
  · have small : mask % 32768 % 2 ^ 16 = mask % 32768 := Nat.mod_eq_of_lt (by omega)
    rw [exec_subscribe h, subscriptionBits_and, BitVec.toNat_ofNat, small]; rfl
  · rw [exec_tallyControl h, tallyIdx_val, (controlOk_iff c).2 ⟨hcls, hinhibit, hnotice⟩, storedControl_eq]; rfl
  · rw [exec_tallyControl h]
    rcases Nat.lt_or_ge n 8 with hn | hn
    · have bad : controlOk c = false := Bool.eq_false_iff.2 fun hok => by
        obtain ⟨hcls, hinhibit, hnotice⟩ := (controlOk_iff c).1 hok
        omega
      rw [bad, tallyIdx_val ⟨n, hn⟩]; rfl
    · rw [tallyIdx_eq_none hn]; rfl
  · rw [exec_tallySet h, tallyIdx_val]; rfl
  · rw [exec_tallySet h, tallyIdx_eq_none hn]; rfl
  · rw [exec_conditionMode h, conditionModeOf_code]
    dsimp only
    rw [if_pos hm]; rfl
  · rw [exec_conditionMode h, conditionModeOf_code]
    dsimp only
    rw [if_neg hm]; rfl
  · rw [exec_conditionMode h, conditionModeOf_eq_none hn]; rfl
  · rw [exec_conditionConfirm h, hc]; rfl
  · rw [exec_conditionConfirm h, hc]; rfl

/-! ### Tallies (R179, R180) -/

theorem Tally.matchesEvent_iff (y : Tally) (e : TallyEvent) :
    y.matchesEvent e = true ↔
      y.control.inhibit = false ∧ y.control.cls = classCode e.cls ∧ y.control.subevents.getLsbD e.sub = true ∧
      (∀ r, e.role = some r → ∃ bit, roleBit r = some bit ∧ y.control.roles.getLsbD bit = true) ∧
      (∀ g, e.group = some g → 1 ≤ g ∧ y.control.groups.getLsbD (g - 1) = true) := by
  have role (r : Role) : roleIn y.control.roles r = true ↔ ∃ bit, roleBit r = some bit ∧ y.control.roles.getLsbD bit = true := by
    unfold roleIn
    cases roleBit r <;> simp
  cases hr : e.role <;> cases hg : e.group <;> simp [Tally.matchesEvent, hr, hg, role, and_assoc]

theorem Tally.add_of_le {y : Tally} {n : Nat} (h : y.value + n ≤ 4294967295) : y.add n = { y with value := y.value + n } :=
  if_pos (Nat.lt_succ_of_le h)

theorem Tally.add_of_gt {y : Tally} {n : Nat} (h : 4294967295 < y.value + n) :
    y.add n = { y with value := y.value + n - 4294967296, overflow := true } :=
  if_neg (Nat.not_lt.2 h)

section Offers
variable (s : State) (e : TallyEvent)

theorem State.offer_tally (c : Counting) (i j : Fin 8) :
    (s.offer e c i).tallies[j.val] = if j = i then c.tallies[j.val].offered e else c.tallies[j.val] := by
  unfold State.offer
  by_cases hm : c.tallies[i.val].matchesEvent e = true
  · rw [if_pos hm]
    by_cases hij : j = i
    · subst hij
      simp [Tally.offered, hm]
    · have : i.val ≠ j.val := fun h => hij (Fin.ext h.symm)
      simp [hij, this]
  · rw [if_neg hm]
    by_cases hij : j = i
    · subst hij
      simp [Tally.offered, hm]
    · simp [hij]

/-- Tallies offered in turn, each at most once. -/
theorem State.offers_tally (c : Counting) (l : List (Fin 8)) (hl : l.Nodup) (j : Fin 8) :
    (l.foldl (s.offer e) c).tallies[j.val] = if j ∈ l then c.tallies[j.val].offered e else c.tallies[j.val] := by
  induction l generalizing c with
  | nil => simp
  | cons i l ih =>
    obtain ⟨hi, hl⟩ := List.nodup_cons.1 hl
    rw [List.foldl_cons, ih _ hl, State.offer_tally]
    by_cases hij : j = i
    · subst hij
      simp [hi]
    · simp [hij]

theorem State.offerAll_tally (c : Counting) (j : Fin 8) : (s.offerAll c e).tallies[j.val] = c.tallies[j.val].offered e :=
  (s.offers_tally e c _ (List.nodup_finRange 8) j).trans (if_pos (List.mem_finRange j))

theorem State.countAll_tally (es : List TallyEvent) (j : Fin 8) :
    (s.countAll es).vol.tallies[j.val] = es.foldl Tally.offered s.vol.tallies[j.val] := by
  change (es.foldl s.offerAll { tallies := s.vol.tallies, ports := s.vol.ports }).tallies[j.val] = _
  generalize s.vol.tallies = t
  generalize s.vol.ports = q
  induction es generalizing t q with
  | nil => rfl
  | cons e es ih => rw [List.foldl_cons, List.foldl_cons, ih, State.offerAll_tally]

/-- A tally counts the event, wraps by it, and asks for the notice. -/
def Tally.announces (y : Tally) (e : TallyEvent) : Bool :=
  y.matchesEvent e && decide (4294967295 < y.value + e.amount) && y.control.notice

/-- The notice of a tally's wrap, by its value before (R180). -/
def State.wrapNotice (y : Tally) (i : Fin 8) : Notice :=
  { kind := .tallyOverflow, clock := s.clock, subject := 0
    body := [.u8 i.val, .u8 y.control.cls, .u32 (y.value + e.amount - 4294967296)] }

theorem State.offer_port (c : Counting) (i : Fin 8) (p : Port) :
    (s.offer e c i).ports[p.val] =
      if c.tallies[i.val].announces e ∧ s.part = .service then c.ports[p.val].pushNotice (s.wrapNotice e c.tallies[i.val] i)
      else c.ports[p.val] := by
  unfold State.offer Tally.announces
  by_cases hm : c.tallies[i.val].matchesEvent e = true
  · rw [if_pos hm, hm, Bool.true_and]
    by_cases hw : 4294967295 < c.tallies[i.val].value + e.amount
    · have modulus : tallyModulus ≤ c.tallies[i.val].value + e.amount := hw
      have notice : s.overflowNotice i (c.tallies[i.val].add e.amount) = s.wrapNotice e c.tallies[i.val] i := by
        rw [Tally.add_of_gt hw]; rfl
      by_cases hn : c.tallies[i.val].control.notice = true ∧ s.part = .service
      · simp [Tally.wrapsWithNotice, modulus, hw, hn, notifyAll, notice]
      · simp only [Tally.wrapsWithNotice, modulus, hw, decide_true, Bool.true_and, Bool.and_eq_true, decide_eq_true_eq, if_neg hn]
    · have modulus : ¬ tallyModulus ≤ c.tallies[i.val].value + e.amount := hw
      simp [Tally.wrapsWithNotice, modulus, hw]
  · rw [if_neg hm]
    simp [hm]

/-- The notices of tallies offered in turn, each at most once, by their values before. -/
theorem State.offers_port (hp : s.part = .service) (p : Port) (t : Vector Tally 8) (c : Counting) (l : List (Fin 8)) (hl : l.Nodup)
    (ht : ∀ j ∈ l, c.tallies[j.val] = t[j.val]) :
    (l.foldl (s.offer e) c).ports[p.val] =
      (l.filter fun i => t[i.val].announces e).foldl (fun q i => q.pushNotice (s.wrapNotice e t[i.val] i)) c.ports[p.val] := by
  induction l generalizing c with
  | nil => rfl
  | cons i l ih =>
    obtain ⟨hi, hl⟩ := List.nodup_cons.1 hl
    have rest (j : Fin 8) (hj : j ∈ l) : (s.offer e c i).tallies[j.val] = t[j.val] := by
      rw [State.offer_tally, if_neg fun (h : j = i) => hi (h ▸ hj), ht j (List.mem_cons_of_mem i hj)]
    rw [List.foldl_cons, ih _ hl rest, State.offer_port, ht i List.mem_cons_self, List.filter_cons]
    by_cases ha : t[i.val].announces e = true
    · rw [if_pos ⟨ha, hp⟩, if_pos ha, List.foldl_cons]
    · rw [if_neg fun h => ha h.1, if_neg ha]

theorem State.offers_port_outside (hp : s.part ≠ .service) (p : Port) (c : Counting) (l : List (Fin 8)) :
    (l.foldl (s.offer e) c).ports[p.val] = c.ports[p.val] := by
  induction l generalizing c with
  | nil => rfl
  | cons i l ih => rw [List.foldl_cons, ih, State.offer_port, if_neg fun h => hp h.2]

end Offers

/-- Settles O59: a tally's match and sum, the tallies of several events, and the notices of one in the order of the tallies. -/
theorem talliesCountTheirEvents : Obligations.TalliesCountTheirEvents := by
  unfold Obligations.TalliesCountTheirEvents
  refine ⟨Tally.matchesEvent_iff, fun y n => ⟨Tally.add_of_le, Tally.add_of_gt⟩, fun s es => ⟨rfl, s.countAll_tally es⟩, fun s e p => ?_⟩
  let c : Counting := { tallies := s.vol.tallies, ports := s.vol.ports }
  have offers : (s.count e).port p = ((List.finRange 8).foldl (s.offer e) c).ports[p.val] := by
    simp only [State.count, State.countAll, State.counted, State.port, List.foldl_cons, List.foldl_nil, State.offerAll, c]
  have start : ∀ j ∈ List.finRange 8, c.tallies[j.val] = s.vol.tallies[j.val] := fun _ _ => rfl
  refine ⟨fun hp => offers.trans ?_, fun hp => offers.trans (s.offers_port_outside e hp p c _)⟩
  exact s.offers_port e hp p s.vol.tallies c _ (List.nodup_finRange 8) start

end Sys2Proof.Machine
end

section
/-!
PROOF. What each item contributes to the sums, and the weight aft of a span (R47, R69, R75 to R79, R146, R154).
-/
namespace Sys2Proof.Machine

/-! ### The weight aft of a span (R77) -/

theorem roundDiv_nonneg {n d : Int} (hn : 0 ≤ n) : roundDiv n d = (2 * n + d) / (2 * d) := if_pos hn

/-- Strictly inside the span the weight aft is in proportion, rounded. -/
theorem weightAft_inside {w a f x : Int} (ha : a < x) (hf : x < f) : weightAft w a f x = roundDiv (w * (x - a)) (f - a) := by
  rw [weightAft, if_neg (by omega), if_neg (by omega), if_neg (by omega)]

section Span
variable {w a f x : Int} (hw : 0 ≤ w)
include hw

theorem weightAft_bounds (ha : a < x) (hf : x < f) :
    2 * (f - a) * weightAft w a f x ≤ 2 * w * (x - a) + (f - a) ∧
      2 * w * (x - a) + (f - a) < 2 * (f - a) * weightAft w a f x + 2 * (f - a) := by
  have hn : 0 ≤ w * (x - a) := Int.mul_nonneg hw (by omega)
  have hd : 0 < 2 * (f - a) := by omega
  rw [weightAft_inside ha hf, roundDiv_nonneg hn]
  have quotient := Int.mul_ediv_add_emod (2 * (w * (x - a)) + (f - a)) (2 * (f - a))
  have low := Int.emod_nonneg (2 * (w * (x - a)) + (f - a)) (Int.ne_of_gt hd)
  have high := Int.emod_lt_of_pos (2 * (w * (x - a)) + (f - a)) hd
  have product : 2 * w * (x - a) = 2 * (w * (x - a)) := Int.mul_assoc 2 w (x - a)
  rw [product]
  constructor <;> omega

theorem weightAft_range (h : a ≤ f) : 0 ≤ weightAft w a f x ∧ weightAft w a f x ≤ w := by
  rcases Int.lt_or_le a x with ha | ha
  · rcases Int.lt_or_le x f with hf | hf
    · rw [weightAft_inside ha hf]
      have hd : 0 < f - a := by omega
      exact ⟨le_roundDiv _ _ _ hd (by rw [Int.zero_mul]; exact Int.mul_nonneg hw (by omega)),
        roundDiv_le _ _ _ hd (Int.mul_le_mul_of_nonneg_left (by omega) hw)⟩
    · unfold weightAft
      repeat' split
      all_goals omega
  · unfold weightAft
    repeat' split
    all_goals omega

/-- The weight aft never decreases from aft to forward. -/
theorem weightAft_mono {x' : Int} (h : a ≤ f) (hx : x ≤ x') : weightAft w a f x ≤ weightAft w a f x' := by
  by_cases inside : a < x ∧ x' < f
  · obtain ⟨ha, hf⟩ := inside
    have hn : 0 ≤ w * (x - a) := Int.mul_nonneg hw (by omega)
    have hle : w * (x - a) ≤ w * (x' - a) := Int.mul_le_mul_of_nonneg_left (by omega) hw
    rw [weightAft_inside ha (by omega), weightAft_inside (by omega) hf, roundDiv_nonneg hn, roundDiv_nonneg (Int.le_trans hn hle)]
    exact Int.ediv_le_ediv (by omega) (by omega)
  · have low := weightAft_range hw h (x := x)
    have high := weightAft_range hw h (x := x')
    by_cases ha : a < x
    · have whole : weightAft w a f x' = w := by
        unfold weightAft
        repeat' split
        all_goals omega
      omega
    · have none : weightAft w a f x = 0 := by
        unfold weightAft
        repeat' split
        all_goals omega
      omega

end Span

/-! ### The items (R47, R69, R75, R146, R154) -/

theorem pointContribution_contributes (b : Book) (w : Int) (q : Point) : (pointContribution b w q).contributesPoint b w q :=
  contribution_contributes ..

section Items
variable (s : State)

theorem State.itemLive_lot_none {h : Nat} (hl : s.kept.lot h = none) : s.itemLive (.lot h) = SumSet.zero := by
  rw [State.itemLive_lot, hl]; rfl

theorem State.itemPlan_lot_none {h : Nat} (hl : s.kept.lot h = none) : s.itemPlan (.lot h) = SumSet.zero := by
  rw [State.itemPlan_lot, hl]; rfl

theorem State.itemLive_lot_some {h : Nat} {l : Lot} (hl : s.kept.lot h = some l) : s.itemLive (.lot h) = s.lotLive l := by
  rw [State.itemLive_lot, hl]; rfl

theorem State.itemPlan_lot_some {h : Nat} {l : Lot} (hl : s.kept.lot h = some l) : s.itemPlan (.lot h) = s.lotPlan l := by
  rw [State.itemPlan_lot, hl]; rfl

theorem State.boomHead_eq (c : CraneNo) (l : Lot) :
    s.boomHead c l =
      match (s.craneLive c).boom with
      | some q => q
      | none => { x := s.book.cranes[c.val].pedestalX, z := l.pos.vcg, y := s.book.cranes[c.val].pedestalY } := by
  unfold State.boomHead
  cases (s.craneLive c).boom <;> rfl

/-- A lot on a hook contributes its weight at the boom head (R146). -/
theorem State.lotLive_hooked (c : CraneNo) (l : Lot) :
    (pointContribution s.book l.weight (s.boomHead c l)).contributesPoint s.book (l.verified.getD l.declared)
      (match (s.craneLive c).boom with
       | some q => q
       | none => { x := s.book.cranes[c.val].pedestalX, z := l.pos.vcg, y := s.book.cranes[c.val].pedestalY }) := by
  have h := pointContribution_contributes s.book l.weight (s.boomHead c l)
  rw [State.boomHead_eq] at h ⊢
  exact h

theorem State.tankExists_iff (t : TankNo) : s.tankExists t = true ↔ t.val < s.book.tankCount := decide_eq_true_iff

theorem State.unidentified_eq_some {k : CraneNo} {w : Int} {q : Point} :
    s.unidentified k = some (w, q) ↔
      ∃ r, (k.val + 1 ≤ s.book.craneCount ∧ (s.craneState k).hanging = none ∧ (s.craneLive k).freeReading = true ∧
        (s.craneLive k).hook = some r ∧ s.book.cranes[k.val].threshold ≤ (r.load : Int)) ∧ (r.load : Int) = w ∧ r.head = q := by
  have exist : s.craneExists k = true ↔ k.val + 1 ≤ s.book.craneCount := decide_eq_true_iff
  unfold State.unidentified
  cases hh : (s.craneState k).hanging with
  | some h => simp
  | none =>
    cases hr : (s.craneLive k).hook with
    | none => simp
    | some r =>
      simp only [Option.ite_none_right_eq_some, Option.some.injEq, Prod.mk.injEq, exist]
      constructor
      · rintro ⟨⟨hfree, he, ht⟩, hw, hq⟩
        exact ⟨r, ⟨he, trivial, hfree, rfl, ht⟩, hw, hq⟩
      · rintro ⟨r', ⟨he, -, hfree, rfl, ht⟩, hw, hq⟩
        exact ⟨⟨hfree, he, ht⟩, hw, hq⟩

end Items

/-- A part of a set built afresh, over the items of each kind (R79). -/
theorem built_parts (s : State) (item : Item → SumSet) (sums : SumSet)
    (hs : sums = (SumSet.total (s.items.map item)).add (lightship s.book.hull)) :
    let all := fun (part : SumSet → Int) =>
      (s.kept.lots.map fun e => part (item (.lot e.1))).sum + ((List.finRange 32).map fun t => part (item (.tank t))).sum +
        ((List.finRange 16).map fun i => part (item (.fixed i))).sum +
        ((List.finRange 4).map fun k => part (item (.hook k))).sum
    let h := s.book.hull
    sums.w = h.weight + all SumSet.w ∧ sums.ml = h.weight * h.lcg + all SumSet.ml ∧ sums.mv = h.weight * h.vcg + all SumSet.mv ∧
      sums.mt = h.weight * h.tcg + all SumSet.mt ∧ sums.fsm = all SumSet.fsm ∧
      ∀ k : Fin 21, sums.wa[k.val] = h.wa[k.val] + all fun c => c.wa[k.val] := by
  intro all h
  subst hs
  obtain ⟨hw, hml, hmv, hmt, hfsm, hwa⟩ := additive_parts
  refine ⟨built_part _ hw s item, built_part _ hml s item, built_part _ hmv s item, built_part _ hmt s item, ?_,
    fun k => built_part _ (hwa k) s item⟩
  exact (built_part _ hfsm s item).trans (Int.zero_add _)

/-- Settles O60: the weight aft of a span, then each kind of item, then the sets built afresh and shifted. -/
theorem weightAftNeverDecreases : Obligations.WeightAftNeverDecreases := by
  unfold Obligations.WeightAftNeverDecreases
  refine ⟨fun w a f x x' hw ha hx => ?_, fun s h => ⟨fun hl => ?_, fun l hl => ?_⟩, fun s n => ⟨fun hn => ?_, fun hn => ?_⟩,
    fun s i => ⟨fun hi hp => ?_, fun h => ?_⟩, fun s k => ⟨fun r hr => ?_, fun hno => ?_, rfl⟩,
    fun s => ⟨built_parts s s.itemLive _ rfl, built_parts s s.itemPlan _ rfl⟩, fun sums olds news => ?_⟩
  · obtain ⟨low, high⟩ := weightAft_range (x := x) hw ha
    obtain ⟨hpoint, hspan⟩ := weightAft_aftOf w a f x
    exact ⟨weightAft_mono hw ha hx, low, high, hpoint, fun h => (hspan h).1, fun h => (hspan h).2.1,
      fun h1 h2 => weightAft_bounds hw h1 h2⟩
  · exact ⟨s.itemLive_lot_none hl, s.itemPlan_lot_none hl⟩
  · rw [s.itemLive_lot_some hl, s.itemPlan_lot_some hl]
    have stowed := stowContribution_contributes s.book l
    unfold State.lotLive State.lotPlan
    cases hs : l.state with
    | planned => exact ⟨rfl, stowed⟩
    | hookedLoading c => exact ⟨s.lotLive_hooked c l, stowed⟩
    | hookedDischarging c t => exact ⟨s.lotLive_hooked c l, rfl⟩
    | stowed i t =>
      cases i with
      | keep => exact ⟨stowed, stowed⟩
      | discharge => exact ⟨stowed, rfl⟩
    | ashore t => exact ⟨rfl, rfl⟩
  · have exist := (s.tankExists_iff n).2 hn
    simp only [State.itemLive, State.itemPlan, exist, if_true]
    exact ⟨contribution_contributes .., contribution_contributes ..⟩
  · have absent : ¬ s.tankExists n = true := fun h => absurd ((s.tankExists_iff n).1 h) (Nat.not_lt.2 hn)
    exact ⟨if_neg absent, if_neg absent⟩
  · simp only [State.itemLive, State.itemPlan, if_pos hi, fixedContribution, if_pos hp]
    exact ⟨pointContribution_contributes .., pointContribution_contributes ..⟩
  · have nothing : (if i.val < s.book.fixedCount then fixedContribution s.book s.kept.fixed[i.val] else SumSet.zero) = SumSet.zero := by
      rcases h with h | h
      · exact if_neg (Nat.not_lt.2 h)
      · rw [fixedContribution, if_neg h, ite_self]
    exact ⟨nothing, nothing⟩
  · simp only [State.itemLive, s.unidentified_eq_some.2 ⟨r, hr, rfl, rfl⟩]
    exact pointContribution_contributes ..
  · have none : s.unidentified k = none := Option.eq_none_iff_forall_ne_some.2 fun ⟨w, q⟩ h => by
      obtain ⟨r, hr, -⟩ := s.unidentified_eq_some.1 h
      exact hno r hr
    simp only [State.itemLive, none]
  · obtain ⟨hw, hml, hmv, hmt, hfsm, hwa⟩ := additive_parts
    exact ⟨shiftSums_part _ hw .., shiftSums_part _ hml .., shiftSums_part _ hmv .., shiftSums_part _ hmt ..,
      shiftSums_part _ hfsm .., fun k => shiftSums_part _ (hwa k) ..⟩

end Sys2Proof.Machine
end

section
/-!
PROOF. The requests that change the condition as one operation: what reaches the sums and the links, and what each request sets
(R26, R37, R54, R61, R62, R67 to R71, R78, R107, R142).
-/
namespace Sys2Proof.Machine

/-! ### What reaches the sums (R78, R107) -/

/-- Two states with the same sums and the same pending marks. -/
structure State.SameSums (s v : State) : Prop where
  live : v.vol.live = s.vol.live
  plan : v.vol.plan = s.vol.plan
  livePending : v.vol.livePending = s.vol.livePending
  planPending : v.vol.planPending = s.vol.planPending

theorem State.SameSums.refl (s : State) : s.SameSums s := ⟨rfl, rfl, rfl, rfl⟩

/-- A mark that stands or is set where a set changes. -/
theorem mark_or_changed {b : Bool} {a c : SumSet} : (b || decide (a ≠ c)) = true ↔ b = true ∨ a ≠ c := by simp

section Resums
variable {s v u : State} {items : List Item}

/-- Where the change reached the Accumulator, the items' contributions moved. -/
theorem State.resums_accumulate (hv : s.SameSums v) (hu : (v.accumulate s items).SameSums u)
    (hitems : u.itemLive = v.itemLive ∧ u.itemPlan = v.itemPlan) : s.resums u items false := by
  obtain ⟨vlive, vplan, vlp, vpp⟩ := hv
  obtain ⟨ulive, uplan, ulp, upp⟩ := hu
  obtain ⟨hlive, hplan⟩ := hitems
  have live : u.vol.live = shiftSums s.vol.live (items.map s.itemLive) (items.map u.itemLive) := by rw [ulive, hlive, ← vlive]; rfl
  have plan : u.vol.plan = shiftSums s.vol.plan (items.map s.itemPlan) (items.map u.itemPlan) := by rw [uplan, hplan, ← vplan]; rfl
  refine ⟨live, plan, ?_, ?_⟩
  · rw [ulp, ← vlp, ← vlive, ulive]
    simp only [Bool.false_eq_true, or_false]
    exact mark_or_changed
  · rw [upp, ← vpp, ← vplan, uplan]
    exact mark_or_changed

/-- A cause of LIVE besides its sums. -/
theorem State.resums.pends {w : State} (h : s.resums u items false) (hlive : w.vol.live = u.vol.live) (hplan : w.vol.plan = u.vol.plan)
    (hpend : w.vol.livePending = true) (hpp : w.vol.planPending = u.vol.planPending)
    (hitems : w.itemLive = u.itemLive ∧ w.itemPlan = u.itemPlan) : s.resums w items true := by
  obtain ⟨live, plan, -, pp⟩ := h
  exact ⟨by rw [hlive, live, hitems.1], by rw [hplan, plan, hitems.2], by simp [hpend], by rw [hpp, pp, hplan]⟩

end Resums

/-- Nothing that no item touches reaches the sums. -/
theorem State.accumulate_nil (s old : State) : s.accumulate old [] = s := by
  simp [State.accumulate, shiftSums_nil]

/-! ### One applied change (R37, R136, R140) -/

section Applied
variable {s v : State} (r : ChangeRecord) (affected : List Nat) (items : List Item)

theorem State.applied_items : (v.applied s r affected items).itemLive = v.itemLive ∧ (v.applied s r affected items).itemPlan = v.itemPlan :=
  ⟨funext fun i => by cases i <;> rfl, funext fun i => by cases i <;> rfl⟩

theorem State.applied_appliesChange (hv : s.SameSums v) (hgen : v.kept.generation = s.kept.generation)
    (hjournal : v.kept.journal = s.kept.journal) (hlinks : v.vol.links = s.vol.links) :
    s.appliesChange (v.applied s r affected items) r affected items := by
  refine ⟨congrArg (· + 1) hgen, ?_, rfl, fun g => ?_, State.resums_accumulate hv ⟨rfl, rfl, rfl, rfl⟩ (State.applied_items ..)⟩
  · rw [← hgen, ← hjournal]
    change (v.kept.record r).journal = _
    simp [Kept.record, Config.journalCapacity]
  · rw [State.applied, State.breakLinks_link]
    change (v.vol.links[g.val]).filter _ = _
    rw [hlinks]
    rfl

end Applied

/-! ### The purge and the fixed items (R26, R142) -/

section Requests
variable {s : State} {p : Port}

theorem exec_purgeAshore (h : s.asks p (.purgeAshore p) [.officer]) :
    exec (.purgeAshore p) s = .next
      ((if s.kept.ashore = [] then s else s.purgeAll p).done p
        [.u16 s.kept.ashore.length, .u64 (if s.kept.ashore = [] then s else s.purgeAll p).kept.generation]) :=
  next_congr (State.serve_onlyRoles h)

theorem State.purgeAll_frame (s : State) (p : Port) :
    s.purgeAll p = { s with kept := (s.purgeAll p).kept, keptCheck := (s.purgeAll p).keptCheck, vol.links := (s.purgeAll p).vol.links } := by
  simp only [State.purgeAll, State.applied, State.accumulate_nil]
  rfl

theorem State.purgeAll_kept (s : State) (p : Port) :
    (s.purgeAll p).kept =
      { s.kept with
        lots := (s.purgeAll p).kept.lots
        ashore := []
        generation := (s.purgeAll p).kept.generation
        journal := (s.purgeAll p).kept.journal } := by
  have recorded : (s.purgeAll p).kept =
      { s.kept.purge with generation := (s.purgeAll p).kept.generation, journal := (s.purgeAll p).kept.journal } :=
    Kept.record_frame ..
  exact recorded.trans (congrArg (fun k : Kept =>
    { k with generation := (s.purgeAll p).kept.generation, journal := (s.purgeAll p).kept.journal }) s.kept.purge_frame)

theorem State.purgeAll_lot (s : State) (p : Port) (h : Nat) : (s.purgeAll p).kept.lot h = if h ∈ s.kept.ashore then none else s.kept.lot h :=
  (Kept.record_lot ..).trans (s.kept.purge_lot h)

theorem State.purgeAll_appliesChange (s : State) (p : Port) :
    s.appliesChange (s.purgeAll p)
      { kind := .purgeAshore, handle := none, space := none, item := none, port := p, role := s.role p, overridden := false }
      (s.kept.ashore.filterMap fun h => (s.kept.lot h).map Lot.space) [] := by
  have purged := s.kept.purge_frame
  exact State.applied_appliesChange _ _ _ ⟨rfl, rfl, rfl, rfl⟩ (by rw [purged]; rfl) (by rw [purged]; rfl) rfl

theorem exec_fixedSet {n : Nat} {w x z y : Int} {b : Nat} (h : s.asks p (.fixedSet p n w x z y b) [.officer]) :
    exec (.fixedSet p n w x z y b) s = .next
      (match s.fixedIdx n, fixedOk s.book w x z y b with
       | some i, true =>
        ((s.setFixed p i { weight := w, x := x, z := z, y := y, presence := presenceOf b }).done p
          [.u64 (s.setFixed p i { weight := w, x := x, z := z, y := y, presence := presenceOf b }).kept.generation]).settle
       | _, _ => s.malformed p) :=
  next_congr (State.serve_onlyRoles h)

end Requests

/-- Settles O36. -/
theorem purgeAndFixedSetApplyOneChange : Obligations.PurgeAndFixedSetApplyOneChange := by
  unfold Obligations.PurgeAndFixedSetApplyOneChange
  refine fun s p => ⟨fun h he => ?_, fun h he => ⟨s.purgeAll p, ?_, s.purgeAll_frame p, s.purgeAll_kept p, s.purgeAll_lot p,
    s.purgeAll_appliesChange p⟩, fun i w x z y b h hi hok => ?_, fun n w x z y b h hbad => ?_⟩
  · rw [exec_purgeAshore h, if_pos he, he]; rfl
  · obtain ⟨hgen, -⟩ := s.purgeAll_appliesChange p
    rw [exec_purgeAshore h, if_neg he, hgen]; rfl
  · refine ⟨s.setFixed p i { weight := w, x := x, z := z, y := y, presence := presenceOf b }, ?_, rfl, rfl,
      State.applied_appliesChange _ _ _ ⟨rfl, rfl, rfl, rfl⟩ rfl rfl rfl⟩
    rw [exec_fixedSet h, State.fixedIdx_val hi, hok]; rfl
  · rw [exec_fixedSet h]
    by_cases hn : 16 ≤ n ∨ s.book.fixedCount ≤ n
    · rw [State.fixedIdx_eq_none hn]; rfl
    · have bad : fixedOk s.book w x z y b = false := by
        rcases hbad with hc | hc | hc
        · exact absurd (.inl hc) hn
        · exact absurd (.inr hc) hn
        · exact hc
      rw [bad]
      cases s.fixedIdx n <;> rfl

end Sys2Proof.Machine
end

section
/-!
PROOF. The tank and channel requests (R7, R50, R54, R61, R62, R67 to R71, R107).
-/
namespace Sys2Proof.Machine

/-! ### Tank fills (R69 to R71) -/

section Tanks
variable {s : State} {p : Port} {t : TankNo}

theorem State.onTank_tank (f : TankFill → TankFill) (t' : TankNo) : (s.onTank t f).tank t' = if t' = t then f (s.tank t) else s.tank t' := by
  unfold State.onTank State.tank updAt
  by_cases h : t' = t
  · subst h; simp [State.setKept]
  · have : t.val ≠ t'.val := fun e => h (Fin.ext e.symm)
    simp [State.setKept, h, this]

/-- A changed fill reaches the condition and the sums alone, and its tank's contributions move. -/
theorem State.changeTank_changes (s : State) (t : TankNo) (f : TankFill → TankFill) :
    s.sameButCondition (s.changeTank t f) ∧ s.resums (s.changeTank t f) [.tank t] false ∧
      (s.changeTank t f).kept = { s.kept with tanks := s.kept.tanks.set t.val (f (s.tank t)) t.isLt } :=
  ⟨rfl, State.resums_accumulate (v := s.onTank t f) ⟨rfl, rfl, rfl, rfl⟩ ⟨rfl, rfl, rfl, rfl⟩ ⟨rfl, rfl⟩, rfl⟩

/-- The current contents look at the applied sounding and the density alone. -/
theorem State.currentContents_congr {u v : State} (hbook : v.book = u.book) (happlied : (v.tank t).applied = (u.tank t).applied)
    (hdensity : (v.tank t).density = (u.tank t).density) : v.currentContents t = u.currentContents t := by
  rw [State.currentContents, State.currentContents, State.tankBook, State.tankBook, hbook, happlied, hdensity]

theorem State.itemLive_tank_congr {u v : State} (hbook : v.book = u.book) (h : v.currentContents t = u.currentContents t) :
    v.itemLive (.tank t) = u.itemLive (.tank t) := by
  simp only [State.itemLive, State.tankExists, State.tankBook, h]
  rw [hbook]
  rfl

/-- The source of a tank is no part of what an item contributes. -/
theorem State.onTank_source_items (u : State) (src : Source) :
    (u.onTank t fun f => { f with source := src }).itemLive = u.itemLive ∧
      (u.onTank t fun f => { f with source := src }).itemPlan = u.itemPlan := by
  have fill (t' : TankNo) : (u.tank t').sameFill ((u.onTank t fun f => { f with source := src }).tank t') := by
    rw [State.onTank_tank]
    split
    · rename_i h; rw [h]; exact ⟨rfl, rfl, rfl⟩
    · exact ⟨rfl, rfl, rfl⟩
  have current (t' : TankNo) : (u.onTank t fun f => { f with source := src }).currentContents t' = u.currentContents t' :=
    State.currentContents_congr rfl (fill t').1 (fill t').2.1
  refine ⟨funext fun i => ?_, funext fun i => ?_⟩
  · cases i with
    | tank t' => exact State.itemLive_tank_congr rfl (current t')
    | _ => rfl
  · cases i with
    | tank t' =>
      obtain ⟨happlied, hdensity, hplanned⟩ := fill t'
      simp only [State.itemPlan, State.plannedContents, happlied, hdensity, hplanned]
      rfl
    | _ => rfl

/-- A manual sounding: the sounding and the source, the tank's contributions, and LIVE where the source changes (R70, R107). -/
theorem State.setManual_changes (s : State) (t : TankNo) (z : Int) :
    s.sameButCondition (s.setManual t z) ∧ s.resums (s.setManual t z) [.tank t] (decide ((s.tank t).source = .gauged)) ∧
      (s.setManual t z).kept =
        { s.kept with
          tanks := s.kept.tanks.set t.val
            { s.tank t with applied := clamp 0 (s.tankBook t).consts.depth z, source := .manual } t.isLt } := by
  let u := s.changeTank t fun f => { f with applied := s.clampSounding t z }
  have hu : u.tank t = { s.tank t with applied := s.clampSounding t z } := (State.onTank_tank (s := s) (t := t) _ t).trans (if_pos rfl)
  have source : (u.tank t).source = (s.tank t).source := by rw [hu]
  obtain ⟨frame, resums, kept⟩ := s.changeTank_changes t fun f => { f with applied := s.clampSounding t z }
  cases hs : (s.tank t).source with
  | manual =>
    have same : s.setManual t z = u := if_pos (source.trans hs)
    have fill : ({ s.tank t with applied := s.clampSounding t z } : TankFill) =
        { s.tank t with applied := s.clampSounding t z, source := .manual } := by rw [← hs]
    rw [same]
    refine ⟨frame, resums, kept.trans ?_⟩
    dsimp only
    rw [fill]
    rfl
  | gauged =>
    have changed : s.setManual t z = (u.onTank t fun f => { f with source := .manual }).pendLive :=
      if_neg (by rw [show (u.tank t).source = .gauged from source.trans hs]; simp)
    rw [changed]
    have moved : s.resums (u.onTank t fun f => { f with source := .manual }).pendLive [.tank t] true :=
      State.resums.pends (u := u) resums rfl rfl rfl rfl (State.onTank_source_items u .manual)
    refine ⟨rfl, moved, ?_⟩
    change { u.kept with tanks := u.kept.tanks.set t.val { u.tank t with source := .manual } t.isLt } = _
    rw [hu, kept]
    simp only [Vector.set_set]
    rfl

/-- A planned fill leaves LIVE as it was. -/
theorem State.changePlanned_live (s : State) (t : TankNo) (fill : Option Int) :
    (s.changeTank t fun f => { f with planned := fill }).vol.live = s.vol.live ∧
      (s.changeTank t fun f => { f with planned := fill }).vol.livePending = s.vol.livePending := by
  let u := s.onTank t fun f => { f with planned := fill }
  have tank : u.tank t = { s.tank t with planned := fill } := (State.onTank_tank (s := s) (t := t) _ t).trans (if_pos rfl)
  have current : u.currentContents t = s.currentContents t :=
    State.currentContents_congr rfl (by rw [tank]) (by rw [tank])
  have same : u.itemLive (.tank t) = s.itemLive (.tank t) := State.itemLive_tank_congr rfl current
  have live : (u.accumulate s [.tank t]).vol.live = s.vol.live := by
    change shiftSums s.vol.live [s.itemLive (.tank t)] [u.itemLive (.tank t)] = _
    rw [same, shiftSums_same]
  refine ⟨live, ?_⟩
  have stands : decide ((u.accumulate s [.tank t]).vol.live ≠ s.vol.live) = false := decide_eq_false (not_not_intro live)
  exact (congrArg (s.vol.livePending || ·) stands).trans (Bool.or_false _)

end Tanks

/-! ### The contents of a tank (R67, R68) -/

theorem slack_iff (volume capacity : Int) : slack volume capacity = true ↔ 20 * capacity ≤ 1000 * volume ∧ 1000 * volume ≤ 980 * capacity := by
  simp [slack, within]

/-- The contents are those read at the clamped sounding, the weight and the moment at the density. -/
theorem TankBook.contents_readsAt (t : TankBook) (sounding density : Int) (hrise : risingTable t.table SoundingPoint.sounding)
    (hdepth : 0 ≤ t.consts.depth) (href : 0 < t.consts.refDensity) :
    ∃ (z : Int) (v : SoundingPoint), clampsTo 0 t.consts.depth sounding z ∧ t.readsAt z v ∧
      (t.contents sounding density).volume = v.volume ∧ (t.contents sounding density).lcg = v.lcg ∧
      (t.contents sounding density).vcg = v.vcg ∧ (t.contents sounding density).tcg = v.tcg ∧
      rounds (v.volume * density) 10000 (t.contents sounding density).weight ∧
      (20 * t.consts.capacity ≤ 1000 * v.volume ∧ 1000 * v.volume ≤ 980 * t.consts.capacity →
        rounds (v.fsm * density) t.consts.refDensity (t.contents sounding density).fsm) ∧
      (1000 * v.volume < 20 * t.consts.capacity ∨ 980 * t.consts.capacity < 1000 * v.volume →
        (t.contents sounding density).fsm = 0) := by
  refine ⟨clamp 0 t.consts.depth sounding, t.convert sounding, clamp_clampsTo _ _ _ hdepth, convert_readsAt t sounding hrise.2,
    rfl, rfl, rfl, rfl, roundDiv_rounds _ _ (by decide), fun h => ?_, fun h => ?_⟩
  · have isSlack := (slack_iff (t.convert sounding).volume t.consts.capacity).2 h
    rw [TankBook.contents]
    simp only [isSlack, if_true]
    exact roundDiv_rounds _ _ href
  · have full : ¬ slack (t.convert sounding).volume t.consts.capacity = true := fun hc => by
      have := (slack_iff _ _).1 hc
      omega
    exact if_neg full

section TankRequests
variable {s : State} {p : Port} {n : Nat}

theorem exec_tankManual {z : Int} (h : s.asks p (.tankManual p n z) [.officer]) :
    exec (.tankManual p n z) s = .next
      (match s.tankIdx n with
       | none => s.malformed p
       | some t => ((s.setManual t z).done p [.i32 ((s.setManual t z).tank t).applied, .i32 ((s.setManual t z).currentContents t).weight]).settle) :=
  next_congr (State.serve_onlyRoles h)

theorem exec_tankDensity {d : Int} (h : s.asks p (.tankDensity p n d) [.officer, .planner]) :
    exec (.tankDensity p n d) s = .next
      (match s.tankIdx n with
       | none => s.malformed p
       | some t =>
        let u := s.changeTank t fun f => { f with density := clamp 6000 20000 d }
        (u.done p [.i32 (u.tank t).density]).settle) :=
  next_congr (State.serve_onlyRoles h)

theorem exec_tankPlan {fill : Option Int} (h : s.asks p (.tankPlan p n fill) [.officer, .planner]) :
    exec (.tankPlan p n fill) s = .next
      (match s.tankIdx n with
       | none => s.malformed p
       | some t =>
        let u := s.changeTank t fun f => { f with planned := fill.map (s.clampSounding t) }
        (u.done p (optVals ((u.tank t).planned.map fun z => [.i32 z]))).settle) :=
  next_congr (State.serve_onlyRoles h)

end TankRequests

/-- The changed fill of a tank. -/
theorem State.changeTank_tank (s : State) (t : TankNo) (f : TankFill → TankFill) : (s.changeTank t f).tank t = f (s.tank t) :=
  (State.onTank_tank (s := s) f t).trans (if_pos rfl)

/-- Settles O37: each request's change of the fill, then the conversion, then which fill the contents are taken at. -/
theorem tankRequestsSetTheFill : Obligations.TankRequestsSetTheFill := by
  unfold Obligations.TankRequestsSetTheFill
  refine ⟨fun s p => ⟨fun t z h ht => ⟨s.setManual t z, ?_, s.setManual_changes t z⟩, fun t d h ht => ?_, fun t fill h ht => ?_,
    fun n z fill hn => ⟨fun h => ?_, fun h => ?_, fun h => ?_⟩⟩, fun t sounding density => t.contents_readsAt sounding density,
    fun s t => ⟨rfl, fun hp => ?_, fun z hp => ?_⟩⟩
  · obtain ⟨-, -, kept⟩ := s.setManual_changes t z
    have applied : ((s.setManual t z).tank t).applied = clamp 0 (s.tankBook t).consts.depth z := by
      rw [State.tank, kept]
      simp
    rw [exec_tankManual h, State.tankIdx_val ht]
    dsimp only
    rw [applied]
    rfl
  · refine ⟨_, ?_, s.changeTank_changes t fun f => { f with density := clamp 6000 20000 d }⟩
    rw [exec_tankDensity h, State.tankIdx_val ht]
    dsimp only
    rw [State.changeTank_tank]
    rfl
  · obtain ⟨frame, resums, kept⟩ := s.changeTank_changes t fun f => { f with planned := fill.map (s.clampSounding t) }
    obtain ⟨live, pending⟩ := s.changePlanned_live t (fill.map (s.clampSounding t))
    refine ⟨_, ?_, frame, resums, live, pending, kept⟩
    rw [exec_tankPlan h, State.tankIdx_val ht]
    dsimp only
    rw [State.changeTank_tank]
    cases fill <;> rfl
  · rw [exec_tankManual h, State.tankIdx_eq_none hn]; rfl
  · rw [exec_tankDensity h, State.tankIdx_eq_none hn]; rfl
  · rw [exec_tankPlan h, State.tankIdx_eq_none hn]; rfl
  · rw [State.plannedContents, hp]; rfl
  · rw [State.plannedContents, hp]; rfl

/-! ### Channel requests (R54, R61, R62) -/

/-- The restored channel and its tank, before its condition is noted (R62). -/
def State.restored (s : State) (ch : ChannelNo) : State :=
  let s1 := s.onChannelKept ch fun k => { k with state := .active, counter := 0, run := 0 }
  match channelKind ch with
  | .tank t => s1.setSource t .gauged
  | .draft => s1
  | .heel => s1
  | .hook _ => s1

/-- The source of a tank set: the tank's record and, where it changes, the LIVE mark (R107). -/
theorem State.setSource_changes (s : State) (t : TankNo) (src : Source) :
    s.setSource t src =
      { s with
        kept := (s.setSource t src).kept
        keptCheck := (s.setSource t src).keptCheck
        vol.livePending := (s.setSource t src).vol.livePending } ∧
    (s.setSource t src).kept = { s.kept with tanks := (s.setSource t src).kept.tanks } ∧
    (∀ t', (s.setSource t src).tank t' = if t' = t then { s.tank t with source := src } else s.tank t') ∧
    ((s.setSource t src).vol.livePending = true ↔ s.vol.livePending = true ∨ (s.tank t).source ≠ src) := by
  by_cases h : (s.tank t).source = src
  · have same : s.setSource t src = s := if_pos h
    rw [same]
    refine ⟨rfl, rfl, fun t' => ?_, by simp [h]⟩
    split
    · rename_i e; rw [e, ← h]
    · rfl
  · have changed : s.setSource t src = (s.onTank t fun f => { f with source := src }).pendLive := if_neg h
    rw [changed]
    exact ⟨rfl, rfl, State.onTank_tank _, iff_of_true rfl (.inr h)⟩

theorem State.restored_changes (s : State) (ch : ChannelNo) :
    s.restored ch =
      { s with
        kept := (s.restored ch).kept
        keptCheck := some (s.restored ch).kept.word
        vol.livePending := (s.restored ch).vol.livePending } ∧
    (s.restored ch).kept =
      { s.kept with
        channels := s.kept.channels.set ch.val { s.channelKept ch with state := .active, counter := 0, run := 0 } ch.isLt
        tanks := (s.restored ch).kept.tanks } ∧
    (∀ t : TankNo, (s.restored ch).tank t = if channelKind ch = .tank t then { s.tank t with source := .gauged } else s.tank t) ∧
    ((s.restored ch).vol.livePending = true ↔
      s.vol.livePending = true ∨ ∃ t : TankNo, channelKind ch = .tank t ∧ (s.tank t).source = .manual) := by
  unfold State.restored
  cases hk : channelKind ch with
  | tank t =>
    let u := s.onChannelKept ch fun k => { k with state := .active, counter := 0, run := 0 }
    obtain ⟨frame, kept, tanks, pending⟩ := u.setSource_changes t .gauged
    have stored : (u.setSource t .gauged).keptCheck = some (u.setSource t .gauged).kept.word := by
      unfold State.setSource
      split <;> rfl
    refine ⟨frame.trans ?_, kept, fun t' => (tanks t').trans ?_, pending.trans ?_⟩
    · rw [stored]; rfl
    · by_cases e : t' = t
      · rw [if_pos e, if_pos (by rw [e]), e]; rfl
      · rw [if_neg e, if_neg fun hc => e (ChannelKind.tank.inj hc).symm]; rfl
    · have manual : (u.tank t).source ≠ .gauged ↔ (s.tank t).source = .manual := by
        change (s.tank t).source ≠ .gauged ↔ _
        cases (s.tank t).source <;> simp
      simp only [manual, ChannelKind.tank.injEq, exists_eq_left']
      rfl
  | draft => exact ⟨rfl, rfl, fun t => rfl, by simp⟩
  | heel => exact ⟨rfl, rfl, fun t => rfl, by simp⟩
  | hook c => exact ⟨rfl, rfl, fun t => rfl, by simp⟩

section ChannelRequests
variable {s : State} {p : Port} {n : Nat}

theorem exec_channelRestore (h : s.asks p (.channelRestore p n) [.officer]) :
    exec (.channelRestore p n) s = .next
      (match channelIdx n with
       | none => s.malformed p
       | some ch => ((if s.fitted ch then s.restoreChannel ch else s).done p []).settle) :=
  next_congr (State.serve_onlyRoles h)

theorem exec_channelModeChannel {m : Nat} (h : s.asks p (.channelModeChannel p n m) [.officer]) :
    exec (.channelModeChannel p n m) s = .next
      (match channelIdx n with
       | none => s.malformed p
       | some ch => if m ≤ 2 then ((s.setMode ch (modeOf m)).done p [.u8 m]).settle else s.malformed p) :=
  next_congr (State.serve_onlyRoles h)

theorem exec_channelModeQueueLevel (h : s.asks p (.channelModeQueueLevel p n) [.officer]) :
    exec (.channelModeQueueLevel p n) s = .next
      (((s.setQueueLevel n).done p [.u8 (s.setQueueLevel n).vol.queueLevel]).settle) :=
  next_congr (State.serve_onlyRoles h)

theorem State.setQueueLevel_same (h : levelTaken n = s.vol.queueLevel) : s.setQueueLevel n = s := if_pos h

theorem State.setQueueLevel_low (h : levelTaken n ≠ s.vol.queueLevel) (hq : s.vol.queue.length < levelTaken n * 8) :
    s.setQueueLevel n = { s with vol.queueLevel := levelTaken n, vol.highArmed := true } :=
  (if_neg h).trans (if_neg (Nat.not_le.2 hq))

theorem State.setQueueLevel_high (h : levelTaken n ≠ s.vol.queueLevel) (hq : levelTaken n * 8 ≤ s.vol.queue.length) :
    s.setQueueLevel n = State.queueHigh { s with vol.queueLevel := levelTaken n, vol.highArmed := true } :=
  (if_neg h).trans (if_pos hq)

end ChannelRequests

/-- Settles O38: the restored channel and its tank, the mode, and the queue-high level by the occupancy. -/
theorem channelRequestsSetTheChannel : Obligations.ChannelRequestsSetTheChannel := by
  unfold Obligations.ChannelRequestsSetTheChannel
  refine fun s p => ⟨fun ch h hf => ⟨s.restored ch, ?_, s.restored_changes ch⟩, fun ch h hf => ?_, fun n h hn => ?_,
    fun ch m h hm => ⟨s.onChannelKept ch fun k => { k with mode := modeOf m }, ?_, rfl, rfl⟩, fun n m h hbad => ?_,
    fun n h => ⟨fun hl => ?_, fun hl hq => ?_, fun hl hq => ?_⟩⟩
  · rw [exec_channelRestore h, channelIdx_val]
    dsimp only
    rw [if_pos hf]
    rfl
  · rw [exec_channelRestore h, channelIdx_val]
    dsimp only
    rw [if_neg (by simp [hf])]
    rfl
  · rw [exec_channelRestore h, channelIdx_eq_none hn]; rfl
  · rw [exec_channelModeChannel h, channelIdx_val]
    dsimp only
    rw [if_pos hm]
    rfl
  · rw [exec_channelModeChannel h]
    rcases Nat.lt_or_ge n 39 with hn | hn
    · rw [channelIdx_val ⟨n, hn⟩]
      dsimp only
      rw [if_neg (by omega)]
      rfl
    · rw [channelIdx_eq_none hn]; rfl
  · rw [exec_channelModeQueueLevel h, State.setQueueLevel_same hl, ← hl]; rfl
  · rw [exec_channelModeQueueLevel h, State.setQueueLevel_low hl hq]; rfl
  · rw [exec_channelModeQueueLevel h, State.setQueueLevel_high hl hq]; rfl

end Sys2Proof.Machine
end

section
/-!
PROOF. The readings: how they arrive, how a channel's health follows them, what an accepted one does, and the notices of a
channel's condition (R50 to R60, R63 to R66, R69, R170).
-/
namespace Sys2Proof.Machine

/-! ### Arrival (R50 to R54, R170) -/

section Arrival
variable {s : State} {p : Port} {n : Nat} {v : ReadingValue}

theorem exec_readingReport (s : State) (p : Port) (n : Nat) (v : ReadingValue) :
    exec (.readingReport p n v) s = .next (s.reportDelivered p fun t => t.takeReading p n v) := rfl

theorem State.reportDelivered_start (h : s.part = .start) (take : State → State) : s.reportDelivered p take = s := by
  rw [State.reportDelivered, h]

theorem State.reportDelivered_commission (h : s.part = .commission) (take : State → State) : s.reportDelivered p take = s.hear p := by
  rw [State.reportDelivered, h]

theorem State.reportDelivered_service (h : s.part = .service) (take : State → State) : s.reportDelivered p take = take (s.hear p) := by
  rw [State.reportDelivered, h]

/-- A reading whose form fits its channel is gated. -/
theorem State.takeReading_breach {u : State} {ch : ChannelNo} {b : Breach} (h : readingFits ch.val v = true)
    (hg : u.readingGate ch.val p = some b) : u.takeReading p ch.val v = u.reportBreach p 0x60 b := by
  simp only [State.takeReading, channelIdx_val, h, hg]

theorem State.takeReading_arrives {u : State} {ch : ChannelNo} (h : readingFits ch.val v = true) (hg : u.readingGate ch.val p = none) :
    u.takeReading p ch.val v =
      (u.readingArrives { channel := ch, value := v, arrival := u.clock, port := p, role := u.role p }).settle := by
  simp only [State.takeReading, channelIdx_val, h, hg]

theorem State.takeReading_unfit {u : State} (h : 39 ≤ n ∨ readingFits n v = false) : u.takeReading p n v = u.discardAt p := by
  rw [State.takeReading]
  rcases h with h | h
  · rw [channelIdx_eq_none h]
  · rw [h]
    cases channelIdx n <;> rfl

theorem State.readingGate_otherRole {u : State} (hg : u.role p ≠ .gauge) (hc : u.role p ≠ .crane) :
    u.readingGate n p = some (.role, .channel n) := by
  unfold State.readingGate
  split <;> simp_all

theorem State.readingGate_notOwn {u : State}
    (h : (u.role p = .gauge ∧ 35 ≤ n) ∨ (u.role p = .crane ∧ (n < 35 ∨ u.ownsCrane p (n - 34) = false))) :
    u.readingGate n p = some (.channelNotOwn, .channel n) := by
  rcases h with ⟨hr, hn⟩ | ⟨hr, hn⟩
  · simp only [State.readingGate, hr]
    exact if_neg (by omega)
  · simp only [State.readingGate, hr]
    refine if_neg fun ⟨hle, ho⟩ => ?_
    rcases hn with hn | hn
    · omega
    · rw [hn] at ho; cases ho

theorem State.readingGate_own {u : State}
    (h : (u.role p = .gauge ∧ n < 35) ∨ (u.role p = .crane ∧ 35 ≤ n ∧ u.ownsCrane p (n - 34) = true)) :
    u.readingGate n p = none := by
  rcases h with ⟨hr, hn⟩ | ⟨hr, hn, ho⟩
  · simp only [State.readingGate, hr]
    exact if_pos (by omega)
  · simp only [State.readingGate, hr]
    exact if_pos ⟨hn, ho⟩

section Queue
variable {u : State} {e : QueueEntry}

theorem State.readingArrives_unfitted (h : u.fitted e.channel = false) : u.readingArrives e = u := if_pos h

variable (h : u.fitted e.channel = true)
include h

theorem State.readingArrives_found {old : QueueEntry}
    (hf : (u.vol.queue.find? fun x => decide (x.channel = e.channel)) = some old) :
    u.readingArrives e =
      State.count { u with vol.queue := u.vol.queue.map fun (x : QueueEntry) => if x.channel = e.channel then e else x }
        (readingEvent 1 old.role) := by
  rw [State.readingArrives, if_neg (by simp [h]), hf]

variable (hf : (u.vol.queue.find? fun x => decide (x.channel = e.channel)) = none)
include hf

theorem State.readingArrives_joins (hq : u.vol.queue.length < 64) : u.readingArrives e = u.appendReading e := by
  rw [State.readingArrives, if_neg (by simp [h]), hf]
  exact if_pos hq

theorem State.readingArrives_lost (hq : 64 ≤ u.vol.queue.length) : u.readingArrives e = u.loseReading e := by
  rw [State.readingArrives, if_neg (by simp [h]), hf]
  exact if_neg (Nat.not_lt.2 hq)

end Queue

theorem State.appendReading_quiet {u : State} {e : QueueEntry}
    (h : u.vol.queue.length + 1 ≠ u.vol.queueLevel * 8 ∨ u.vol.highArmed = false) :
    u.appendReading e = { u with vol.queue := u.vol.queue ++ [e] } := by
  refine if_neg fun ⟨hlen, harmed⟩ => ?_
  rw [List.length_append] at hlen
  rcases h with h | h
  · exact h hlen
  · exact absurd (h.symm.trans harmed) (by decide)

theorem State.appendReading_high {u : State} {e : QueueEntry} (hlen : u.vol.queue.length + 1 = u.vol.queueLevel * 8)
    (harmed : u.vol.highArmed = true) :
    u.appendReading e =
      { State.issue { u with vol.queue := u.vol.queue ++ [e] } .queueHigh 0 [.u16 (u.vol.queue.length + 1), .u8 u.vol.queueLevel] with
        vol.highArmed := false } := by
  have length : (u.vol.queue ++ [e]).length = u.vol.queue.length + 1 := List.length_append
  refine (if_pos ⟨length.trans hlen, harmed⟩).trans ?_
  rw [State.queueHigh]
  simp only [length]

theorem State.loseReading_eq (u : State) (e : QueueEntry) :
    u.loseReading e =
      State.count
        (State.issue (u.onChannelLive e.channel fun k => { k with lost := min (k.lost + 1) 255 }) .readingLost 0
          [.u8 e.channel.val, .u16 (min ((u.channelLive e.channel).lost + 1) 255)])
        (readingEvent 2 e.role) := by
  have lost : ((u.onChannelLive e.channel fun k => { k with lost := min (k.lost + 1) 255 }).channelLive e.channel).lost =
      min ((u.channelLive e.channel).lost + 1) 255 := by
    simp [State.channelLive, State.onChannelLive, updAt]
  rw [State.loseReading, lost]

end Arrival

/-- Settles O39, in the order of a report's delivery. -/
theorem readingReportsEnterTheQueue : Obligations.ReadingReportsEnterTheQueue := by
  unfold Obligations.ReadingReportsEnterTheQueue
  intro s p n v u
  refine ⟨fun hp => next_congr (State.reportDelivered_start hp _), fun hp => next_congr (State.reportDelivered_commission hp _),
    fun hp h => next_congr ?_, fun hp hn hfit hg hc => next_congr ?_, fun hp hn hfit h => next_congr ?_, fun ch hch hp hfit h => ?_⟩
  · rw [State.reportDelivered_service hp, State.takeReading_unfit h]; rfl
  · rw [State.reportDelivered_service hp]
    exact (State.takeReading_breach (u := u) (ch := ⟨n, hn⟩) hfit (State.readingGate_otherRole (u := u) hg hc)).trans rfl
  · rw [State.reportDelivered_service hp]
    exact (State.takeReading_breach (u := u) (ch := ⟨n, hn⟩) hfit (State.readingGate_notOwn (u := u) h)).trans rfl
  · subst hch
    intro e found event
    have arrives : exec (.readingReport p ch.val v) s = .next (u.readingArrives e).settle := by
      rw [exec_readingReport, State.reportDelivered_service hp]
      exact next_congr (State.takeReading_arrives (u := u) hfit (State.readingGate_own (u := u) h))
    rw [arrives]
    refine ⟨fun hf => ?_, fun hf old hold => ?_, fun hf hnone hlt hquiet => ?_, fun hf hnone hlt hlen harmed => ?_, fun hf hnone hfull => ?_⟩
    · rw [State.readingArrives_unfitted (u := u) (e := e) hf]
    · rw [State.readingArrives_found (u := u) (e := e) hf hold]; rfl
    · rw [State.readingArrives_joins (u := u) (e := e) hf hnone hlt, State.appendReading_quiet (u := u) hquiet]; rfl
    · rw [State.readingArrives_joins (u := u) (e := e) hf hnone hlt, State.appendReading_high (u := u) hlen harmed]; rfl
    · rw [State.readingArrives_lost (u := u) (e := e) hf hnone hfull, State.loseReading_eq]; rfl

/-! ### The health of a channel (R58 to R60) -/

theorem stateOfCounter_isolated {n : Nat} : stateOfCounter n = .isolated ↔ 256 ≤ n := by
  unfold stateOfCounter
  repeat' split
  all_goals simp <;> omega

/-- The step of a channel that is not ISOLATED: the counter, and the state, run and acceptance by it (R58). -/
theorem ChannelKept.step_trusted (k : ChannelKept) (ok : Bool) (h : k.state ≠ .isolated) :
    (k.step ok).1 =
      { k with
        counter := stepCounter k.counter ok
        state := stateOfCounter (stepCounter k.counter ok)
        run := if 256 ≤ stepCounter k.counter ok then 0 else k.run } ∧
    ((k.step ok).2 = true ↔ ok = true ∧ stepCounter k.counter ok ≤ 127) := by
  have trusted : k.step ok = k.stepTrusted ok := if_neg h
  rw [trusted, ChannelKept.stepTrusted]
  refine ⟨?_, ?_⟩
  · simp only [stateOfCounter_isolated]
  · simp only [Bool.and_eq_true, Bool.or_eq_true, decide_eq_true_eq]
    refine and_congr_right fun _ => ?_
    unfold stateOfCounter
    repeat' split
    all_goals simp <;> omega

theorem ChannelKept.step_isolated {k : ChannelKept} (h : k.state = .isolated) :
    k.step false = ({ k with run := 0 }, false) ∧
    (31 ≤ k.run → k.mode = .automatic → k.step true = ({ k with counter := 0, state := .active, run := 0 }, true)) ∧
    (k.run < 31 ∨ k.mode ≠ .automatic → k.step true = ({ k with run := min (k.run + 1) 32 }, false)) := by
  have isolated : k.step true = k.stepIsolated true := if_pos h
  refine ⟨if_pos h, fun hrun hmode => ?_, fun hno => ?_⟩
  · have full : min (k.run + 1) 32 = 32 := by omega
    simp [isolated, ChannelKept.stepIsolated, full, hmode]
  · have short : ¬ (min (k.run + 1) 32 = 32 ∧ k.mode = .automatic) := fun ⟨hrun, hmode⟩ => by
      rcases hno with hno | hno
      · omega
      · exact hno hmode
    simp only [isolated, ChannelKept.stepIsolated, if_true, if_neg short]

/-- The record of a channel after a run of `n` implausible readings from counter 0. -/
def implausibleRun (m : RecoveryMode) (n : Nat) : ChannelKept :=
  { state := stateOfCounter (min (8 * n) 256), counter := min (8 * n) 256, run := 0, mode := m }

theorem implausibleRun_step (m : RecoveryMode) (n : Nat) : ((implausibleRun m n).step false).1 = implausibleRun m (n + 1) := by
  by_cases h : (implausibleRun m n).state = .isolated
  · have full : 256 ≤ min (8 * n) 256 := stateOfCounter_isolated.1 h
    have counter : min (8 * (n + 1)) 256 = min (8 * n) 256 := by omega
    rw [(ChannelKept.step_isolated h).1, implausibleRun, implausibleRun, counter]
  · have counter : stepCounter (implausibleRun m n).counter false = min (8 * (n + 1)) 256 := by
      change min (min (8 * n) 256 + 8) 256 = _
      omega
    rw [((implausibleRun m n).step_trusted false h).1, counter]
    simp [implausibleRun]

theorem repeat_implausible (m : RecoveryMode) (n : Nat) :
    Nat.repeat (fun x : ChannelKept => (x.step false).1) n { state := .active, counter := 0, run := 0, mode := m } =
      implausibleRun m n := by
  induction n with
  | zero => rfl
  | succ n ih => rw [Nat.repeat, ih, implausibleRun_step]

/-- Settles O41: one reading, on a channel in any state, and a run of implausible ones. -/
theorem channelHealthFollowsTheCounter : Obligations.ChannelHealthFollowsTheCounter := by
  unfold Obligations.ChannelHealthFollowsTheCounter
  refine ⟨fun k ok h => k.step_trusted ok h, fun k h => ChannelKept.step_isolated h, fun m n => ?_⟩
  rw [repeat_implausible]
  refine ⟨rfl, rfl, ?_⟩
  unfold implausibleRun stateOfCounter
  refine ⟨?_, ?_, ?_, ?_⟩ <;> dsimp only <;> repeat' split
  all_goals simp <;> omega

/-! ### The notices of a channel's condition (R63, R64) -/

theorem State.noteCondition_same {s : State} {old : Condition} {ch : ChannelNo} (h : s.condition ch = old ∨ s.fitted ch = false) :
    s.noteCondition old ch = s := if_pos h

theorem channelKind_eq_tank_iff {ch : ChannelNo} {t : TankNo} : channelKind ch = .tank t ↔ t.val = ch.val := by
  unfold channelKind
  repeat' split
  all_goals simp [Fin.ext_iff] <;> omega

/-- A change of condition matters on the drafts and the heel, and where it turns whether a GAUGED tank's value is held. -/
theorem State.conditionMatters_iff (s : State) (ch : ChannelNo) (old new : Condition) :
    s.conditionMatters ch old new = true ↔
      (32 ≤ ch.val ∧ ch.val ≤ 34) ∨
        ∃ t : TankNo, t.val = ch.val ∧ (s.tank t).source = .gauged ∧ holds old.state old.stale ≠ holds new.state new.stale := by
  unfold State.conditionMatters
  cases hk : channelKind ch with
  | tank t =>
    have ht := channelKind_eq_tank_iff.1 hk
    have same (t' : TankNo) : t'.val = ch.val ↔ t' = t := by rw [← ht, Fin.ext_iff]
    have low : ¬ (32 ≤ ch.val ∧ ch.val ≤ 34) := by omega
    simp [same, low]
  | draft | heel =>
    refine iff_of_true rfl (.inl ?_)
    unfold channelKind at hk
    repeat' split at hk
    all_goals cases hk <;> omega
  | hook c =>
    have high : 35 ≤ ch.val := by
      unfold channelKind at hk
      repeat' split at hk
      all_goals cases hk <;> omega
    refine iff_of_false Bool.false_ne_true ?_
    rintro (h | ⟨t, ht, -⟩)
    · omega
    · omega

theorem State.noteCondition_changed {s : State} {old : Condition} {ch : ChannelNo} (hc : s.condition ch ≠ old) (hf : s.fitted ch = true) :
    s.noteCondition old ch =
      { s.issue .channel ch.val (s.channelNoticeVals ch) with
        vol.livePending := s.vol.livePending || s.conditionMatters ch old (s.condition ch) } := by
  refine (if_neg (by simp [hc, hf])).trans ?_
  by_cases h : s.conditionMatters ch old (s.condition ch) = true
  · rw [if_pos h, h, Bool.or_true]; rfl
  · have mark : (s.issue .channel ch.val (s.channelNoticeVals ch)).vol.livePending = s.vol.livePending := State.issue_livePending ..
    rw [if_neg h, Bool.eq_false_iff.2 h, Bool.or_false, ← mark]

theorem State.channelExpired_iff (s : State) (ch : ChannelNo) :
    s.channelExpired ch = true ↔
      s.fitted ch = true ∧ (s.channelLive ch).stale = false ∧
        ∀ r, (s.channelLive ch).reference = some r → s.freshness ch < (elapsed r.arrival s.clock : Int) := by
  unfold State.channelExpired
  cases hr : (s.channelLive ch).reference <;> simp [and_assoc]

/-- Settles O42: the expiry, due and not due, and the notice of a change. -/
theorem channelConditionsAreNotified : Obligations.ChannelConditionsAreNotified := by
  unfold Obligations.ChannelConditionsAreNotified
  refine ⟨fun s ch => ⟨fun hp hf hs hr => next_congr (if_pos ⟨hp, (s.channelExpired_iff ch).2 ⟨hf, hs, hr⟩⟩), fun h => next_congr (if_neg ?_)⟩,
    fun s old ch => ⟨State.noteCondition_same, fun hc hf => ?_⟩⟩
  · rintro ⟨hp, hexp⟩
    obtain ⟨hf, hs, hr⟩ := (s.channelExpired_iff ch).1 hexp
    rcases h with h | h | h | ⟨r, hr', h⟩
    · exact h hp
    · exact Bool.false_ne_true (h.symm.trans hf)
    · exact Bool.false_ne_true (hs.symm.trans h)
    · exact Int.not_lt.2 h (hr r hr')
  · have matters : s.conditionMatters ch old (s.condition ch) =
        decide (32 ≤ ch.val ∧ ch.val ≤ 34 ∨
          ∃ t : TankNo, t.val = ch.val ∧ (s.tank t).source = .gauged ∧
            holds old.state old.stale ≠ holds (s.channelKept ch).state (s.channelLive ch).stale) :=
      Bool.eq_iff_iff.2 ((s.conditionMatters_iff ch old _).trans decide_eq_true_iff.symm)
    rw [State.noteCondition_changed hc hf, matters]
    rfl

end Sys2Proof.Machine
end

section
/-!
PROOF. The applier: what the head reading does to its channel, its tank and its crane (R54, R55, R58, R64 to R66, R69, R153).
-/
namespace Sys2Proof.Machine

section Applier
variable {s : State} {e : QueueEntry}

/-- The channel record stepped by a reading, in the state (R58). -/
def State.stepped (s : State) (e : QueueEntry) : State := s.onChannelKept e.channel fun _ => ((s.channelKept e.channel).step (s.plausible e)).1

/-- The state in which an accepted reading is delivered: its channel stepped, the reference taken, the change of condition noted. -/
def State.taken (s : State) (e : QueueEntry) : State := ((s.stepped e).setReference e).noteCondition (s.condition e.channel) e.channel

theorem State.testReading_accepted (h : ((s.channelKept e.channel).step (s.plausible e)).2 = true) :
    s.testReading e = ((s.taken e).deliverReading e).count (readingEvent 0 e.role) := if_pos h

theorem State.testReading_held (h : ((s.channelKept e.channel).step (s.plausible e)).2 = false) (ok : s.plausible e = true) :
    s.testReading e = (s.stepped e).noteCondition (s.condition e.channel) e.channel :=
  (if_neg (ne_true_of_eq_false h)).trans (if_pos ok)

theorem State.testReading_implausible (h : ((s.channelKept e.channel).step (s.plausible e)).2 = false) (ok : s.plausible e = false) :
    s.testReading e = ((s.stepped e).noteCondition (s.condition e.channel) e.channel).count (readingEvent 3 e.role) :=
  (if_neg (ne_true_of_eq_false h)).trans (if_neg (ne_true_of_eq_false ok))

/-- An implausible reading is not accepted (R58, R59). -/
theorem ChannelKept.step_implausible (k : ChannelKept) : (k.step false).2 = false := by
  by_cases h : k.state = .isolated
  · rw [(ChannelKept.step_isolated h).1]
  · exact Bool.eq_false_iff.2 fun hc => Bool.false_ne_true ((k.step_trusted false h).2.1 hc).1

theorem State.stepped_channelKept : (s.stepped e).channelKept e.channel = ((s.channelKept e.channel).step (s.plausible e)).1 := by
  simp [State.stepped, State.channelKept, State.onChannelKept, State.setKept, updAt]

theorem State.setReference_stepped :
    (s.stepped e).setReference e =
      (s.stepped e).onChannelLive e.channel fun k =>
        { k with
          stale := false
          reference := some
            { value := e.value, arrival := e.arrival
              doubtful := decide (((s.channelKept e.channel).step (s.plausible e)).1.state = .doubtful) } } := by
  rw [State.setReference, State.stepped_channelKept]

theorem State.noteCondition_kept (s : State) (old : Condition) (ch : ChannelNo) :
    (s.noteCondition old ch).kept = s.kept ∧ (s.noteCondition old ch).book = s.book := by
  unfold State.noteCondition
  split
  · exact ⟨rfl, rfl⟩
  · dsimp only
    split <;> simp [State.pendLive]

/-- The tanks stand while the reading is taken. -/
theorem State.taken_tanks : (s.taken e).kept.tanks = s.kept.tanks ∧ (s.taken e).book = s.book := by
  obtain ⟨kept, book⟩ := ((s.stepped e).setReference e).noteCondition_kept (s.condition e.channel) e.channel
  exact ⟨(congrArg Kept.tanks kept).trans rfl, book.trans rfl⟩

end Applier

section Deliver
variable {s : State} {e : QueueEntry}

theorem State.deliverReading_manual {t : TankNo} {v : Int} (hk : channelKind e.channel = .tank t) (hv : e.value = .level v)
    (hs : (s.tank t).source = .manual) : s.deliverReading e = s := by
  simp [State.deliverReading, hk, hv, hs]

theorem State.deliverReading_gauged {t : TankNo} {v : Int} (hk : channelKind e.channel = .tank t) (hv : e.value = .level v)
    (hs : (s.tank t).source = .gauged) :
    s.deliverReading e = s.changeTank t fun f => { f with applied := clamp 0 (s.tankBook t).consts.depth v } := by
  simp only [State.deliverReading, hk, hv, hs, if_true]
  rfl

theorem State.deliverReading_observed {v : Int} (hk : channelKind e.channel = .draft ∨ channelKind e.channel = .heel)
    (hv : e.value = .level v) : s.deliverReading e = s.pendLive := by
  rcases hk with hk | hk <;> simp only [State.deliverReading, hk, hv]

theorem State.deliverReading_hook {c : CraneNo} {load : Nat} {x y z : Int} (hk : channelKind e.channel = .hook c)
    (hv : e.value = .hook load x y z) :
    s.deliverReading e = s.hookReading c { load := load, head := { x := x, z := z, y := y }, arrival := e.arrival } := by
  simp only [State.deliverReading, hk, hv]

end Deliver

/-- The head reading of an applier at work, of a channel that is fitted and of one that is not (R50, R55). -/
theorem exec_applyReading {s : State} {e : QueueEntry} {rest : List QueueEntry} (hp : s.part = .service) (hq : s.vol.queue = e :: rest) :
    exec .applyReading s =
      .next (State.settle (if s.fitted e.channel then (s.removeHead rest).testReading e else s.removeHead rest)) := by
  have head : s.applyHead = if s.fitted e.channel then (s.removeHead rest).testReading e else s.removeHead rest := by
    simp only [State.applyHead, hq]
    rfl
  exact next_congr ((if_pos ⟨hp, by simp [hq]⟩).trans (congrArg State.settle head))

/-- Settles O40: the reading held, implausible or accepted, and an accepted one by the kind of its channel. -/
theorem applierAppliesTheHeadReading : Obligations.ApplierAppliesTheHeadReading := by
  unfold Obligations.ApplierAppliesTheHeadReading
  refine ⟨fun s h => next_congr (if_neg fun ⟨hp, hq⟩ => h.elim (fun h => h hp) (fun h => hq h)), fun s e rest hp hq => ?_⟩
  intro ch ok after event u stepped taken
  have stepped_eq : u.stepped e = stepped := rfl
  have taken_eq : u.taken e = taken := by
    rw [State.taken, State.setReference_stepped]
    rfl
  obtain ⟨tanks, book⟩ := State.taken_tanks (s := u) (e := e)
  rw [taken_eq] at tanks book
  have tank (n : TankNo) : taken.tank n = s.tank n := congrArg (fun v : Vector TankFill 32 => v[n.val]) tanks
  have unfitted (hf : s.fitted ch = false) : exec .applyReading s = .next (State.settle u) := by
    rw [exec_applyReading hp hq, if_neg (ne_true_of_eq_false hf)]
    rfl
  have tested (hf : s.fitted ch = true) : exec .applyReading s = .next (State.settle (u.testReading e)) := by
    rw [exec_applyReading hp hq, if_pos hf]
    rfl
  have delivered (hf : s.fitted ch = true) (ha : after.2 = true) {w : State} (hw : taken.deliverReading e = w) :
      exec .applyReading s = .next (State.settle (w.count (event 0))) := by
    rw [tested hf, State.testReading_accepted (s := u) ha, taken_eq, hw]
    rfl
  refine ⟨unfitted, fun hf ha hok => ?_, fun hf hok => ?_, fun hf ha => ⟨fun n v hk hv => ⟨fun hs => ?_, fun hs => ?_⟩, fun v hk hv => ?_,
    fun c load x y z hk hv => ?_⟩⟩
  · rw [tested hf, State.testReading_held (s := u) ha hok]; rfl
  · have rejected : after.2 = false := by
      change ((s.channelKept ch).step ok).2 = false
      rw [hok]
      exact ChannelKept.step_implausible _
    refine ⟨rejected, ?_⟩
    rw [tested hf, State.testReading_implausible (s := u) rejected hok]; rfl
  · exact delivered hf ha (State.deliverReading_manual hk hv ((congrArg TankFill.source (tank n)).trans hs))
  · obtain ⟨frame, resums, kept⟩ := taken.changeTank_changes n fun f => { f with applied := clamp 0 (taken.tankBook n).consts.depth v }
    refine ⟨_, delivered hf ha (State.deliverReading_gauged hk hv ((congrArg TankFill.source (tank n)).trans hs)), frame, resums,
      kept.trans ?_⟩
    rw [tank n, tanks, State.tankBook, book]
    rfl
  · exact delivered hf ha (State.deliverReading_observed hk hv)
  · exact delivered hf ha (State.deliverReading_hook hk hv)

end Sys2Proof.Machine
end

section
/-!
PROOF. Stop votes, hook readings and the STALE interval of a crane (R66, R78, R143, R153, R158, R160, R161).
-/
namespace Sys2Proof.Machine

/-! ### The crane's volatile record -/

section Record
variable (s : State) (c : CraneNo)

theorem State.onCrane_congr {f g : CraneLive → CraneLive} (h : f (s.craneLive c) = g (s.craneLive c)) : s.onCrane c f = s.onCrane c g := by
  have same : updAt s.vol.cranes c f = updAt s.vol.cranes c g := congrArg (fun x => s.vol.cranes.set c.val x c.isLt) h
  rw [State.onCrane, same]
  rfl

theorem State.onCrane_id : s.onCrane c id = s := by
  have same : updAt s.vol.cranes c id = s.vol.cranes := by simp [updAt]
  rw [State.onCrane, same]

theorem State.onCrane_onCrane (f g : CraneLive → CraneLive) : (s.onCrane c f).onCrane c g = s.onCrane c fun k => g (f k) := by
  simp only [State.onCrane, updAt, Vector.getElem_set_self, Vector.set_set]

theorem State.onCrane_craneLive_self (f : CraneLive → CraneLive) : (s.onCrane c f).craneLive c = f (s.craneLive c) :=
  (s.onCrane_craneLive c f c).trans (if_pos rfl)

theorem State.setCrane_craneState_self (k : CraneState) : (s.setCrane c k).craneState c = k :=
  (s.setCrane_craneState c k c).trans (if_pos rfl)

theorem State.withReasons_same {r : Reasons} (h : r = (s.craneLive c).reasons) : s.withReasons c r = s := if_pos h

theorem State.withReasons_changed {r : Reasons} (h : r ≠ (s.craneLive c).reasons) :
    s.withReasons c r = ((s.onCrane c fun k => { k with reasons := r }).setCrane c ((s.craneState c).under r)).permitNotice c := if_neg h

end Record

/-! ### Stop votes (R158, R161) -/

section Votes
variable {s : State} {p : Port} {k : CraneNo}

theorem State.voteGate_eq_none {crane : Nat} (h : s.role p ∈ [.officer, .planner] ∨ (s.role p ∈ [.crane] ∧ s.ownsCrane p crane = true)) :
    s.voteGate crane p = none := by
  by_cases hr : s.role p = .officer ∨ s.role p = .planner
  · exact if_pos hr
  · rcases h with h | ⟨h, ho⟩
    · exact absurd (by simpa using h) hr
    · exact (if_neg hr).trans (State.ownCrane_eq_none (List.mem_singleton.1 h) ho)

/-- A STOP-VOTE request from a port that may send it reaches the Crane Supervisor. -/
theorem State.serve_vote {c : Instr} {crane : Nat}
    (h : s.asks p c [.officer, .planner] ∨ (s.asks p c [.crane] ∧ s.ownsCrane p crane = true)) (block : State → State) :
    s.serve p c .condition (State.voteGate crane p) block = block s := by
  rcases h with ⟨hp, hs, hr⟩ | ⟨⟨hp, hs, hr⟩, ho⟩
  · exact s.serve_service p c _ _ _ hs hp (by decide) (State.voteGate_eq_none (.inl hr))
  · exact s.serve_service p c _ _ _ hs hp (by decide) (State.voteGate_eq_none (.inr ⟨hr, ho⟩))

theorem exec_stopVoteSet {crane action : Nat}
    (h : s.asks p (.stopVoteSet p crane action) [.officer, .planner] ∨
      (s.asks p (.stopVoteSet p crane action) [.crane] ∧ s.ownsCrane p crane = true)) :
    exec (.stopVoteSet p crane action) s = .next
      (match s.craneFor crane with
       | some c => if action = 0 then s.serveVote p c true else s.malformed p
       | none => s.malformed p) :=
  next_congr (State.serve_vote h _)

theorem exec_stopVoteRelease {crane : Nat}
    (h : s.asks p (.stopVoteRelease p crane) [.officer, .planner] ∨
      (s.asks p (.stopVoteRelease p crane) [.crane] ∧ s.ownsCrane p crane = true)) :
    exec (.stopVoteRelease p crane) s = .next
      (match s.craneFor crane with
       | some c => s.serveVote p c false
       | none => s.malformed p) :=
  next_congr (State.serve_vote h _)

/-- The request that sets or releases a vote. -/
theorem exec_vote {held : Bool} {c : Instr} (hc : c = (if held then .stopVoteSet p (k.val + 1) 0 else .stopVoteRelease p (k.val + 1)))
    (h : s.asks p c [.officer, .planner] ∨ (s.asks p c [.crane] ∧ s.ownsCrane p (k.val + 1) = true)) :
    exec c s = .next
      (match s.craneFor (k.val + 1) with
       | some c => s.serveVote p c held
       | none => s.malformed p) := by
  cases held with
  | true => subst hc; exact exec_stopVoteSet h
  | false => subst hc; exact exec_stopVoteRelease h

variable {held : Bool}

theorem State.castVote_same (h : (s.craneLive k).votes[p.val] = held) : s.castVote p k held = s := if_pos h

/-- The crane with the vote cast, before what follows from it. -/
def State.voted (s : State) (p : Port) (k : CraneNo) (held : Bool) : State :=
  s.onCrane k fun x => { x with votes := (s.craneLive k).votes.set p.val held p.isLt }

/-- The halt reasons by the votes then held. -/
def State.votedReasons (s : State) (p : Port) (k : CraneNo) (held : Bool) : Reasons :=
  { (s.craneLive k).reasons with vote := ((s.craneLive k).votes.set p.val held p.isLt).any id }

theorem State.voted_reasons : ((s.voted p k held).craneLive k).reasons = (s.craneLive k).reasons := by
  rw [State.voted, State.onCrane_craneLive_self]

/-- A vote that is not so yet is cast, and the state of the crane says what follows. -/
theorem State.castVote_changed (h : (s.craneLive k).votes[p.val] ≠ held) :
    s.castVote p k held =
      match s.craneState k with
      | .idle => s.voted p k held
      | .checking _ _ => if held then (s.voted p k held).onCrane k fun x => { x with voteInCheck := true } else s.voted p k held
      | .cleared _ _ => (s.voted p k held).withReasons k (s.votedReasons p k held)
      | .lifting _ _ => (s.voted p k held).withReasons k (s.votedReasons p k held)
      | .halted _ _ _ => (s.voted p k held).withReasons k (s.votedReasons p k held) := by
  have cast : (s.onCrane k fun x => { x with votes := x.votes.set p.val held p.isLt }) = s.voted p k held := State.onCrane_congr _ _ rfl
  have reasons : ({ ((s.voted p k held).craneLive k).reasons with vote := ((s.voted p k held).craneLive k).anyVote } : Reasons) =
      s.votedReasons p k held := by
    rw [State.voted, State.onCrane_craneLive_self]
    rfl
  have state : (s.voted p k held).craneState k = s.craneState k := rfl
  refine (if_neg h).trans ?_
  dsimp only
  cases hs : s.craneState k <;> rw [cast, reasons, state, hs]

/-- In CHECKING a vote set marks the check. -/
theorem State.castVote_checking (h : (s.craneLive k).votes[p.val] ≠ held) {n : Nat} {d : Direction} (hs : s.craneState k = .checking n d) :
    s.castVote p k held = (s.voted p k held).onCrane k fun x => { x with voteInCheck := held || x.voteInCheck } := by
  rw [State.castVote_changed h, hs]
  cases held with
  | true => rfl
  | false => exact (State.onCrane_id _ k).symm

/-- In CLEARED, LIFTING and HALTED the reasons follow the votes. -/
theorem State.castVote_halts (h : (s.craneLive k).votes[p.val] ≠ held) (hc : ∀ n d, s.craneState k ≠ .checking n d)
    (hi : s.craneState k ≠ .idle) : s.castVote p k held = (s.voted p k held).withReasons k (s.votedReasons p k held) := by
  rw [State.castVote_changed h]
  cases hs : s.craneState k with
  | idle => exact absurd hs hi
  | checking n d => exact absurd hs (hc n d)
  | cleared n d => rfl
  | lifting n d => rfl
  | halted f n d => rfl

end Votes

/-- The state of a crane under its reasons: HALTED exactly while there is one (R161). -/
theorem CraneState.under_cases (k : CraneState) (r : Reasons) (h : Nat) (d : Direction) :
    (k = .cleared h d ∨ k = .halted .cleared h d → k.under r = if r.isEmpty then .cleared h d else .halted .cleared h d) ∧
    (k = .lifting h d ∨ k = .halted .lifting h d → k.under r = if r.isEmpty then .lifting h d else .halted .lifting h d) := by
  constructor <;> rintro (rfl | rfl) <;> rfl

/-- Settles O51: the vote cast by the state of its crane, and the requests that name no crane or no action. -/
theorem stopVotesHaltAndRelease : Obligations.StopVotesHaltAndRelease := by
  unfold Obligations.StopVotesHaltAndRelease
  refine ⟨fun s p k held c hc hask => ⟨fun hk => ⟨s.castVote p k held, ?_, State.castVote_same, fun hne => ?_⟩, fun hk => ?_⟩,
    fun s p crane action ha hask => ?_, fun s p crane c hcrane hc hask => ?_⟩
  · rw [exec_vote hc hask, State.craneFor_val hk]; rfl
  · intro votes v r
    refine ⟨fun hs => ?_, fun h d hs => State.castVote_checking hne hs, fun hcheck hidle => ⟨fun hr => ?_, fun hr => ?_⟩⟩
    · rw [State.castVote_changed hne, hs]
      rfl
    · exact (State.castVote_halts hne hcheck hidle).trans (State.withReasons_same _ _ (hr.trans State.voted_reasons.symm))
    · have changed : s.votedReasons p k held ≠ ((s.voted p k held).craneLive k).reasons := fun he => hr (he.trans State.voted_reasons)
      refine ⟨_, (State.castVote_halts hne hcheck hidle).trans (State.withReasons_changed _ _ changed), rfl, fun h d => ?_⟩
      rw [State.setCrane_craneState_self]
      exact (s.craneState k).under_cases r h d
  · rw [exec_vote hc hask, State.craneFor_eq_none (.inr (.inr hk))]; rfl
  · rw [exec_stopVoteSet hask]
    cases s.craneFor crane with
    | none => rfl
    | some c => exact next_congr (if_neg (by omega))
  · have none : s.craneFor crane = none := State.craneFor_eq_none (hcrane.imp_right .inl)
    rcases hc with ⟨action, rfl⟩ | rfl
    · rw [exec_stopVoteSet (.inl hask), none]; rfl
    · rw [exec_stopVoteRelease (.inl hask), none]; rfl

/-! ### Hook readings (R153, R160) -/

/-- Where an item's PLAN contribution stands, its change reaches LIVE alone. -/
theorem State.accumulate_liveOnly {s v : State} {i : Item} (hplan : v.itemPlan i = s.itemPlan i) :
    v.accumulate s [i] =
      { v with
        vol.live := shiftSums v.vol.live [s.itemLive i] [v.itemLive i]
        vol.livePending := v.vol.livePending || decide (shiftSums v.vol.live [s.itemLive i] [v.itemLive i] ≠ v.vol.live) } := by
  simp only [State.accumulate, List.map_cons, List.map_nil, hplan, shiftSums_same, ne_eq, not_true_eq_false, decide_false, Bool.or_false]

/-- The reasons of a crane are no part of what a lot contributes. -/
theorem State.onCrane_boom_lot (v : State) (k : CraneNo) {f : CraneLive → CraneLive} (hf : (f (v.craneLive k)).boom = (v.craneLive k).boom)
    (h : Nat) : (v.onCrane k f).itemLive (.lot h) = v.itemLive (.lot h) := by
  have boom (e : CraneNo) : ((v.onCrane k f).craneLive e).boom = (v.craneLive e).boom := by
    rw [State.onCrane_craneLive]
    split
    · rename_i he; rw [hf, he]
    · rfl
  have head (e : CraneNo) (l : Lot) : (v.onCrane k f).boomHead e l = v.boomHead e l := by
    rw [State.boomHead, State.boomHead, boom]; rfl
  have live (l : Lot) : (v.onCrane k f).lotLive l = v.lotLive l := by
    simp only [State.lotLive, head]
    rfl
  rw [State.itemLive_lot, State.itemLive_lot]
  exact congrArg (fun g => ((v.kept.lot h).map g).getD SumSet.zero) (funext live)

theorem CraneState.hanging_eq_some {k : CraneState} {h : Nat} {d : Direction} (hs : k = .lifting h d ∨ k = .halted .lifting h d) :
    k.hanging = some h := by
  rcases hs with rfl | rfl <;> rfl

theorem CraneState.hanging_eq_none {k : CraneState} (hs : ∀ h d, k ≠ .lifting h d ∧ k ≠ .halted .lifting h d) : k.hanging = none := by
  rcases k with _ | _ | _ | ⟨h, d⟩ | ⟨_ | _, h, d⟩
  · rfl
  · rfl
  · rfl
  · exact absurd rfl (hs h d).1
  · rfl
  · exact absurd rfl (hs h d).2

theorem Reasons.isEmpty_iff (r : Reasons) (h : r.stale = false) : r.isEmpty = true ↔ r.vote = false ∧ r.limit = false := by
  simp [Reasons.isEmpty, h]

section HookReading
variable {s : State} {k : CraneNo}

/-- The crane record with a hook reading of the lot that hangs on it, under some reasons (R153). -/
def CraneLive.followed (x : CraneLive) (r : HookReading) (now : Clock) (reasons : Reasons) : CraneLive :=
  { x with hook := some r, sinceClearance := true, sinceHookOn := true, boom := some r.head, staleFrom := now, reasons := reasons }

/-- The state with what hangs on a crane moved to the reading's boom head, under some reasons. -/
def State.followed (s : State) (k : CraneNo) (r : HookReading) (h : Nat) (reasons : Reasons) : State :=
  (s.onCrane k fun x => x.followed r s.clock reasons).accumulate s [.lot h]

/-- The reasons are set apart from the sums. -/
theorem State.followed_reasons (r : HookReading) (h : Nat) (old reasons : Reasons) :
    (s.followed k r h old).onCrane k (fun x => { x with reasons := reasons }) = s.followed k r h reasons := by
  have merged : (s.onCrane k fun x => x.followed r s.clock old).onCrane k (fun x => { x with reasons := reasons }) =
      s.onCrane k fun x => x.followed r s.clock reasons := State.onCrane_onCrane ..
  have lot : (s.onCrane k fun x => x.followed r s.clock reasons).itemLive (.lot h) =
      (s.onCrane k fun x => x.followed r s.clock old).itemLive (.lot h) := by
    rw [← merged]
    exact State.onCrane_boom_lot _ k (by rfl) h
  let sums := shiftSums s.vol.live [s.itemLive (.lot h)] [(s.onCrane k fun x => x.followed r s.clock old).itemLive (.lot h)]
  rw [State.followed, State.followed, State.accumulate_liveOnly (by rfl), State.accumulate_liveOnly (by rfl), lot]
  exact congrArg (fun v : State => { v with vol.live := sums, vol.livePending := s.vol.livePending || decide (sums ≠ s.vol.live) }) merged

theorem State.followed_craneLive (r : HookReading) (h : Nat) (reasons : Reasons) :
    (s.followed k r h reasons).craneLive k = (s.craneLive k).followed r s.clock reasons :=
  State.onCrane_craneLive_self ..

theorem State.hookReading_hanging {h : Nat} (hh : (s.craneState k).hanging = some h) (r : HookReading) :
    s.hookReading k r =
      (s.followed k r h (s.craneLive k).reasons).withReasons k { (s.craneLive k).reasons with stale := false } := by
  have hand : s.handReading k r = s.followed k r h (s.craneLive k).reasons := by
    have taken : (s.onCrane k fun x => { x.takeReading r with boom := some r.head, staleFrom := s.clock }) =
        s.onCrane k fun x => x.followed r s.clock (s.craneLive k).reasons := State.onCrane_congr s k rfl
    simp only [State.handReading, hh, taken]
    rfl
  rw [State.hookReading_eq, hh, Option.isSome_some, if_pos rfl, hand, State.followed_craneLive]
  rfl

theorem State.hookReading_free (hh : (s.craneState k).hanging = none) (r : HookReading) :
    s.hookReading k r =
      (s.onCrane k fun x => { x with hook := some r, sinceClearance := true, sinceHookOn := true, freeReading := true }).accumulate s
        [.hook k] := by
  rw [State.hookReading_eq, hh, if_neg (by simp), State.handReading, hh]
  rfl

theorem State.hookStale_iff :
    s.hookStale k = true ↔
      (s.craneState k).hanging ≠ none ∧ (s.craneLive k).reasons.stale = false ∧
        s.book.cranes[k.val].freshness < (elapsed (s.craneLive k).staleFrom s.clock : Int) := by
  simp [State.hookStale, and_assoc, Option.isSome_iff_ne_none]

end HookReading

/-- Settles O57: a reading of a hanging lot, one of a free hook, and the expiry of the STALE interval. -/
theorem hookReadingsAndStaleness : Obligations.HookReadingsAndStaleness := by
  unfold Obligations.HookReadingsAndStaleness
  refine ⟨fun s k r => ?_, fun s k => ?_⟩
  · intro moves
    refine ⟨fun h d hs => ?_, fun hs => ?_⟩
    · intro reasons u
      have hanging := CraneState.hanging_eq_some hs
      have moved : s.followed k r h reasons = u := State.accumulate_liveOnly (by rfl)
      refine ⟨fun hstale => ?_, fun hstale => ?_⟩
      · have same : reasons = (s.craneLive k).reasons := by
          change ({ (s.craneLive k).reasons with stale := false } : Reasons) = _
          rw [← hstale]
        have stands : reasons = ((s.followed k r h (s.craneLive k).reasons).craneLive k).reasons := by
          rw [same]
          exact ((congrArg CraneLive.reasons (State.followed_craneLive r h _)).trans rfl).symm
        rw [State.hookReading_hanging hanging, State.withReasons_same _ _ stands, ← moved, same]
      · have changed : reasons ≠ ((s.followed k r h (s.craneLive k).reasons).craneLive k).reasons := by
          have live : ((s.followed k r h (s.craneLive k).reasons).craneLive k).reasons = (s.craneLive k).reasons :=
            (congrArg CraneLive.reasons (State.followed_craneLive r h _)).trans rfl
          rw [live]
          intro he
          have : false = true := (congrArg Reasons.stale he).trans hstale
          cases this
        have state : (s.craneState k).under reasons =
            if reasons.vote = false ∧ reasons.limit = false then .lifting h d else .halted .lifting h d := by
          rw [((s.craneState k).under_cases reasons h d).2 hs]
          exact ite_congr (propext (reasons.isEmpty_iff rfl)) (fun _ => rfl) fun _ => rfl
        rw [State.hookReading_hanging hanging, State.withReasons_changed _ _ changed, State.followed_reasons, moved]
        change (u.setCrane k ((s.craneState k).under reasons)).permitNotice k = _
        rw [state]
    · rw [State.hookReading_free (CraneState.hanging_eq_none hs)]
      exact State.accumulate_liveOnly rfl
  · intro due r
    refine ⟨fun h => next_congr (if_neg fun ⟨hp, he⟩ => h ⟨hp, State.hookStale_iff.1 he⟩), fun ⟨hp, hdue⟩ => ?_⟩
    intro u
    have added : s.withReasons k r = u := State.withReasons_changed _ _ fun he => by
      obtain ⟨-, hstale, -⟩ := hdue
      have : true = false := (congrArg Reasons.stale he).trans hstale
      cases this
    refine next_congr ((if_pos ⟨hp, State.hookStale_iff.2 hdue⟩).trans ?_)
    change ((s.withReasons k r).countAll (haltEvents s (s.withReasons k r))).settle = _
    rw [added]

end Sys2Proof.Machine
end

section
/-!
PROOF. The limit event: the test of one crane, and of every crane in turn (R144, R159, R161, R173).
-/
namespace Sys2Proof.Machine

/-! ### The PERMIT notice (R144) -/

/-- The permit line of a crane whose state asserts it. -/
theorem State.permit_eq (s : State) (k : CraneNo) (h : (s.craneState k).permits = true) :
    flagVal (s.permit k) = .u8 (if s.supply = true ∧ s.part = .service ∧ k.val + 1 ≤ s.book.craneCount then 1 else 0) := by
  have exist : s.craneExists k = decide (k.val + 1 ≤ s.book.craneCount) := rfl
  have level : s.permit k = decide (s.supply = true ∧ s.part = .service ∧ k.val + 1 ≤ s.book.craneCount) := by
    simp [State.permit, exist, h, Bool.and_assoc]
  rw [level, flagVal]
  by_cases hc : s.supply = true ∧ s.part = .service ∧ k.val + 1 ≤ s.book.craneCount
  · rw [decide_eq_true hc, if_pos hc]; rfl
  · rw [decide_eq_false hc, if_neg hc]; rfl

theorem State.permit_of_not (s : State) (k : CraneNo) (h : (s.craneState k).permits = false) : flagVal (s.permit k) = .u8 0 := by
  simp [State.permit, h, flagVal]

/-- A PERMIT notice shows the crane's record, and the installation's level. -/
theorem State.permitVals_congr {s t : State} {k : CraneNo} (hsupply : t.supply = s.supply) (hpart : t.part = s.part)
    (hbook : t.book = s.book) (hstate : t.craneState k = s.craneState k) (hlive : t.craneLive k = s.craneLive k) :
    t.permitVals k = s.permitVals k := by
  simp only [State.permitVals, State.permit, State.craneExists, hsupply, hpart, hbook, hstate, hlive]

/-! ### The test of one crane (R159) -/

/-- What the LIMIT test makes of a crane from `s` to `u`: LIMIT added beyond the limits, removed well within them, or the crane as it
was. -/
def State.limitTested (s u : State) (v : Verdict) (k : CraneNo) : Prop :=
  let b := s.book.cranes[k.val]
  let x := s.craneLive k
  let beyond := b.heelLimit < (v.fig.list.natAbs : Int) ∨ v.fig.gm < b.gmMin ∨ v.fig.flags.gmNonpos = true
  let well :=
    (v.fig.list.natAbs : Int) ≤ b.heelLimit - b.hysteresis ∧ b.gmMin ≤ v.fig.gm ∧ v.fig.flags.gmNonpos = false ∧
      ∀ g, x.limitGen = some g → g ≤ v.generation
  let tested := s.craneState k ≠ .idle ∧ ∀ h d, s.craneState k ≠ .checking h d
  (tested → x.reasons.limit = false → beyond →
    u.craneLive k = { x with reasons := { x.reasons with limit := true } } ∧
    u.craneState k = (s.craneState k).under { x.reasons with limit := true }) ∧
  (tested → x.reasons.limit = true → well →
    u.craneLive k = { x with reasons := { x.reasons with limit := false }, limitGen := none } ∧
    u.craneState k = (s.craneState k).under { x.reasons with limit := false }) ∧
  (¬ tested ∨ (x.reasons.limit = false ∧ ¬ beyond) ∨ (x.reasons.limit = true ∧ ¬ well) →
    u.craneLive k = x ∧ u.craneState k = s.craneState k)

/-- From `s` to `u` the cranes of a list have been tested in turn: nothing but crane records, notices and the check word has changed,
each crane of the list is tested, the others stand, and each change of reasons has its notice. -/
structure State.LimitTests (s u : State) (v : Verdict) (l : List CraneNo) : Prop where
  frame : u = { s with
    kept.cranes := u.kept.cranes
    keptCheck := u.keptCheck
    vol.cranes := u.vol.cranes
    vol.ports := u.vol.ports }
  others : ∀ k ∉ l, u.craneLive k = s.craneLive k ∧ u.craneState k = s.craneState k
  tested : ∀ k ∈ l, s.limitTested u v k
  notices : ∀ p : Port, u.port p =
    (l.filter fun k => decide ((u.craneLive k).reasons ≠ (s.craneLive k).reasons)).foldl
      (fun q k => q.pushNotice { kind := .permit, clock := s.clock, subject := k.val + 1, body := u.permitVals k }) (s.port p)

theorem State.LimitTests.nil (s : State) (v : Verdict) : s.LimitTests s v [] where
  frame := rfl
  others _ _ := ⟨rfl, rfl⟩
  tested _ h := absurd h List.not_mem_nil
  notices _ := rfl

theorem beyondLimits_iff (b : CraneBook) (f : Figures) :
    beyondLimits b f = true ↔ b.heelLimit < (f.list.natAbs : Int) ∨ f.gm < b.gmMin ∨ f.flags.gmNonpos = true := by
  simp [beyondLimits, or_assoc]

theorem wellWithinLimits_iff (b : CraneBook) (f : Figures) (gen : Nat) (limitGen : Option Nat) :
    (wellWithinLimits b f && Machine.reaches gen limitGen) = true ↔
      (f.list.natAbs : Int) ≤ b.heelLimit - b.hysteresis ∧ b.gmMin ≤ f.gm ∧ f.flags.gmNonpos = false ∧
        ∀ g, limitGen = some g → g ≤ gen := by
  cases limitGen <;> simp [wellWithinLimits, Machine.reaches, and_assoc]

section One
variable {s : State} {v : Verdict} {c : CraneNo}

/-- The test of a crane in CLEARED, LIFTING or HALTED. -/
theorem State.limitTest_tested (h : s.craneState c ≠ .idle ∧ ∀ n d, s.craneState c ≠ .checking n d) :
    s.limitTest v c =
      if (s.craneLive c).reasons.limit then
        if wellWithinLimits s.book.cranes[c.val] v.fig && Machine.reaches v.generation (s.craneLive c).limitGen then
          (s.onCrane c fun k => { k with limitGen := none }).withReasons c { (s.craneLive c).reasons with limit := false }
        else s
      else if beyondLimits s.book.cranes[c.val] v.fig then s.withReasons c { (s.craneLive c).reasons with limit := true }
      else s := by
  obtain ⟨hi, hc⟩ := h
  unfold State.limitTest
  cases hs : s.craneState c with
  | idle => exact absurd hs hi
  | checking n d => exact absurd hs (hc n d)
  | cleared n d => rfl
  | lifting n d => rfl
  | halted f n d => rfl

theorem State.limitTest_untested (h : ¬ (s.craneState c ≠ .idle ∧ ∀ n d, s.craneState c ≠ .checking n d)) : s.limitTest v c = s := by
  unfold State.limitTest
  cases hs : s.craneState c with
  | idle => rfl
  | checking n d => rfl
  | cleared n d => exact absurd ⟨by simp [hs], by simp [hs]⟩ h
  | lifting n d => exact absurd ⟨by simp [hs], by simp [hs]⟩ h
  | halted f n d => exact absurd ⟨by simp [hs], by simp [hs]⟩ h

/-- The change of a crane's reasons, with a change of its record that leaves them. -/
theorem State.changeReasons (hp : s.part = .service) {f : CraneLive → CraneLive} {r : Reasons}
    (hf : (f (s.craneLive c)).reasons = (s.craneLive c).reasons) (hr : r ≠ (s.craneLive c).reasons) :
    let u := (s.onCrane c f).withReasons c r
    u = { s with
      kept.cranes := u.kept.cranes
      keptCheck := u.keptCheck
      vol.cranes := u.vol.cranes
      vol.ports := u.vol.ports } ∧
    (∀ k, k ≠ c → u.craneLive k = s.craneLive k ∧ u.craneState k = s.craneState k) ∧
    u.craneLive c = { f (s.craneLive c) with reasons := r } ∧ u.craneState c = (s.craneState c).under r ∧
    ∀ p, u.port p = (s.port p).pushNotice { kind := .permit, clock := s.clock, subject := c.val + 1, body := u.permitVals c } := by
  intro u
  have changed : r ≠ ((s.onCrane c f).craneLive c).reasons := by rw [State.onCrane_craneLive_self, hf]; exact hr
  obtain ⟨frame, ports⟩ := (s.onCrane c f).withReasons_spec c r changed hp
  have cranes : u.vol.cranes = updAt (s.onCrane c f).vol.cranes c fun k => { k with reasons := r } := congrArg (fun t => t.vol.cranes) frame
  have states : u.kept.cranes = s.kept.cranes.set c.val ((s.craneState c).under r) c.isLt := congrArg (fun t => t.kept.cranes) frame
  have live (k : CraneNo) : u.craneLive k = ((s.onCrane c f).onCrane c fun k => { k with reasons := r }).craneLive k :=
    congrArg (fun v : Vector CraneLive 4 => v[k.val]) cranes
  have state (k : CraneNo) : u.craneState k = (s.setCrane c ((s.craneState c).under r)).craneState k :=
    congrArg (fun v : Vector CraneState 4 => v[k.val]) states
  refine ⟨?_, fun k hk => ⟨?_, ?_⟩, ?_, ?_, ports⟩
  · rw [states, cranes]
    exact frame
  · rw [live, State.onCrane_craneLive, if_neg hk, State.onCrane_craneLive, if_neg hk]
  · rw [state, State.setCrane_craneState, if_neg hk]
  · rw [live, State.onCrane_craneLive_self, State.onCrane_craneLive_self]
  · rw [state, State.setCrane_craneState_self]

end One

/-- One crane tested. -/
theorem State.limitTest_tests {s : State} (hp : s.part = .service) (v : Verdict) (c : CraneNo) : s.LimitTests (s.limitTest v c) v [c] := by
  have stands {u : State} (hu : u = s)
      (h : ¬ (s.craneState c ≠ .idle ∧ ∀ n d, s.craneState c ≠ .checking n d) ∨
          ((s.craneLive c).reasons.limit = false ∧ ¬ beyondLimits s.book.cranes[c.val] v.fig = true) ∨
          ((s.craneLive c).reasons.limit = true ∧
            ¬ (wellWithinLimits s.book.cranes[c.val] v.fig && Machine.reaches v.generation (s.craneLive c).limitGen) = true)) :
      s.LimitTests u v [c] := by
    subst hu
    refine ⟨rfl, fun _ _ => ⟨rfl, rfl⟩, fun k hk => ?_, fun p => by simp⟩
    rw [List.mem_singleton.1 hk]
    rw [beyondLimits_iff, wellWithinLimits_iff] at h
    refine ⟨fun ht hl hb => ?_, fun ht hl hw => ?_, fun _ => ⟨rfl, rfl⟩⟩
    · rcases h with h | ⟨-, h⟩ | ⟨h, -⟩
      · exact absurd ht h
      · exact absurd hb h
      · exact absurd (h.symm.trans hl) (by decide)
    · rcases h with h | ⟨h, -⟩ | ⟨-, h⟩
      · exact absurd ht h
      · exact absurd (h.symm.trans hl) (by decide)
      · exact absurd hw h
  have changes {f : CraneLive → CraneLive} {r : Reasons} {u : State} (hu : u = (s.onCrane c f).withReasons c r)
      (hf : (f (s.craneLive c)).reasons = (s.craneLive c).reasons) (hr : r ≠ (s.craneLive c).reasons)
      (htested : u.craneLive c = { f (s.craneLive c) with reasons := r } → u.craneState c = (s.craneState c).under r →
        s.limitTested u v c) : s.LimitTests u v [c] := by
    obtain ⟨frame, others, live, state, ports⟩ := State.changeReasons hp hf hr
    rw [← hu] at frame others live state ports
    refine ⟨frame, fun k hk => others k fun h => hk (h ▸ List.mem_singleton_self c), fun k hk => ?_, fun p => ?_⟩
    · rw [List.mem_singleton.1 hk]
      exact htested live state
    · have kept : decide ((u.craneLive c).reasons ≠ (s.craneLive c).reasons) = true := by rw [live]; exact decide_eq_true hr
      rw [List.filter_cons, if_pos kept]
      exact ports p
  by_cases ht : s.craneState c ≠ .idle ∧ ∀ n d, s.craneState c ≠ .checking n d
  · have test := State.limitTest_tested (v := v) ht
    cases hl : (s.craneLive c).reasons.limit with
    | true =>
      rw [hl, if_pos rfl] at test
      by_cases hw : (wellWithinLimits s.book.cranes[c.val] v.fig && Machine.reaches v.generation (s.craneLive c).limitGen) = true
      · rw [if_pos hw] at test
        have lifted : ({ (s.craneLive c).reasons with limit := false } : Reasons) ≠ (s.craneLive c).reasons := fun he => by
          have : false = true := (congrArg Reasons.limit he).trans hl
          cases this
        refine changes test rfl lifted fun live state => ⟨fun _ h => ?_, fun _ _ _ => ⟨live, state⟩, fun h => ?_⟩
        · exact absurd (hl.symm.trans h) (by decide)
        · rcases h with h | ⟨h, -⟩ | ⟨-, h⟩
          · exact absurd ht h
          · exact absurd (hl.symm.trans h) (by decide)
          · exact absurd ((wellWithinLimits_iff ..).1 hw) h
      · rw [if_neg hw] at test
        exact stands test (.inr (.inr ⟨hl, hw⟩))
    | false =>
      rw [hl, if_neg Bool.false_ne_true] at test
      by_cases hb : beyondLimits s.book.cranes[c.val] v.fig = true
      · rw [if_pos hb] at test
        have added : ({ (s.craneLive c).reasons with limit := true } : Reasons) ≠ (s.craneLive c).reasons := fun he => by
          have : true = false := (congrArg Reasons.limit he).trans hl
          cases this
        refine changes (f := id) (test.trans (by rw [State.onCrane_id])) rfl added fun live state =>
          ⟨fun _ _ _ => ⟨live, state⟩, fun _ h => ?_, fun h => ?_⟩
        · exact absurd (hl.symm.trans h) (by decide)
        · rcases h with h | ⟨-, h⟩ | ⟨h, -⟩
          · exact absurd ht h
          · exact absurd ((beyondLimits_iff ..).1 hb) h
          · exact absurd (hl.symm.trans h) (by decide)
      · rw [if_neg hb] at test
        exact stands test (.inr (.inl ⟨hl, hb⟩))
  · exact stands (State.limitTest_untested ht) (.inl ht)

/-- The test looks at the crane and the book alone. -/
theorem State.limitTested_congr {s t u w : State} {v : Verdict} {k : CraneNo} (hbook : t.book = s.book)
    (hlive : t.craneLive k = s.craneLive k) (hstate : t.craneState k = s.craneState k) (ulive : w.craneLive k = u.craneLive k)
    (ustate : w.craneState k = u.craneState k) (h : s.limitTested u v k) : t.limitTested w v k := by
  unfold State.limitTested at h ⊢
  rw [hbook, hlive, hstate, ulive, ustate]
  exact h

/-- A crane tested before others. -/
theorem State.LimitTests.cons {s t u : State} {v : Verdict} {c : CraneNo} {l : List CraneNo} (hc : c ∉ l)
    (first : s.LimitTests t v [c]) (rest : t.LimitTests u v l) : s.LimitTests u v (c :: l) := by
  have tbook : t.book = s.book := (congrArg State.book first.frame).trans rfl
  have tclock : t.clock = s.clock := (congrArg State.clock first.frame).trans rfl
  have ubook : u.book = t.book := (congrArg State.book rest.frame).trans rfl
  have supply : u.supply = t.supply := (congrArg State.supply rest.frame).trans rfl
  have part : u.part = t.part := (congrArg State.part rest.frame).trans rfl
  obtain ⟨ulive, ustate⟩ := rest.others c hc
  have before (k : CraneNo) (hk : k ∈ l) : t.craneLive k = s.craneLive k ∧ t.craneState k = s.craneState k :=
    first.others k fun h => hc (List.mem_singleton.1 h ▸ hk)
  refine ⟨?_, fun k hk => ?_, fun k hk => ?_, fun p => ?_⟩
  · have hu := rest.frame
    rw [first.frame] at hu
    exact hu
  · obtain ⟨hkc, hkl⟩ := not_or.1 (fun h => hk (List.mem_cons.2 h))
    obtain ⟨live, state⟩ := rest.others k hkl
    obtain ⟨live', state'⟩ := first.others k fun h => hkc (List.mem_singleton.1 h)
    exact ⟨live.trans live', state.trans state'⟩
  · rcases List.mem_cons.1 hk with rfl | hk
    · exact State.limitTested_congr rfl rfl rfl ulive ustate (first.tested k (List.mem_singleton_self k))
    · obtain ⟨live, state⟩ := before k hk
      exact State.limitTested_congr tbook.symm live.symm state.symm rfl rfl (rest.tested k hk)
  · have tail : (l.filter fun k => decide ((u.craneLive k).reasons ≠ (t.craneLive k).reasons)) =
        l.filter fun k => decide ((u.craneLive k).reasons ≠ (s.craneLive k).reasons) :=
      List.filter_congr fun k hk => by rw [(before k hk).1]
    have body : u.permitVals c = t.permitVals c := State.permitVals_congr supply part ubook ustate ulive
    have head := first.notices p
    rw [rest.notices p, tail, tclock, head, List.filter_cons, List.filter_cons, ulive]
    split
    · rw [List.filter_nil, List.foldl_cons, List.foldl_nil, List.foldl_cons, body]
    · rfl

theorem State.limitTests {s : State} (hp : s.part = .service) (v : Verdict) (l : List CraneNo) (hl : l.Nodup) :
    s.LimitTests (l.foldl (fun t c => t.limitTest v c) s) v l := by
  induction l generalizing s with
  | nil => exact .nil s v
  | cons c l ih =>
    obtain ⟨hc, hl⟩ := List.nodup_cons.1 hl
    have first := State.limitTest_tests hp v c
    have part : (s.limitTest v c).part = .service := ((congrArg State.part first.frame).trans rfl).trans hp
    exact .cons hc first (ih part hl)

/-- The limit event by the pending verdict and the part state. -/
theorem exec_limitEvent (s : State) : exec .limitEvent s = .next (match s.vol.supervisor with
    | some v => if s.part = PartState.service then (s.takeVerdict v).settle else s
    | none => s) := rfl

/-- Settles O56: every crane's test in turn, the notices and events that follow, and the fields of a PERMIT notice. -/
theorem limitEventTestsEveryCrane : Obligations.LimitEventTestsEveryCrane := by
  unfold Obligations.LimitEventTestsEveryCrane
  refine ⟨fun s h => ?_, fun s v hp hv => ?_, fun s k => ?_⟩
  · rw [exec_limitEvent]
    rcases h with h | h
    · rw [h]
    · cases s.vol.supervisor with
      | none => rfl
      | some v => exact next_congr (if_neg h)
  · let taken : State := { s with vol.supervisor := none }
    have tests := State.limitTests (s := taken) hp v (List.finRange 4) (List.nodup_finRange 4)
    generalize hu : (List.finRange 4).foldl (fun t c => t.limitTest v c) taken = u at tests
    obtain ⟨frame, -, tested, notices⟩ := tests
    refine ⟨u, ?_, frame, notices, fun k => tested k (List.mem_finRange k)⟩
    have lots : u.kept.lot = s.kept.lot := (congrArg (fun t => t.kept.lot) frame).trans rfl
    have groups : u.groupOf = s.groupOf := by rw [frame]; rfl
    have events : haltEvents taken u =
        ((List.finRange 4).filter fun k => (u.craneState k).isHalted && !(s.craneState k).isHalted).map fun k =>
          { cls := .clearances, sub := 2, role := none
            group := (u.craneState k).named.bind fun n => (s.kept.lot n.1).map fun l => s.groupOf l.space
            amount := 1 } := by
      unfold haltEvents State.haltEvent State.lotGroup
      rw [lots, groups]
      rfl
    rw [exec_limitEvent, hv]
    refine next_congr ((if_pos hp).trans (congrArg State.settle ?_))
    rw [← events, ← hu]
    rfl
  · intro r reasons level named
    unfold State.permitVals
    cases hs : s.craneState k with
    | idle => rw [s.permit_of_not k (by rw [hs]; rfl)]; rfl
    | checking h d => rw [s.permit_of_not k (by rw [hs]; rfl)]; rfl
    | cleared h d => rw [s.permit_eq k (by rw [hs]; rfl)]; rfl
    | lifting h d => rw [s.permit_eq k (by rw [hs]; rfl)]; rfl
    | halted f h d =>
      rw [s.permit_of_not k (by rw [hs]; rfl)]
      cases f <;> rfl

end Sys2Proof.Machine
end

section
/-!
PROOF. Clearance: the constraint check by the rows of Table 2-3, the request, its withdrawal and the decision on its TRIAL (R42 to R46,
R147, R150, R151).
-/
namespace Sys2Proof.Machine

/-! ### The constraint check by its rows -/

section Rows
variable {s : State} {t : Tested} {h : Nat}

theorem firstRefusal_nil : firstRefusal [] = none := rfl

theorem firstRefusal_cons (o : Option Refused) (l : List (Option Refused)) : firstRefusal (o :: l) = o.or (firstRefusal l) := by
  cases o <;> rfl

/-- Step 5 of a row, which a lot without class skips. -/
theorem State.step5_class (s : State) (self hazard : Option Nat) (n : Nat) :
    ((hazard.map fun i => (self, i, n)).bind fun e => s.step5 e.1 (some e.2.1) e.2.2) = s.step5 self hazard n := by
  cases hazard <;> rfl

/-- A row that names a lot answers UNKNOWN-LOT for a free handle, and by its other steps for a lot. -/
theorem State.checksTo_lot (hl : s.kept.lotsInv) {p : LotState → Prop} (ht : t.lot = some (h, p)) {o : Lot → Option Refused}
    (ho : ∀ l, s.kept.lot h = some l → ∃ ok : Bool, (ok = true ↔ p l.state) ∧
      firstRefusal [s.step2 h ok t.own, s.stepAnswer t ok 3, s.stepAnswer t ok 4, s.stepAnswer t ok 5, s.stepAnswer t ok 6,
        s.stepAnswer t ok 7] = o l) :
    s.checksTo t (match s.kept.lot h with
      | none => some (.unknownLot, .handle h)
      | some l => o l) := by
  cases hlot : s.kept.lot h with
  | none =>
    have check := checksTo_steps s hl t false fun h' p' l he hl' => by
      rw [ht] at he
      cases he
      exact absurd (hlot.symm.trans hl') (by simp)
    have first : s.stepAnswer t false 1 = some (.unknownLot, .handle h) := by simp [State.stepAnswer, ht, State.step1, hlot]
    rw [first] at check
    exact check
  | some l =>
    obtain ⟨ok, hok, answer⟩ := ho l hlot
    have check := checksTo_steps s hl t ok fun h' p' l' he hl' => by
      rw [ht] at he
      cases he
      cases hlot.symm.trans hl'
      exact hok
    have first : s.stepAnswer t ok 1 = none := by simp [State.stepAnswer, ht, State.step1, hlot]
    have second : s.stepAnswer t ok 2 = s.step2 h ok t.own := by simp [State.stepAnswer, ht, hlot]
    rw [first, second, firstRefusal_cons, Option.none_or, answer] at check
    exact check

/-- The row of a change that stows a PLANNED lot: steps 1 to 5. -/
theorem State.checksTo_stow (hl : s.kept.lotsInv) (h : Nat) (own : Option CraneNo) :
    s.checksTo { s.amendmentTests (.directStow h) with own := own } (match s.kept.lot h with
      | none => some (.unknownLot, .handle h)
      | some l => firstRefusal [s.step2 h (decide (l.state = .planned)) own, s.step3 l.space l.pos,
          s.step4 l.space (s.liveWeight l.space) (s.liveWeight l.space + l.weight), s.step5 (some h) l.hazard l.space]) := by
  refine State.checksTo_lot hl rfl fun l hlot => ⟨decide (l.state = .planned), decide_eq_true_iff, ?_⟩
  simp only [State.stepAnswer, State.amendmentTests, hlot, Option.map_some, Option.bind_some, State.step5_class, Option.bind_none,
    Bool.false_eq_true, if_false, firstRefusal_cons, firstRefusal_nil, Option.or_none]

theorem LotState.isStowed_iff (st : LotState) : st.isStowed = true ↔ ∃ i t, st = .stowed i t := by
  cases st <;> simp [LotState.isStowed]

/-- The row of a change that takes a STOWED lot away: steps 1, 2 and 6. -/
theorem State.checksTo_remove (hl : s.kept.lotsInv) (h : Nat) (own : Option CraneNo) :
    s.checksTo { s.amendmentTests (.directRemove h) with own := own } (match s.kept.lot h with
      | none => some (.unknownLot, .handle h)
      | some l => firstRefusal [s.step2 h l.state.isStowed own, s.step6 h]) := by
  refine State.checksTo_lot hl rfl fun l hlot => ⟨l.state.isStowed, l.state.isStowed_iff, ?_⟩
  simp only [State.stepAnswer, State.amendmentTests, Option.bind_none, Option.bind_some, Bool.false_eq_true, if_false,
    firstRefusal_cons, firstRefusal_nil, Option.or_none, Option.none_or]

end Rows

/-! ### CLEAR-REQUEST and CLEAR-CANCEL (R147, R151) -/

section Requests
variable {s : State} {p : Port} {k : CraneNo}

/-- A request that is its own crane's alone reaches the Crane Supervisor. -/
theorem State.serve_ownCrane {c : Instr} {crane : Nat} (h : s.asks p c [.crane]) (ho : s.ownsCrane p crane = true)
    (block : State → State) : s.serve p c .condition (State.ownCrane crane p) block = block s := by
  obtain ⟨hp, hs, hr⟩ := h
  exact s.serve_service p c _ _ _ hs hp (by decide) (State.ownCrane_eq_none (List.mem_singleton.1 hr) ho)

theorem exec_clearRequest {crane lot direction : Nat} {q : Point} (h : s.asks p (.clearRequest p crane lot direction q) [.crane])
    (ho : s.ownsCrane p crane = true) :
    exec (.clearRequest p crane lot direction q) s = .next
      (match s.craneFor crane, directionOf direction with
       | some c, some d => if handleOk lot && headOk s.book q then s.requestClearance p c lot d q else s.malformed p
       | _, _ => s.malformed p) :=
  next_congr (State.serve_ownCrane h ho _)

theorem exec_clearCancel {crane : Nat} (h : s.asks p (.clearCancel p crane) [.crane]) (ho : s.ownsCrane p crane = true) :
    exec (.clearCancel p crane) s = .next
      (match s.craneFor crane with
       | some c => s.cancelClearance p c
       | none => s.malformed p) :=
  next_congr (State.serve_ownCrane h ho _)

theorem directionOf_directionCode (d : Direction) : directionOf (directionCode d) = some d := by cases d <;> rfl

theorem directionOf_eq_none {n : Nat} (h : 2 ≤ n) : directionOf n = none := by
  match n, h with
  | n + 2, _ => rfl

theorem State.requestClearance_busy (h : s.craneState k ≠ .idle) (n : Nat) (d : Direction) (q : Point) :
    s.requestClearance p k n d q = s.answer p .busy [] := if_pos h

theorem State.requestClearance_idle (h : s.craneState k = .idle) (n : Nat) (d : Direction) (q : Point) :
    s.requestClearance p k n d q =
      match s.clearanceRefusal k n d with
      | some (st, v) => ((s.refuse p st v).count (s.clearanceEvent 1 (s.role p) n)).settle
      | none => (s.beginClearance p k n d q).settle := if_neg (not_not_intro h)

theorem State.beginClearance_eq (hr : s.role p = .crane) (n : Nat) (d : Direction) (q : Point) :
    s.beginClearance p k n d q =
      { ((s.setCrane k (.checking n d)).onCrane k fun x => { x with worst := some q, voteInCheck := false }).permitNotice k with
        vol.trials := s.vol.trials.set p.val (some { role := .crane, change := .crane k n d q }) p.isLt } := by
  have trials := ((s.setCrane k (.checking n d)).onCrane k fun x => { x with worst := some q, voteInCheck := false }).permitNotice_trials k
  rw [State.beginClearance, trials, hr]
  rfl

/-- The tests behind the constraint check, in their order. -/
theorem State.clearanceRefusal_checked {n : Nat} {d : Direction} {l : Lot} (hc : s.checkClearance k n d = none)
    (hl : s.kept.lot n = some l) :
    s.clearanceRefusal k n d =
      if s.reaches k l = false then some (.outOfReach, .space l.space)
      else if s.book.cranes[k.val].swl < l.weight then some (.overSwl, .handle n)
      else if (s.craneLive k).votes.any id = true then some (.stopped, .ports (portMask (s.craneLive k).votes))
      else none := by
  simp only [State.clearanceRefusal, hc, hl]
  rfl

theorem State.clearanceRefusal_refused {n : Nat} {d : Direction} {r : Refused} (hc : s.checkClearance k n d = some r) :
    s.clearanceRefusal k n d = some r := by
  simp only [State.clearanceRefusal, hc]

theorem State.cancelClearance_cleared {h : Nat} {d : Direction} (hs : s.craneState k = .cleared h d ∨ s.craneState k = .halted .cleared h d) :
    s.cancelClearance p k = (((s.toIdle k).permitNotice k).answer p .done []).settle := by
  unfold State.cancelClearance
  rcases hs with hs | hs <;> rw [hs] <;> rfl

theorem State.cancelClearance_busy {h : Nat} {d : Direction}
    (hs : s.craneState k = .checking h d ∨ s.craneState k = .lifting h d ∨ s.craneState k = .halted .lifting h d) :
    s.cancelClearance p k = s.answer p .busy [] := by
  unfold State.cancelClearance
  rcases hs with hs | hs | hs <;> rw [hs]

theorem State.cancelClearance_idle (hs : s.craneState k = .idle) : s.cancelClearance p k = s.answer p .done [] := by
  unfold State.cancelClearance
  rw [hs]
  rfl

end Requests

/-- Settles O52: the tests of a request in their order, its withdrawal by the crane's state, and the rows of the constraint check. -/
theorem clearanceRequestsTestAndTry : Obligations.ClearanceRequestsTestAndTry := by
  unfold Obligations.ClearanceRequestsTestAndTry
  refine ⟨fun s p k ho => ⟨fun h d q => ?request, fun hask => ?cancel⟩, fun s p crane lot direction q hd ho hask => ?direction,
    fun s k h d hl => ?checks⟩
  case request =>
    intro c hask
    refine ⟨fun hbad => ?_, fun hk hh hq => ?_, fun r => State.clearanceRefusal_refused, fun l => State.clearanceRefusal_checked⟩
    · rw [exec_clearRequest hask ho, directionOf_directionCode]
      by_cases hk : s.book.craneCount < k.val + 1
      · rw [State.craneFor_eq_none (.inr (.inr hk))]; rfl
      · rw [State.craneFor_val (by omega)]
        have outside : ¬ (handleOk h && headOk s.book q) = true := by
          rw [Bool.and_eq_true, handleOk_iff]
          rintro ⟨hh, hq⟩
          rcases hbad with hbad | hbad | hbad
          · exact hk hbad
          · omega
          · exact absurd (hq.symm.trans hbad) (by decide)
        exact next_congr (if_neg outside)
    · have formed : (handleOk h && headOk s.book q) = true := Bool.and_eq_true_iff.2 ⟨(handleOk_iff h).2 hh, hq⟩
      have served : exec c s = .next (s.requestClearance p k h d q) := by
        rw [exec_clearRequest hask ho, directionOf_directionCode, State.craneFor_val hk]
        exact next_congr (if_pos formed)
      refine ⟨fun hs => ?_, fun st v hs hr => ?_, fun hs hr => ?_⟩
      · rw [served, State.requestClearance_busy hs]
      · rw [served, State.requestClearance_idle hs, hr]; rfl
      · intro u
        have role : s.role p = .crane := by
          obtain ⟨-, -, role⟩ := hask
          exact List.mem_singleton.1 role
        rw [served, State.requestClearance_idle hs, hr]
        exact next_congr (congrArg State.settle (State.beginClearance_eq role h d q))
  case cancel =>
    intro c
    refine ⟨fun hk => ?_, fun hk => ?_⟩
    · rw [exec_clearCancel hask ho, State.craneFor_eq_none (.inr (.inr hk))]; rfl
    · have served : exec c s = .next (s.cancelClearance p k) := by rw [exec_clearCancel hask ho, State.craneFor_val hk]
      rw [served]
      exact ⟨fun hs => next_congr (State.cancelClearance_idle hs),
        fun h d hs => ⟨s.toIdle k, next_congr (State.cancelClearance_cleared hs), rfl⟩,
        fun h d hs => next_congr (State.cancelClearance_busy hs)⟩
  case direction =>
    rw [exec_clearRequest hask ho, directionOf_eq_none hd]
    cases s.craneFor crane <;> rfl
  case checks =>
    cases d with
    | loading => exact State.checksTo_stow hl h (some k)
    | discharging => exact State.checksTo_remove hl h (some k)

/-! ### The decision on a clearance TRIAL (R150) -/

section Decision
variable {s : State} {p : Port} {role : Role} {k : CraneNo} {h : Nat} {d : Direction} {q : Point} {f : Figures}

theorem exec_clearanceTrialComplete {snap : Snapshot} (hr : s.vol.running = some { kind := .trial p, snap := snap })
    (ht : s.trial p = some { role := role, change := .crane k h d q }) :
    exec .clearanceTrialComplete s = .next ((((s.endTrial p).decideClearance p role k h d (evaluate s.book snap)).count
      (s.trialEvent { role := role, change := .crane k h d q })).settle) := by
  have arm : exec .clearanceTrialComplete s = execClearanceTrialComplete s := rfl
  rw [arm, execClearanceTrialComplete, hr]
  dsimp only
  rw [ht]

theorem CraneState.checks_iff (x : CraneState) : x.checks h = true ↔ ∃ d', x = .checking h d' := by
  cases x <;> simp [CraneState.checks]

theorem CraneLive.anyVote_iff (x : CraneLive) : x.anyVote = true ↔ ∃ i : Port, x.votes[i.val] = true := by
  simp only [CraneLive.anyVote, Vector.any_eq_true, id]
  exact ⟨fun ⟨i, hi, hv⟩ => ⟨⟨i, hi⟩, hv⟩, fun ⟨i, hv⟩ => ⟨i.val, i.isLt, hv⟩⟩

theorem liftAllowed_iff (b : CraneBook) :
    liftAllowed b f = true ↔ b.gmMin < f.gm ∧ (f.list.natAbs : Int) ≤ b.heelLimit ∧ f.flags.gmNonpos = false := by
  simp [liftAllowed, and_assoc]

theorem State.decideClearance_lost (hc : ¬ ∃ d', s.craneState k = .checking h d') :
    s.decideClearance p role k h d f = (s.answer p .clearanceLost []).count (s.clearanceEvent 1 role h) :=
  if_pos (Bool.eq_false_iff.2 fun he => hc ((CraneState.checks_iff _).1 he))

section Checking
variable (hc : ∃ d', s.craneState k = .checking h d')
include hc

theorem State.decideClearance_checking :
    s.decideClearance p role k h d f =
      if (s.craneLive k).voteInCheck || (s.craneLive k).anyVote then
        ((s.refuse p .deniedStopped (.ports (s.votesMask k))).denyClearance k).count (s.clearanceEvent 1 role h)
      else match s.checkClearance k h d with
        | some (st, v) => ((s.refuse p st v).denyClearance k).count (s.clearanceEvent 1 role h)
        | none =>
          if liftAllowed s.book.cranes[k.val] f then
            ((s.answer p .cleared (liftVals f)).grantClearance k h d).count (s.clearanceEvent 0 role h)
          else ((s.answer p .deniedLimits (liftVals f)).denyClearance k).count (s.clearanceEvent 1 role h) :=
  if_neg fun he => absurd ((CraneState.checks_iff _).2 hc) (ne_true_of_eq_false he)

theorem State.decideClearance_stopped
    (hv : (s.craneLive k).voteInCheck = true ∨ ∃ i : Port, (s.craneLive k).votes[i.val] = true) :
    s.decideClearance p role k h d f =
      ((s.refuse p .deniedStopped (.ports (s.votesMask k))).denyClearance k).count (s.clearanceEvent 1 role h) := by
  rw [State.decideClearance_checking hc, if_pos (Bool.or_eq_true_iff.2 (hv.imp_right (CraneLive.anyVote_iff _).2))]

section Unvoted
variable (hv : ¬ ((s.craneLive k).voteInCheck = true ∨ ∃ i : Port, (s.craneLive k).votes[i.val] = true))
include hv

theorem State.decideClearance_unvoted :
    s.decideClearance p role k h d f =
      match s.checkClearance k h d with
      | some (st, v) => ((s.refuse p st v).denyClearance k).count (s.clearanceEvent 1 role h)
      | none =>
        if liftAllowed s.book.cranes[k.val] f then
          ((s.answer p .cleared (liftVals f)).grantClearance k h d).count (s.clearanceEvent 0 role h)
        else ((s.answer p .deniedLimits (liftVals f)).denyClearance k).count (s.clearanceEvent 1 role h) :=
  (State.decideClearance_checking hc).trans
    (if_neg fun he => hv ((Bool.or_eq_true_iff.1 he).imp_right (CraneLive.anyVote_iff _).1))

theorem State.decideClearance_refused {st : Status} {v : RefValue} (hr : s.checkClearance k h d = some (st, v)) :
    s.decideClearance p role k h d f = ((s.refuse p st v).denyClearance k).count (s.clearanceEvent 1 role h) := by
  rw [State.decideClearance_unvoted hc hv, hr]

theorem State.decideClearance_cleared (hr : s.checkClearance k h d = none) (ha : liftAllowed s.book.cranes[k.val] f = true) :
    s.decideClearance p role k h d f =
      ((s.answer p .cleared (liftVals f)).grantClearance k h d).count (s.clearanceEvent 0 role h) := by
  rw [State.decideClearance_unvoted hc hv, hr]
  exact if_pos ha

theorem State.decideClearance_limits (hr : s.checkClearance k h d = none) (ha : ¬ liftAllowed s.book.cranes[k.val] f = true) :
    s.decideClearance p role k h d f =
      ((s.answer p .deniedLimits (liftVals f)).denyClearance k).count (s.clearanceEvent 1 role h) := by
  rw [State.decideClearance_unvoted hc hv, hr]
  exact if_neg ha

end Unvoted
end Checking

end Decision

/-- Settles O55: the decision takes the first case that applies, on the crane and the table as they stand at completion. -/
theorem clearanceTrialTakesTheFirstCase : Obligations.ClearanceTrialTakesTheFirstCase := by
  unfold Obligations.ClearanceTrialTakesTheFirstCase
  intro s p snap role k h d q hr ht f b u event trial idle gen figures checking voted allowed
  have complete := exec_clearanceTrialComplete hr ht
  refine ⟨fun hc => ?lost, fun hc hv => ?stopped, fun hc hv st v hcheck => ?refused, fun hc hv hcheck ha => ?cleared,
    fun hc hv hcheck ha => ?limits⟩
  case lost =>
    rw [complete, State.decideClearance_lost (s := s.endTrial p) hc]; rfl
  case stopped =>
    rw [complete, State.decideClearance_stopped (s := s.endTrial p) hc hv]; rfl
  case refused =>
    rw [complete, State.decideClearance_refused (s := s.endTrial p) hc hv hcheck]; rfl
  case cleared =>
    rw [complete, State.decideClearance_cleared (s := s.endTrial p) hc hv hcheck ((liftAllowed_iff b).2 ha)]; rfl
  case limits =>
    rw [complete, State.decideClearance_limits (s := s.endTrial p) hc hv hcheck (fun h => ha ((liftAllowed_iff b).1 h))]; rfl

end Sys2Proof.Machine
end

section
/-!
PROOF. The reports of a CRANE port: their gates, and what an accounted report records, announces and counts (R16, R37, R168, R170, R173).
-/
namespace Sys2Proof.Machine

/-! ### The gates of a crane report (R168, R170) -/

section Gates
variable {s : State} {p : Port} {kind : Byte} {n h : Nat} {account : State → CraneNo → Nat → State}

theorem State.takeCraneReport_outside (hn : n = 0 ∨ 5 ≤ n) : s.takeCraneReport p kind n h account = s.discardAt p := by
  have none : craneIdx n = none := dif_neg (by omega)
  rw [State.takeCraneReport, none]

theorem State.takeCraneReport_breach (k : CraneNo) {b : Breach} (hb : s.ownCrane (k.val + 1) p = some b) :
    s.takeCraneReport p kind (k.val + 1) h account = s.reportBreach p kind b := by
  simp only [State.takeCraneReport, craneIdx_val, hb]

theorem State.takeCraneReport_accounts {k : CraneNo} (hr : s.role p = .crane) (ho : s.ownsCrane p (k.val + 1) = true) :
    s.takeCraneReport p kind (k.val + 1) h account = (account s k h).settle := by
  simp only [State.takeCraneReport, craneIdx_val, State.ownCrane_eq_none hr ho]

/-- A report from a port's own crane, in SERVICE, is accounted at the port that has been heard. -/
theorem State.craneReport_accounts {k : CraneNo} (hp : s.part = .service) (hr : s.role p = .crane)
    (ho : s.ownsCrane p (k.val + 1) = true) :
    (s.reportDelivered p fun t => t.takeCraneReport p kind (k.val + 1) h account) = (account (s.hear p) k h).settle := by
  rw [State.reportDelivered_service hp]
  exact State.takeCraneReport_accounts (s := s.hear p) hr ho

/-- A crane number of 1 to 4 names a crane. -/
theorem exists_crane (h1 : 1 ≤ n) (h4 : n ≤ 4) : ∃ k : CraneNo, n = k.val + 1 := ⟨⟨n - 1, by omega⟩, by simp; omega⟩

/-- A report that is not accounted, by the part state, the crane number and the port's role. -/
theorem State.craneReport_gates (s : State) (p : Port) (kind : Byte) (n h : Nat) (account : State → CraneNo → Nat → State) :
    let r := s.reportDelivered p fun t => t.takeCraneReport p kind n h account
    let u := s.hear p
    (s.part = .start → r = s) ∧
    (s.part = .commission → r = u) ∧
    (s.part = .service → n = 0 ∨ 5 ≤ n → r = u.discardAt p) ∧
    (s.part = .service → 1 ≤ n → n ≤ 4 → s.role p ≠ .crane → r = (u.breach p kind .role (.crane n)).settle) ∧
    (s.part = .service → 1 ≤ n → n ≤ 4 → s.role p = .crane → s.ownsCrane p n = false →
      r = (u.breach p kind .craneNotOwn (.crane n)).settle) := by
  intro r u
  have served (hp : s.part = .service) : r = u.takeCraneReport p kind n h account := State.reportDelivered_service hp _
  refine ⟨fun hp => State.reportDelivered_start hp _, fun hp => State.reportDelivered_commission hp _, fun hp hn => ?_,
    fun hp h1 h4 hr => ?_, fun hp h1 h4 hr ho => ?_⟩
  · rw [served hp, State.takeCraneReport_outside hn]
  · obtain ⟨k, rfl⟩ := exists_crane h1 h4
    have gate : u.ownCrane (k.val + 1) p = some (.role, .crane (k.val + 1)) := State.ownCrane_notCrane hr
    rw [served hp, State.takeCraneReport_breach k gate, State.reportBreach]
  · obtain ⟨k, rfl⟩ := exists_crane h1 h4
    have gate : u.ownCrane (k.val + 1) p = some (.craneNotOwn, .crane (k.val + 1)) := State.ownCrane_notOwn hr ho
    rw [served hp, State.takeCraneReport_breach k gate, State.reportBreach]

end Gates

/-! ### What an accounted report records (R37) -/

section Recorded
variable {u v : State} (r : ChangeRecord) (affected : List Nat) (items : List Item)

/-- `u` with what an accounted report changes taken over from `t`: the condition, the links, the cranes and the sums, and a mark set
where a set changes. -/
def State.withChange (u t : State) : State :=
  { u with
    kept := t.kept
    keptCheck := t.keptCheck
    vol.links := t.vol.links
    vol.cranes := t.vol.cranes
    vol.live := t.vol.live
    vol.plan := t.vol.plan
    vol.livePending := u.vol.livePending || decide (t.vol.live ≠ u.vol.live)
    vol.planPending := u.vol.planPending || decide (t.vol.plan ≠ u.vol.plan) }

/-- A change of the lots, the lists and the cranes, recorded: nothing else of the state has changed but the links and the sums with
their pending marks. -/
theorem State.applied_withChange (hv : v = { u with kept := v.kept, keptCheck := v.keptCheck, vol.cranes := v.vol.cranes }) :
    v.applied u r affected items = u.withChange (v.applied u r affected items) := by
  rw [hv]
  rfl

/-- A hook contributes nothing to PLAN. -/
theorem shiftSums_hook (sums a b : SumSet) (s t : State) (c : CraneNo) :
    shiftSums sums [a, s.itemPlan (.hook c)] [b, t.itemPlan (.hook c)] = shiftSums sums [a] [b] :=
  SumSet.ext_parts _ _ fun part h => by
    rw [shiftSums_part part h, shiftSums_part part h]
    have same : s.itemPlan (.hook c) = t.itemPlan (.hook c) := rfl
    simp [same]
    omega

/-- The Journal's last entry is that of the change recorded last. -/
theorem Kept.record_last (k : Kept) (r : ChangeRecord) :
    (k.record r).journal.getLast? =
      some { generation := k.generation + 1, kind := r.kind, handle := r.handle, space := r.space, item := r.item, port := r.port,
             role := r.role, overridden := r.overridden } := by
  have drop : k.journal.length + 1 - 64 ≤ k.journal.length := by omega
  change ((k.journal ++ [_]).drop ((k.journal ++ [_]).length - 64)).getLast? = _
  rw [List.length_append, List.length_singleton, List.drop_append_of_le_length drop, List.getLast?_append]
  rfl

/-- The links on an affected space are broken. -/
theorem State.applied_link (n : Nat) (hv : v.vol.links = u.vol.links) (g : Group) :
    (v.applied u r [n] items).link g = (u.link g).filter fun x => x.target ≠ n := by
  rw [State.applied, State.breakLinks_link]
  change (v.vol.links[g.val]).filter _ = _
  rw [hv]
  exact congrArg (fun f => (u.link g).filter f) (funext fun x => by simp)

/-- The state that an operation leaves with its notices and events. -/
def State.concluded (u : State) (ns : List (NoticeKind × Nat × List Val)) (es : List TallyEvent) : State :=
  ((u.issues ns).countAll es).settle

theorem State.concluded_kept (ns : List (NoticeKind × Nat × List Val)) (es : List TallyEvent) : (u.concluded ns es).kept = u.kept := by
  rw [State.concluded, State.settle_kept, State.countAll_kept, State.issues_frame]

theorem State.concluded_keptCheck (ns : List (NoticeKind × Nat × List Val)) (es : List TallyEvent) :
    (u.concluded ns es).keptCheck = u.keptCheck := by
  rw [State.concluded, State.settle_keptCheck, State.countAll_keptCheck, State.issues_frame]

theorem State.concluded_book (ns : List (NoticeKind × Nat × List Val)) (es : List TallyEvent) : (u.concluded ns es).book = u.book := by
  rw [State.concluded, State.settle_book, State.countAll_book, State.issues_frame]

theorem State.concluded_links (ns : List (NoticeKind × Nat × List Val)) (es : List TallyEvent) :
    (u.concluded ns es).vol.links = u.vol.links := by
  rw [State.concluded, State.settle_links, State.countAll_links, State.issues_frame]

theorem State.concluded_cranes (ns : List (NoticeKind × Nat × List Val)) (es : List TallyEvent) :
    (u.concluded ns es).vol.cranes = u.vol.cranes := by
  rw [State.concluded, State.settle_cranes, State.countAll_cranes, State.issues_frame]

theorem State.concluded_live (ns : List (NoticeKind × Nat × List Val)) (es : List TallyEvent) :
    (u.concluded ns es).vol.live = u.vol.live := by
  rw [State.concluded, State.settle_live, State.countAll_live, State.issues_frame]

theorem State.concluded_plan (ns : List (NoticeKind × Nat × List Val)) (es : List TallyEvent) :
    (u.concluded ns es).vol.plan = u.vol.plan := by
  rw [State.concluded, State.settle_plan, State.countAll_plan, State.issues_frame]

theorem State.concluded_tally (ns : List (NoticeKind × Nat × List Val)) (es : List TallyEvent) (i : Fin 8) :
    (u.concluded ns es).vol.tallies[i.val] = es.foldl Tally.offered u.vol.tallies[i.val] := by
  rw [State.concluded, State.settle_tallies, State.countAll_tally, State.issues_frame]

theorem State.concluded_items (ns : List (NoticeKind × Nat × List Val)) (es : List TallyEvent) :
    (u.concluded ns es).itemLive = u.itemLive ∧ (u.concluded ns es).itemPlan = u.itemPlan :=
  State.items_congr (u.concluded_book ns es) (u.concluded_kept ns es) (u.concluded_cranes ns es)

theorem State.withChange_concluded {a : State} (ha : a = u.withChange a) (ns : List (NoticeKind × Nat × List Val))
    (es : List TallyEvent) : u.withChange (a.concluded ns es) = a := by
  rw [State.withChange, State.concluded_kept, State.concluded_keptCheck, State.concluded_links, State.concluded_cranes,
    State.concluded_live, State.concluded_plan]
  exact ha.symm

end Recorded

end Sys2Proof.Machine
end

section
/-!
PROOF. HOOK-ON: its lot, its crane and the cranes that reserved the lot, its notices and its events (R34, R145, R152, R154, R160, R161).
-/
namespace Sys2Proof.Machine

/-- What overstows a lot, as the record of the table says it (R46). -/
theorem State.overstowing_iff (s : State) (h : Nat) (v : RefValue) : s.overstowing h = some v ↔ s.overstowedBy h v := by
  have step := step6_some s h (.overstowed, v)
  simpa [State.step6] using step

section HookOn
variable {s : State} {p : Port} {c : CraneNo} {h : Nat} {l l' : Lot} {d : Direction}

/-- A crane sent IDLE with its volatile record (R145). -/
def CraneLive.idled (x : CraneLive) : CraneLive :=
  { x with worst := none, reasons := Reasons.empty, limitGen := none, voteInCheck := false, boom := none }

theorem State.toIdles_craneLive_mem (s : State) (cs : List CraneNo) (e : CraneNo) (he : e ∈ cs) :
    (cs.foldl State.toIdle s).craneLive e = (s.craneLive e).idled := by
  induction cs generalizing s with
  | nil => cases he
  | cons c cs ih =>
    have first : (s.toIdle c).craneLive e = if e = c then (s.craneLive c).idled else s.craneLive e :=
      (State.onCrane_craneLive ..).trans rfl
    rw [List.foldl_cons]
    by_cases hcs : e ∈ cs
    · rw [ih _ hcs, first]
      by_cases hec : e = c
      · rw [if_pos hec, hec]; rfl
      · rw [if_neg hec]
    · have hec : e = c := (List.mem_cons.1 he).resolve_right hcs
      rw [State.toIdles_craneLive _ _ _ hcs, first, if_pos hec, hec]

/-- Another crane's record after a hook-on. -/
theorem State.hookOnMoved_craneLive {e : CraneNo} (he : e ≠ c) :
    (s.hookOnMoved p c h l l' d).craneLive e =
      if (s.craneState e).reserves = some h then (s.craneLive e).idled else s.craneLive e := by
  let v := s.setKept (s.kept.putLot h (l'.from p (s.role p)))
  have live : (s.hookOnMoved p c h l l' d).craneLive e = ((s.rivals c h).foldl State.toIdle v).craneLive e := by
    rw [State.hookOnMoved, State.onCrane_craneLive, if_neg he]; rfl
  rw [live]
  by_cases hr : (s.craneState e).reserves = some h
  · rw [if_pos hr]
    exact State.toIdles_craneLive_mem v _ e ((s.mem_rivals c h e).2 ⟨he, hr⟩)
  · rw [if_neg hr]
    exact State.toIdles_craneLive v _ e fun hm => by
      obtain ⟨-, hm⟩ := (s.mem_rivals c h e).1 hm
      exact hr hm

/-- This crane's record after a hook-on. -/
theorem State.hookOnMoved_craneLive_self :
    (s.hookOnMoved p c h l l' d).craneLive c =
      (s.craneLive c).afterHookOn ((s.craneState c).permitsHookOn h l) s.clock (s.kept.generation + 1) := by
  have stands : c ∉ s.rivals c h := fun hm => by
    obtain ⟨hc, -⟩ := (s.mem_rivals c h c).1 hm
    exact hc rfl
  rw [State.hookOnMoved, State.onCrane_craneLive_self]
  refine congrArg (fun x : CraneLive => x.afterHookOn _ _ _) ?_
  exact State.toIdles_craneLive (s.setKept (s.kept.putLot h (l'.from p (s.role p)))) _ c stands

/-- The volatile crane record after a hook-on, field by field (R152). -/
theorem CraneLive.afterHookOn_eq (x : CraneLive) (b : Bool) (now : Clock) (gen : Nat) :
    x.afterHookOn b now gen =
      { x with
        worst := none
        voteInCheck := false
        freeReading := false
        sinceHookOn := false
        staleFrom := now
        boom := if b = true ∧ x.sinceClearance = false then x.worst else x.hook.map HookReading.head
        reasons := if b then x.reasons else { vote := x.votes.any id, limit := true, stale := false }
        limitGen := if b then x.limitGen else some gen } := by
  have head : x.hookOnHead b = if b = true ∧ x.sinceClearance = false then x.worst else x.hook.map HookReading.head :=
    ite_congr (propext (by simp)) (fun _ => rfl) fun _ => rfl
  rw [CraneLive.afterHookOn, head]
  rfl

/-- The OVERSTOW notice of a hook-on for discharging (R152; log entry 23). -/
def State.overstowNotice (s : State) (c : CraneNo) (h : Nat) (d : Direction) : List (NoticeKind × Nat × List Val) :=
  match d, s.overstowing h with
  | .discharging, some v => [(.overstow, 0, [.u8 (craneNum c), .u16 h] ++ refVals v)]
  | _, _ => []

theorem State.overstowNotice_none (hn : d = .loading ∨ ∀ v, ¬ s.overstowedBy h v) : s.overstowNotice c h d = [] := by
  unfold State.overstowNotice
  rcases hn with rfl | hn
  · rfl
  · have none : s.overstowing h = none := Option.eq_none_iff_forall_not_mem.2 fun v hv => hn v ((s.overstowing_iff h v).1 hv)
    rw [none]
    cases d <;> rfl

theorem State.overstowNotice_some {v : RefValue} (hd : d = .discharging) (hv : s.overstowedBy h v) :
    s.overstowNotice c h d = [(.overstow, 0, [.u8 (c.val + 1), .u16 h] ++ refVals v)] := by
  unfold State.overstowNotice
  rw [hd, (s.overstowing_iff h v).2 hv]
  rfl

theorem State.rivals_eq (s : State) (c : CraneNo) (h : Nat) :
    s.rivals c h = (List.finRange 4).filter fun j => decide (j ≠ c ∧ (s.craneState j).reserves = some h) :=
  List.filter_congr fun _ _ => (Bool.decide_and ..).symm

theorem filter_eq_crane (c : CraneNo) : ((List.finRange 4).filter fun e => decide (e = c)) = [c] := by
  revert c
  decide

theorem State.hookOnAnnounced_kept : (s.hookOnAnnounced p c h l l' d).kept = (s.hookOnApplied p c h l l' d).kept := by
  rw [State.hookOnAnnounced, State.issues_frame]

theorem State.hookOnApplied_kept : (s.hookOnApplied p c h l l' d).kept = (s.hookOnMoved p c h l l' d).kept.record
    { kind := .hookOn, handle := some h, space := some l.space, item := none, port := p, role := s.role p, overridden := false } :=
  State.applied_kept ..

theorem State.hookOnApplied_craneState (e : CraneNo) :
    (s.hookOnApplied p c h l l' d).craneState e = (s.hookOnMoved p c h l l' d).craneState e := by
  rw [State.craneState, State.hookOnApplied_kept, Kept.record_frame]
  rfl

theorem State.hookOnAnnounced_craneState (e : CraneNo) :
    (s.hookOnAnnounced p c h l l' d).craneState e = (s.hookOnMoved p c h l l' d).craneState e := by
  rw [State.craneState, State.hookOnAnnounced_kept]
  exact State.hookOnApplied_craneState e

theorem State.hookOnApplied_lot (j : Nat) :
    (s.hookOnApplied p c h l l' d).kept.lot j = if j = h then some (l'.from p (s.role p)) else s.kept.lot j := by
  rw [State.hookOnApplied_kept, Kept.record_lot, State.hookOnMoved_lot]

theorem State.hookOnAnnounced_lot : (s.hookOnAnnounced p c h l l' d).kept.lot h = some (l'.from p (s.role p)) := by
  rw [State.hookOnAnnounced_kept, State.hookOnApplied_lot, if_pos rfl]

/-- The crane that becomes HALTED at a hook-on is this one, at an unpermitted one, unless it is HALTED already (log entry 32). -/
theorem State.hookOn_halts (e : CraneNo) :
    (((s.hookOnAnnounced p c h l l' d).craneState e).isHalted && !(s.craneState e).isHalted) =
      (decide (e = c) && decide ((s.craneState c).permitsHookOn h l = false ∧ (s.craneState c).isHalted = false)) := by
  rw [State.hookOnAnnounced_craneState, State.hookOnMoved_craneState]
  by_cases he : e = c
  · subst he
    rw [if_pos rfl, decide_eq_true rfl, Bool.true_and]
    cases (s.craneState e).permitsHookOn h l with
    | true => rfl
    | false => cases (s.craneState e).isHalted <;> rfl
  · rw [if_neg he, decide_eq_false he, Bool.false_and]
    split
    · rfl
    · cases (s.craneState e).isHalted <;> rfl

/-- The halted event of a hook-on. -/
theorem State.hookOn_haltEvents (hspace : l'.space = l.space) :
    haltEvents s (s.hookOnAnnounced p c h l l' d) =
      if (s.craneState c).permitsHookOn h l = false ∧ (s.craneState c).isHalted = false then
        [{ cls := .clearances, sub := 2, role := none, group := some (s.groupOf l.space), amount := 1 }]
      else [] := by
  have group : ((s.hookOnAnnounced p c h l l' d).haltEvent c).group = some (s.groupOf l.space) := by
    have state : (s.hookOnAnnounced p c h l l' d).craneState c =
        if (s.craneState c).permitsHookOn h l then .lifting h d else .halted .lifting h d := by
      rw [State.hookOnAnnounced_craneState, State.hookOnMoved_craneState, if_pos rfl]
    have named : ((s.hookOnAnnounced p c h l l' d).craneState c).named = some (h, d) := by
      rw [state]
      cases (s.craneState c).permitsHookOn h l <;> rfl
    have book : (s.hookOnAnnounced p c h l l' d).groupOf = s.groupOf := by
      rw [State.hookOnAnnounced, State.issues_frame, State.hookOnApplied, State.hookOnMoved_frame]
      rfl
    simp only [State.haltEvent, named, State.lotGroup, State.hookOnAnnounced_lot, Option.bind_some, Option.map_some, book]
    exact congrArg (fun n => some (s.groupOf n)) hspace
  have event : (s.hookOnAnnounced p c h l l' d).haltEvent c =
      { cls := .clearances, sub := 2, role := none, group := some (s.groupOf l.space), amount := 1 } := by
    rw [← group]; rfl
  rw [haltEvents, List.filter_congr fun e _ => State.hookOn_halts e]
  by_cases hb : (s.craneState c).permitsHookOn h l = false ∧ (s.craneState c).isHalted = false
  · rw [if_pos hb, decide_eq_true hb]
    simp only [Bool.and_true, filter_eq_crane, List.map_cons, List.map_nil, event]
  · rw [if_neg hb, decide_eq_false hb]
    rw [List.filter_eq_nil_iff.2 fun e _ => by rw [Bool.and_false]; exact Bool.false_ne_true, List.map_nil]

theorem State.hookOnMoved_kept : (s.hookOnMoved p c h l l' d).kept =
    { s.kept.putLot h (l'.from p (s.role p)) with cranes := (s.hookOnMoved p c h l l' d).kept.cranes } :=
  (congrArg State.kept (State.hookOnMoved_frame p)).trans rfl

theorem State.hookOnApplied_withChange : s.hookOnApplied p c h l l' d = s.withChange (s.hookOnApplied p c h l l' d) := by
  have frame := State.hookOnMoved_frame (s := s) (c := c) (h := h) (l := l) (l' := l') (d := d) p
  refine State.applied_withChange _ _ _ ?_
  exact frame.trans (congrArg (fun k : Kept => ({ s with
    kept := k
    keptCheck := (s.hookOnMoved p c h l l' d).keptCheck
    vol.cranes := (s.hookOnMoved p c h l l' d).vol.cranes } : State)) State.hookOnMoved_kept.symm)

theorem State.hookOnApplied_tallies : (s.hookOnApplied p c h l l' d).vol.tallies = s.vol.tallies := by
  rw [State.hookOnApplied_withChange]
  rfl

/-- The PERMIT notices of a hook-on (R152; log entry 49). -/
def State.hookOnPermits (s a : State) (c : CraneNo) (h : Nat) : List (NoticeKind × Nat × List Val) :=
  (s.rivals c h ++ [c]).map fun e => (.permit, craneNum e, a.permitVals e)

/-- An accounted hook-on is a recorded change with its notices and events. -/
theorem State.accountHookOn_concluded (hspace : l'.space = l.space) :
    (s.accountHookOn p c h l l' d).settle =
      (s.hookOnApplied p c h l l' d).concluded
        (s.hookOnNotices c h l d ++ s.hookOnPermits (s.hookOnApplied p c h l l' d) c h)
        (lotMoves (if d = .loading then 0 else 2) (s.role p) (s.groupOf l.space) ::
          if (s.craneState c).permitsHookOn h l = false ∧ (s.craneState c).isHalted = false then
            [{ cls := .clearances, sub := 2, role := none, group := some (s.groupOf l.space), amount := 1 }]
          else []) := by
  rw [State.accountHookOn_eq, State.hookOn_haltEvents hspace]
  rfl

theorem State.hookOnReport_unknown (h' : s.kept.lot h = none ∨ ∃ l, s.kept.lot h = some l ∧ l.hooked c = none) :
    s.hookOnReport p c h = s.unknownLotNotice c h := by
  rcases h' with h' | ⟨l, hl, hh⟩
  · simp only [State.hookOnReport, h']
  · simp only [State.hookOnReport, hl, hh]

theorem State.hookOnReport_order (hl : s.kept.lot h = some l) (hh : l.hooked c ≠ none) (hhang : (s.craneState c).hanging ≠ none) :
    s.hookOnReport p c h = s.outOfOrder c 0x61 h := by
  obtain ⟨⟨l', d⟩, hh⟩ := Option.ne_none_iff_exists'.1 hh
  simp only [State.hookOnReport, hl, hh, Option.isSome_iff_ne_none.2 hhang, if_true]

theorem State.hookOnReport_accounted (hl : s.kept.lot h = some l) (hh : l.hooked c = some (l', d))
    (hfree : (s.craneState c).hanging = none) : s.hookOnReport p c h = s.accountHookOn p c h l l' d := by
  simp only [State.hookOnReport, hl, hh, hfree, Option.isSome_none, Bool.false_eq_true, if_false]

theorem Lot.hooked_space (hh : l.hooked c = some (l', d)) : l'.space = l.space := by
  rcases Lot.hooked_cases hh with ⟨-, -, e⟩ | ⟨i, t, -, -, e⟩ <;> rw [e]

/-- What an accounted hook-on leaves of the condition. -/
theorem State.hookOnApplied_kept_frame : (s.hookOnApplied p c h l l' d).kept =
    { s.kept with
      lots := (s.hookOnApplied p c h l l' d).kept.lots
      cranes := (s.hookOnApplied p c h l l' d).kept.cranes
      generation := s.kept.generation + 1
      journal := (s.hookOnApplied p c h l l' d).kept.journal } := by
  rw [State.hookOnApplied_kept, State.hookOnMoved_kept, Kept.record_frame]
  rfl

theorem State.hookOnApplied_last :
    (s.hookOnApplied p c h l l' d).kept.journal.getLast? =
      some { generation := s.kept.generation + 1, kind := .hookOn, handle := some h, space := some l.space, item := none, port := p,
             role := s.role p, overridden := false } := by
  have generation : (s.hookOnMoved p c h l l' d).kept.generation = s.kept.generation := by rw [State.hookOnMoved_frame]; rfl
  rw [State.hookOnApplied_kept, Kept.record_last, generation]

theorem State.hookOnApplied_craneLive (e : CraneNo) :
    (s.hookOnApplied p c h l l' d).craneLive e = (s.hookOnMoved p c h l l' d).craneLive e := by
  rw [State.craneLive, State.hookOnApplied, State.applied_cranes]
  rfl

theorem State.hookOnApplied_link (g : Group) :
    (s.hookOnApplied p c h l l' d).link g = (s.link g).filter fun x => x.target ≠ l.space :=
  State.applied_link _ _ _ (by rw [State.hookOnMoved_frame]) g

theorem State.hookOnApplied_live :
    (s.hookOnApplied p c h l l' d).vol.live =
      shiftSums s.vol.live [s.itemLive (.lot h), s.itemLive (.hook c)]
        [(s.hookOnApplied p c h l l' d).itemLive (.lot h), (s.hookOnApplied p c h l l' d).itemLive (.hook c)] := by
  obtain ⟨live, -⟩ := State.applied_items (v := s.hookOnMoved p c h l l' d) (s := s)
    { kind := .hookOn, handle := some h, space := some l.space, item := none, port := p, role := s.role p, overridden := false }
    [l.space] [.lot h, .hook c]
  have stood : (s.hookOnMoved p c h l l' d).vol.live = s.vol.live := by rw [State.hookOnMoved_frame]
  rw [State.hookOnApplied, live, ← stood]
  rfl

theorem State.hookOnApplied_plan :
    (s.hookOnApplied p c h l l' d).vol.plan =
      shiftSums s.vol.plan [s.itemPlan (.lot h)] [(s.hookOnApplied p c h l l' d).itemPlan (.lot h)] := by
  obtain ⟨-, plan⟩ := State.applied_items (v := s.hookOnMoved p c h l l' d) (s := s)
    { kind := .hookOn, handle := some h, space := some l.space, item := none, port := p, role := s.role p, overridden := false }
    [l.space] [.lot h, .hook c]
  have stood : (s.hookOnMoved p c h l l' d).vol.plan = s.vol.plan := by rw [State.hookOnMoved_frame]
  rw [State.hookOnApplied, plan, ← stood, ← shiftSums_hook _ _ _ s (s.hookOnMoved p c h l l' d) c]
  rfl

end HookOn

/-- Settles O53: a discarded report, an accounted one with its record, notices and events, and the gates before either. -/
theorem hookOnIsAccountedOrDiscarded : Obligations.HookOnIsAccountedOrDiscarded := by
  unfold Obligations.HookOnIsAccountedOrDiscarded
  refine ⟨fun s p k h => ?_, fun s p n h => ?_⟩
  · intro u c hp hr ho
    have served : exec c s = .next (u.hookOnReport p k h).settle := next_congr (State.craneReport_accounts hp hr ho)
    have role : u.role p = .crane := hr
    refine ⟨fun hl => ?_, fun l hl hh hhang => ?_, fun l l' d hl hh hfree => ?_⟩
    · rw [served, State.hookOnReport_unknown (s := u) hl]; rfl
    · rw [served, State.hookOnReport_order (s := u) hl hh hhang]; rfl
    · intro permitted es
      let a := u.hookOnApplied p k h l l' d
      let ns := u.hookOnNotices k h l d ++ u.hookOnPermits a k h
      have hes : lotMoves (if d = .loading then 0 else 2) (u.role p) (u.groupOf l.space) ::
          (if (u.craneState k).permitsHookOn h l = false ∧ (u.craneState k).isHalted = false then
            [({ cls := .clearances, sub := 2, role := none, group := some (u.groupOf l.space), amount := 1 } : TallyEvent)]
          else []) = es := by
        rw [role]
        cases d <;> rfl
      have done : exec c s = .next (a.concluded ns es) := by
        rw [served, State.hookOnReport_accounted (s := u) hl hh hfree, State.accountHookOn_concluded (Lot.hooked_space hh), hes]
      have change : u.withChange (a.concluded ns es) = a := State.withChange_concluded State.hookOnApplied_withChange ns es
      obtain ⟨live, plan⟩ := a.concluded_items ns es
      have state (j : CraneNo) : (a.concluded ns es).craneState j = (u.hookOnMoved p k h l l' d).craneState j := by
        rw [State.craneState, State.concluded_kept]
        exact State.hookOnApplied_craneState j
      have record (j : CraneNo) : (a.concluded ns es).craneLive j = (u.hookOnMoved p k h l l' d).craneLive j := by
        rw [State.craneLive, State.concluded_cranes]
        exact State.hookOnApplied_craneLive j
      refine ⟨a.concluded ns es, done, fun j => ?lot, ?kept, ?journal, ?check, fun g => ?links, ?crane, ?craneLive, fun j hj => ?others,
        fun j hj => ?othersLive, ?live, ?plan, fun i => ?tallies, ?notices⟩
      case lot =>
        rw [State.concluded_kept, State.hookOnApplied_lot, role]
        rfl
      case kept =>
        rw [State.concluded_kept]
        exact State.hookOnApplied_kept_frame
      case journal =>
        rw [State.concluded_kept, State.hookOnApplied_last, role]
        rfl
      case check => rw [State.concluded_keptCheck, State.concluded_kept]; rfl
      case links =>
        rw [State.link, State.concluded_links]
        exact State.hookOnApplied_link g
      case crane =>
        rw [state, State.hookOnMoved_craneState, if_pos rfl]
        rfl
      case craneLive =>
        rw [record, State.hookOnMoved_craneLive_self, CraneLive.afterHookOn_eq]
        rfl
      case others =>
        rw [state, State.hookOnMoved_craneState, if_neg hj]
        exact ite_congr (propext ((u.mem_rivals k h j).trans (and_iff_right hj))) (fun _ => rfl) fun _ => rfl
      case othersLive =>
        rw [record, State.hookOnMoved_craneLive hj]
        rfl
      case live =>
        rw [live, State.concluded_live]
        exact State.hookOnApplied_live
      case plan =>
        rw [plan, State.concluded_plan]
        exact State.hookOnApplied_plan
      case tallies =>
        rw [State.concluded_tally, State.hookOnApplied_tallies]
        rfl
      case notices =>
        refine ⟨u.overstowNotice k h d, fun hn => State.overstowNotice_none (s := u) hn,
          fun v hd hv => State.overstowNotice_some (s := u) hd hv, ?_⟩
        intro w lift permits
        have hw : w = a := change
        have order : lift ++ u.overstowNotice k h d ++ permits = ns := by
          change _ ++ _ ++ List.map _ _ = _ ++ List.map _ _
          rw [hw, State.rivals_eq]
          rfl
        rw [order, hw]
        rfl
  · obtain ⟨start, commission, outside, role, own⟩ := s.craneReport_gates p 0x61 n h fun u c h => u.hookOnReport p c h
    exact ⟨fun hp => next_congr (start hp), fun hp => next_congr (commission hp), fun hp hn => next_congr (outside hp hn),
      fun hp h1 h4 hr => next_congr (role hp h1 h4 hr), fun hp h1 h4 hr ho => next_congr (own hp h1 h4 hr ho)⟩

end Sys2Proof.Machine
end

section
/-!
PROOF. LAND and LAND-BACK: the lot off the crane, its lists, the notices and the events (R35, R36, R155 to R157).
-/
namespace Sys2Proof.Machine

/-! ### The lists of a space (R39) -/

theorem Kept.stowAppend_stowList_other (k : Kept) {n m : Nat} (h : Nat) (hm : m ≠ n) : (k.stowAppend n h).stowList m = k.stowList m := by
  unfold Kept.stowAppend
  change ((k.stow.setIfInBounds n _)[m]?).getD [] = (k.stow[m]?).getD []
  rw [Vector.getElem?_setIfInBounds_ne (Ne.symm hm)]

theorem Kept.stowRemove_stowList_other (k : Kept) {n m : Nat} (h : Nat) (hm : m ≠ n) : (k.stowRemove n h).stowList m = k.stowList m := by
  unfold Kept.stowRemove
  change ((k.stow.setIfInBounds n _)[m]?).getD [] = (k.stow[m]?).getD []
  rw [Vector.getElem?_setIfInBounds_ne (Ne.symm hm)]

/-! ### The end of a lift, recorded (R35 to R37) -/

section Lifted
variable (s : State) (p : Port) (c : CraneNo) (h : Nat) (l : Lot) (d : Direction) (back : Bool)

/-- The lot as LAND or LAND-BACK leaves it. -/
def State.liftedLot : Lot := if back then l.landedBack d else l.landed d s.clock (s.craneLive c).weighed

/-- The condition after a LAND or a LAND-BACK, before the change is recorded and the crane is IDLE. -/
def State.liftedKept : Kept :=
  let l' := (s.liftedLot c l d back).from p (s.role p)
  if back then s.kept.putLot h l' else s.kept.land h l' d

/-- The change that a LAND or a LAND-BACK records. -/
def State.liftedRecord : ChangeRecord :=
  { kind := if back then .landBack else .land, handle := some h, space := some l.space, item := none, port := p, role := s.role p,
    overridden := false }

/-- An accounted LAND or LAND-BACK recorded, before its notices and events. -/
def State.lifted : State :=
  ((s.setKept (s.liftedKept p c h l d back)).endLift c).applied s (s.liftedRecord p h l back) [l.space] [.lot h, .hook c]

/-- WEIGHT-DISAGREE where the weighed load differs from the weight before by more than the tolerance (R156). -/
def State.disagreeNotices (w : Option Int) : List (NoticeKind × Nat × List Val) :=
  match w with
  | some x =>
    if s.book.cranes[c.val].tolerance * l.weight < ((x - l.weight).natAbs : Int) * 1000 then
      [(.weightDisagree, 0, [.u8 (c.val + 1), .u16 h, .i32 l.weight, .i32 x])]
    else []
  | none => []

/-- OVERLOAD where the LIVE weight of a space exceeds its maximum (R156). -/
def State.overloadNotices (n : Nat) : List (NoticeKind × Nat × List Val) :=
  match s.spaceBook n with
  | some b =>
    if b.maxWeight < s.liveWeight n then
      [(.overload, 0, [.u8 (c.val + 1), .u16 h, .u8 n, .i32 (s.liveWeight n), .i32 b.maxWeight])]
    else []
  | none => []

/-- The notices of a LAND or a LAND-BACK, shown as the state `a` after it holds them. -/
def State.liftNotices (a : State) : List (NoticeKind × Nat × List Val) :=
  (.permit, c.val + 1, a.permitVals c) ::
    (if back = false ∧ d = .loading then s.disagreeNotices c h l (s.craneLive c).weighed ++ a.overloadNotices c h l.space else [])

/-- The events of a LAND; a LAND-BACK has none. -/
def State.liftEvents : List TallyEvent :=
  if back then []
  else match d with
    | .loading =>
      [lotMoves 1 (s.role p) (s.groupOf l.space), tonnage 0 (s.role p) (s.groupOf l.space) (s.liftedLot c l d back).weight]
    | .discharging => [lotMoves 3 (s.role p) (s.groupOf l.space), tonnage 1 (s.role p) (s.groupOf l.space) l.weight]

theorem State.weightNotice_eq (w : Option Int) : s.weightNotice c h l.weight w = s.issues (s.disagreeNotices c h l w) := by
  cases w with
  | none => rfl
  | some x =>
    unfold State.weightNotice State.disagreeNotices
    dsimp only
    split <;> rfl

theorem State.overloadNotice_eq (n : Nat) : s.overloadNotice c h n = s.issues (s.overloadNotices c h n) := by
  unfold State.overloadNotice State.overloadNotices
  cases s.spaceBook n with
  | none => rfl
  | some b =>
    dsimp only
    split <;> rfl

theorem State.issues_book (ns : List (NoticeKind × Nat × List Val)) : (s.issues ns).book = s.book := by rw [State.issues_frame]

theorem State.issues_disagree (ns : List (NoticeKind × Nat × List Val)) (w : Option Int) :
    (s.issues ns).disagreeNotices c h l w = s.disagreeNotices c h l w := by
  unfold State.disagreeNotices
  rw [State.issues_book]

theorem State.overloadNotices_congr {t : State} (hbook : t.book = s.book) (hkept : t.kept = s.kept) (n : Nat) :
    t.overloadNotices c h n = s.overloadNotices c h n := by
  have space : t.spaceBook n = s.spaceBook n := by unfold State.spaceBook; rw [hbook]
  have weight : t.liveWeight n = s.liveWeight n := by unfold State.liveWeight; rw [hkept]
  unfold State.overloadNotices
  rw [space, weight]

theorem State.lifted_withChange : s.lifted p c h l d back = s.withChange (s.lifted p c h l d back) :=
  State.applied_withChange _ _ _ rfl

theorem State.lifted_book : (s.lifted p c h l d back).book = s.book := by
  rw [State.lifted, State.applied_book]
  rfl

theorem Lot.landed_loading (now : Clock) (w : Option Int) :
    l.landed .loading now w = { l with state := .stowed .keep now, verified := w.or l.verified } := by
  cases w <;> rfl

/-- The notices of a landing for loading are one sequence. -/
theorem State.landNotices (a : State) :
    ((a.permitNotice c).weightNotice c h l.weight (s.craneLive c).weighed).overloadNotice c h l.space =
      a.issues ((.permit, c.val + 1, a.permitVals c) ::
        (a.disagreeNotices c h l (s.craneLive c).weighed ++ a.overloadNotices c h l.space)) := by
  have permit : a.permitNotice c = a.issues [(.permit, c.val + 1, a.permitVals c)] := rfl
  have overload (ns : List (NoticeKind × Nat × List Val)) : (a.issues ns).overloadNotices c h l.space = a.overloadNotices c h l.space :=
    a.overloadNotices_congr c h (a.issues_book ns) (by rw [State.issues_frame]) _
  rw [permit, State.weightNotice_eq, State.issues_disagree, ← State.issues_append, State.overloadNotice_eq, overload,
    ← State.issues_append]
  rfl

/-- An accounted LAND or LAND-BACK is a recorded change with its notices and events. -/
theorem State.lifted_concluded :
    (if back then s.accountLandBack p c h l d else s.accountLand p c h l d).settle =
      (s.lifted p c h l d back).concluded (s.liftNotices c h l d back (s.lifted p c h l d back)) (s.liftEvents p c l d back) := by
  cases back with
  | true => rfl
  | false =>
    cases d with
    | discharging => rfl
    | loading =>
      have disagree : s.disagreeNotices c h l (s.craneLive c).weighed =
          (s.lifted p c h l .loading false).disagreeNotices c h l (s.craneLive c).weighed := by
        unfold State.disagreeNotices
        rw [State.lifted_book]
      have notices := s.landNotices c h l (s.lifted p c h l .loading false)
      rw [← disagree] at notices
      exact congrArg (fun t : State => (t.countAll (s.liftEvents p c l .loading false)).settle) notices

/-! ### What the record holds -/

/-- The condition after a LAND or a LAND-BACK but for its record. -/
theorem State.liftedKept_frame :
    s.liftedKept p c h l d back =
      { s.kept with
        lots := tablePut s.kept.lots h ((s.liftedLot c l d back).from p (s.role p))
        stow := (s.liftedKept p c h l d back).stow
        ashore := if back = false ∧ d = .discharging then s.kept.ashore ++ [h] else s.kept.ashore } := by
  cases back <;> cases d <;> rfl

theorem State.liftedKept_stowList (n : Nat) (hn : n < 48) :
    (s.liftedKept p c h l d back).stowList n =
      if back = true ∨ n ≠ l.space then s.kept.stowList n
      else match d with
        | .loading => s.kept.stowList n ++ [h]
        | .discharging => (s.kept.stowList n).filter fun j => j ≠ h := by
  cases back with
  | true => exact (if_pos (.inl rfl)).symm
  | false =>
    let put := s.kept.putLot h ((s.liftedLot c l d false).from p (s.role p))
    have lists (m : Nat) : put.stowList m = s.kept.stowList m := rfl
    by_cases hne : n = l.space
    · subst hne
      rw [if_neg (by simp)]
      cases d with
      | loading => exact (put.stowAppend_stowList l.space h l.space hn).trans (if_pos rfl)
      | discharging => exact (put.stowRemove_stowList l.space h l.space hn).trans (if_pos rfl)
    · rw [if_pos (.inr hne)]
      cases d with
      | loading => exact put.stowAppend_stowList_other h hne
      | discharging => exact put.stowRemove_stowList_other h hne

theorem State.lifted_kept :
    (s.lifted p c h l d back).kept =
      ({ s.liftedKept p c h l d back with cranes := s.kept.cranes.set c.val .idle c.isLt } : Kept).record
        (s.liftedRecord p h l back) := by
  have cranes : (s.liftedKept p c h l d back).cranes = s.kept.cranes := by rw [State.liftedKept_frame]
  rw [State.lifted, State.applied_kept, ← cranes]
  rfl

theorem State.lifted_kept_frame :
    (s.lifted p c h l d back).kept =
      { s.kept with
        lots := (s.lifted p c h l d back).kept.lots
        stow := (s.lifted p c h l d back).kept.stow
        ashore := if back = false ∧ d = .discharging then s.kept.ashore ++ [h] else s.kept.ashore
        cranes := s.kept.cranes.set c.val .idle c.isLt
        generation := s.kept.generation + 1
        journal := (s.lifted p c h l d back).kept.journal } := by
  rw [State.lifted_kept, State.liftedKept_frame, Kept.record_frame]

theorem State.lifted_lot (j : Nat) :
    (s.lifted p c h l d back).kept.lot j =
      if j = h then some ((s.liftedLot c l d back).from p (s.role p)) else s.kept.lot j := by
  rw [State.lifted_kept, Kept.record_lot, State.liftedKept_frame]
  exact s.kept.putLot_lot h _ j

theorem State.lifted_stowList (n : Nat) : (s.lifted p c h l d back).kept.stowList n = (s.liftedKept p c h l d back).stowList n := by
  rw [State.lifted_kept, Kept.record_frame]
  rfl

theorem State.lifted_last :
    (s.lifted p c h l d back).kept.journal.getLast? =
      some { generation := s.kept.generation + 1, kind := if back then .landBack else .land, handle := some h, space := some l.space,
             item := none, port := p, role := s.role p, overridden := false } := by
  rw [State.lifted_kept, Kept.record_last, State.liftedKept_frame]
  rfl

theorem State.lifted_link (g : Group) :
    (s.lifted p c h l d back).link g = (s.link g).filter fun x => x.target ≠ l.space := by
  have stood : ((s.setKept (s.liftedKept p c h l d back)).endLift c).vol.links = s.vol.links := by rw [State.endLift_frame]; rfl
  rw [State.lifted]
  exact State.applied_link _ _ _ stood g

theorem State.lifted_craneLive (e : CraneNo) :
    (s.lifted p c h l d back).craneLive e = ((s.setKept (s.liftedKept p c h l d back)).endLift c).craneLive e := by
  rw [State.craneLive, State.lifted, State.applied_cranes]
  rfl

theorem State.endLift_craneLive_self :
    (s.endLift c).craneLive c =
      { s.craneLive c with
        worst := none
        reasons := { vote := false, limit := false, stale := false }
        limitGen := none
        voteInCheck := false
        boom := none
        freeReading := false } := by
  rw [State.endLift, State.onCrane_craneLive_self, State.toIdle, State.onCrane_craneLive_self]
  rfl

theorem State.lifted_live :
    (s.lifted p c h l d back).vol.live =
      shiftSums s.vol.live [s.itemLive (.lot h), s.itemLive (.hook c)]
        [(s.lifted p c h l d back).itemLive (.lot h), (s.lifted p c h l d back).itemLive (.hook c)] := by
  obtain ⟨live, -⟩ := State.applied_items (v := (s.setKept (s.liftedKept p c h l d back)).endLift c) (s := s)
    (s.liftedRecord p h l back) [l.space] [.lot h, .hook c]
  rw [State.lifted, live]
  rfl

theorem State.lifted_plan :
    (s.lifted p c h l d back).vol.plan =
      shiftSums s.vol.plan [s.itemPlan (.lot h)] [(s.lifted p c h l d back).itemPlan (.lot h)] := by
  obtain ⟨-, plan⟩ := State.applied_items (v := (s.setKept (s.liftedKept p c h l d back)).endLift c) (s := s)
    (s.liftedRecord p h l back) [l.space] [.lot h, .hook c]
  rw [State.lifted, plan, ← shiftSums_hook _ _ _ s ((s.setKept (s.liftedKept p c h l d back)).endLift c) c]
  rfl

theorem State.lifted_tallies : (s.lifted p c h l d back).vol.tallies = s.vol.tallies := by
  rw [State.lifted_withChange]
  rfl

end Lifted

/-! ### The reports -/

section Reports
variable {s : State} {p : Port} {c : CraneNo} {h : Nat} {l : Lot} {d : Direction}

theorem State.accountable_eq_none (hn : (∀ d, (s.craneState c).lift ≠ some (h, d)) ∨ s.kept.lot h = none) : s.accountable c h = none := by
  cases ha : s.accountable c h with
  | none => rfl
  | some e =>
    obtain ⟨l, d⟩ := e
    obtain ⟨lift, lot⟩ := State.accountable_eq_some ha
    rcases hn with hn | hn
    · exact absurd lift (hn d)
    · rw [hn] at lot; cases lot

theorem State.accountable_of (hlift : (s.craneState c).lift = some (h, d)) (hlot : s.kept.lot h = some l) :
    s.accountable c h = some (l, d) := by
  simp only [State.accountable, hlift, hlot, if_true]

/-- LAND-BACK or LAND, delivered in SERVICE from the port of the crane. -/
theorem exec_landing {k : CraneNo} (hp : s.part = .service) (hr : s.role p = .crane) (ho : s.ownsCrane p (k.val + 1) = true)
    (back : Bool) :
    exec (if back then .landBack p (k.val + 1) h else .land p (k.val + 1) h) s = .next
      (if back then (s.hear p).landBackReport p k h else (s.hear p).landReport p k h).settle := by
  cases back with
  | true => exact next_congr (State.craneReport_accounts hp hr ho)
  | false => exact next_congr (State.craneReport_accounts hp hr ho)

/-- A landing that does not end a lift of its crane is discarded. -/
theorem State.landing_discarded (ha : s.accountable c h = none) (back : Bool) :
    (if back then s.landBackReport p c h else s.landReport p c h) = s.landDiscarded c (if back then 0x63 else 0x62) h := by
  cases back with
  | true => simp only [State.landBackReport, ha, if_true]
  | false => simp only [State.landReport, ha, Bool.false_eq_true, if_false]

theorem State.landing_accounted (ha : s.accountable c h = some (l, d)) (back : Bool) :
    (if back then s.landBackReport p c h else s.landReport p c h) =
      if back then s.accountLandBack p c h l d else s.accountLand p c h l d := by
  cases back with
  | true => simp only [State.landBackReport, ha, if_true]
  | false => simp only [State.landReport, ha, Bool.false_eq_true, if_false]

end Reports

/-- Settles O54: a report that ends no lift, one that does with its record, notices and events, and the gates before either. -/
theorem landingsEndTheLift : Obligations.LandingsEndTheLift := by
  unfold Obligations.LandingsEndTheLift
  refine ⟨fun s p k h => ?_, fun s p n h back => ?_⟩
  · intro u hp hr ho
    have served (back : Bool) : exec (if back then .landBack p (k.val + 1) h else .land p (k.val + 1) h) s =
        .next (if back then u.landBackReport p k h else u.landReport p k h).settle := exec_landing hp hr ho back
    have role : u.role p = .crane := hr
    refine ⟨fun hn => ?_, fun l d hlift hlot => ?_⟩
    · have discarded (back : Bool) := State.landing_discarded (s := u) (p := p) (State.accountable_eq_none hn) back
      have report (back : Bool) := (served back).trans (next_congr (congrArg State.settle (discarded back)))
      refine ⟨fun hh => ?_, fun hh => ?_⟩
      · have known : ∀ kind, u.landDiscarded k kind h = u.outOfOrder k kind h := fun kind => if_pos ((handleOk_iff h).2 hh)
        simp only [known] at report
        exact ⟨report false, report true⟩
      · have unknown : ∀ kind, u.landDiscarded k kind h = u.unknownLotNotice k h := fun kind =>
          if_neg fun hk => absurd ((handleOk_iff h).1 hk) (by omega)
        simp only [unknown] at report
        exact ⟨report false, report true⟩
    · intro weighed landed returned es back
      let a := u.lifted p k h l d back
      let ns := u.liftNotices k h l d back a
      have hlifted : u.liftedLot k l d back = if back then returned else landed := by
        cases back with
        | true => cases d <;> rfl
        | false =>
          cases d with
          | loading => exact Lot.landed_loading l s.clock weighed
          | discharging => rfl
      have hlot' : (u.liftedLot k l d back).from p (u.role p) =
          { (if back then returned else landed) with originPort := p, originRole := .crane } := by
        rw [hlifted, role]
        rfl
      have hes : u.liftEvents p k l d back = es back := by
        unfold State.liftEvents
        rw [role, hlifted]
        cases back <;> cases d <;> rfl
      have done : exec (if back then .landBack p (k.val + 1) h else .land p (k.val + 1) h) s = .next (a.concluded ns (es back)) := by
        rw [served back, State.landing_accounted (s := u) (State.accountable_of hlift hlot) back, State.lifted_concluded, hes]
      have change : u.withChange (a.concluded ns (es back)) = a := State.withChange_concluded (u.lifted_withChange ..) ns (es back)
      obtain ⟨live, plan⟩ := a.concluded_items ns (es back)
      have record (j : CraneNo) :
          (a.concluded ns (es back)).craneLive j = ((u.setKept (u.liftedKept p k h l d back)).endLift k).craneLive j := by
        rw [State.craneLive, State.concluded_cranes]
        exact u.lifted_craneLive p k h l d back j
      refine ⟨a.concluded ns (es back), done, fun j => ?lot, ?kept, fun n hn => ?lists, ?journal, ?check, fun g => ?links, ?crane,
        fun j hj => ?others, ?live, ?plan, fun i => ?tallies, ?notices⟩
      case lot => rw [State.concluded_kept, State.lifted_lot, hlot']; rfl
      case kept =>
        rw [State.concluded_kept]
        exact u.lifted_kept_frame ..
      case lists =>
        rw [State.concluded_kept, State.lifted_stowList]
        exact u.liftedKept_stowList p k h l d back n hn
      case journal =>
        rw [State.concluded_kept, State.lifted_last, role]
        rfl
      case check => rw [State.concluded_keptCheck, State.concluded_kept]; rfl
      case links =>
        rw [State.link, State.concluded_links]
        exact u.lifted_link p k h l d back g
      case crane =>
        rw [record, State.endLift_craneLive_self]
        rfl
      case others =>
        rw [record, State.endLift_craneLive _ _ _ hj]
        rfl
      case live =>
        rw [live, State.concluded_live]
        exact u.lifted_live ..
      case plan =>
        rw [plan, State.concluded_plan]
        exact u.lifted_plan ..
      case tallies =>
        rw [State.concluded_tally, State.lifted_tallies]
        rfl
      case notices =>
        intro w disagree overload
        have hw : w = a := change
        have space : (a.concluded ns (es back)).spaceBook l.space = s.spaceBook l.space := by
          unfold State.spaceBook
          rw [State.concluded_book, State.lifted_book]
          rfl
        have hover : overload = a.overloadNotices k h l.space := by
          rw [← a.overloadNotices_congr k h (a.concluded_book ns (es back)) (a.concluded_kept ns (es back))]
          unfold State.overloadNotices
          rw [space] <;> rfl
        have order : (.permit, k.val + 1, w.permitVals k) :: (if back = false ∧ d = .loading then disagree ++ overload else []) = ns := by
          rw [hw, hover]
          rfl
        rw [order, hw]
        rfl
  · intro u c kind
    obtain ⟨account, served⟩ : ∃ account, exec c s = .next (s.reportDelivered p fun t => t.takeCraneReport p kind n h account) := by
      cases back with
      | true => exact ⟨fun u c h => u.landBackReport p c h, rfl⟩
      | false => exact ⟨fun u c h => u.landReport p c h, rfl⟩
    obtain ⟨start, commission, outside, role, own⟩ := s.craneReport_gates p kind n h account
    rw [served]
    exact ⟨fun hp => next_congr (start hp), fun hp => next_congr (commission hp), fun hp hn => next_congr (outside hp hn),
      fun hp h1 h4 hr => next_congr (role hp h1 h4 hr), fun hp h1 h4 hr ho => next_congr (own hp h1 h4 hr ho)⟩

end Sys2Proof.Machine
end

section
/-!
PROOF. COMMIT and the completion of a link's TRIAL: the rows of the constraint check, the applied amendment, and the cases of either
(R27 to R33, R42 to R46, R120, R131 to R134, R178).
-/
namespace Sys2Proof.Machine

/-! ### The constraint check of an amendment (R42, Table 2-3) -/

section Check
variable {s : State} {am : Amendment}

/-- The states that step 2 allows are those of the row. -/
theorem Amendment.allows_iff (st : LotState) {h : Nat} {p : LotState → Prop} (ht : (s.amendmentTests am).lot = some (h, p)) :
    am.allows st = true ↔ p st := by
  cases am <;> cases ht <;> rcases st with _ | _ | _ | ⟨_ | _, _⟩ | _ <;> simp [Amendment.allows]

/-- Step 2 looks at the lot that the amendment names. -/
theorem State.amendmentTests_lot {h : Nat} {p : LotState → Prop} (ht : (s.amendmentTests am).lot = some (h, p)) :
    s.amendLot am = s.kept.lot h := by
  cases am <;> cases ht <;> rfl

/-- The state of the lot that an amendment names is one that its row allows. -/
def State.amendAllowed (s : State) (am : Amendment) : Bool := (s.amendLot am).all fun l => am.allows l.state

/-- The check of an amendment is that of its row, step by step. -/
theorem State.checkAmendment_steps (s : State) (am : Amendment) :
    s.checkAmendment am =
      firstRefusal [s.stepAnswer (s.amendmentTests am) (s.amendAllowed am) 1, s.stepAnswer (s.amendmentTests am) (s.amendAllowed am) 2,
        s.stepAnswer (s.amendmentTests am) (s.amendAllowed am) 3, s.stepAnswer (s.amendmentTests am) (s.amendAllowed am) 4,
        s.stepAnswer (s.amendmentTests am) (s.amendAllowed am) 5, s.stepAnswer (s.amendmentTests am) (s.amendAllowed am) 6,
        s.stepAnswer (s.amendmentTests am) (s.amendAllowed am) 7] := by
  cases am with
  | planLoad mark w n q hazard =>
    simp [State.checkAmendment, State.stepAnswer, State.amendmentTests, State.step5_class, firstRefusal_cons, firstRefusal_nil]
  | planShift h n q | planCancel h | markDischarge h | unmark h | directStow h | restow h n q | directRemove h | correctWeight h w =>
    simp only [State.amendAllowed, State.amendLot, Amendment.handle, Option.bind_some]
    cases hl : s.kept.lot h <;>
      simp [State.checkAmendment, State.stepAnswer, State.amendmentTests, State.step1, State.step5_class, firstRefusal_cons,
        firstRefusal_nil, hl]

theorem State.checksTo_amendment (hl : s.kept.lotsInv) (am : Amendment) : s.checksTo (s.amendmentTests am) (s.checkAmendment am) := by
  rw [State.checkAmendment_steps]
  refine checksTo_steps s hl _ _ fun h p l ht hlot => ?_
  have allowed : s.amendAllowed am = am.allows l.state := by
    rw [State.amendAllowed, State.amendmentTests_lot ht, hlot]
    rfl
  rw [allowed]
  exact Amendment.allows_iff l.state ht

end Check

/-! ### The applied amendment (R27 to R33, R37) -/

section Applied
variable {s : State} {am : Amendment} {p : Port}

theorem State.applyAmendment_kept (role : Role) (ov : Bool) :
    ∃ r, (s.applyAmendment am p role ov).kept = (s.amendKept am p role).record r := ⟨_, rfl⟩

theorem State.applyAmendment_amends (ov : Bool) : s.amends (s.applyAmendment am p (s.role p) ov) am p ov := by
  have frame := s.amendKept_frame am p (s.role p)
  refine ⟨rfl, Kept.record_frame .., ?_⟩
  have generation : (s.amendKept am p (s.role p)).generation = s.kept.generation := by rw [frame]
  have journal : (s.amendKept am p (s.role p)).journal = s.kept.journal := by rw [frame]
  exact State.applied_appliesChange _ _ _ ⟨rfl, rfl, rfl, rfl⟩ generation journal rfl

/-- What the effect of an amendment says is not changed by the record of the change. -/
theorem State.amendedTo.recorded {k : Kept} {h : Nat} {role : Role} (hk : s.amendedTo k h am p role) (r : ChangeRecord) :
    s.amendedTo (k.record r) h am p role := by
  obtain ⟨frame, lots, effect⟩ := hk
  refine ⟨?_, lots, effect⟩
  rw [k.record_frame r]
  exact congrArg (fun x : Kept => { x with generation := k.generation + 1, journal := (k.record r).journal }) frame

theorem State.applyAmendment_amendedTo (hc : s.checkAmendment am = none) (hl : s.kept.lotsInv) (ov : Bool) :
    s.amendedTo (s.applyAmendment am p (s.role p) ov).kept (s.amendTarget am) am p (s.role p) := by
  obtain ⟨r, hr⟩ := State.applyAmendment_kept (s := s) (am := am) (p := p) (s.role p) ov
  rw [hr]
  exact (s.amendKept_amendedTo am p (s.role p) hl hc).recorded r

theorem State.applyAmendment_generation (ov : Bool) :
    (s.applyAmendment am p (s.role p) ov).kept.generation = s.kept.generation + 1 := by
  obtain ⟨-, -, generation, -⟩ := State.applyAmendment_amends (s := s) (am := am) (p := p) ov
  exact generation

end Applied

/-! ### COMMIT (R131, R132, R134) -/

section Commit
variable {s : State} {p : Port} {n override : Nat} {g : Group} {l : Link} {am : Amendment}

theorem State.commitGate_eq_none (hr : s.role p ∈ linkRoles) (ho : override = 1 → s.role p = .officer) :
    s.commitGate n override p = none := by
  rw [State.commitGate, State.onlyRoles_eq_none _ hr]
  exact if_neg fun ⟨h1, hne⟩ => hne (ho h1)

/-- A COMMIT that may be sent, with its override flag, reaches its link. -/
theorem exec_commit (h : s.asks p (.commit p n override) linkRoles) (ho : override = 1 → s.role p = .officer) :
    exec (.commit p n override) s = .next
      (match groupIdx n with
       | none => s.malformed p
       | some g => if override ≤ 1 then (s.commitOn p g (override == 1)).settle else s.malformed p) := by
  obtain ⟨hp, hs, hr⟩ := h
  exact next_congr (s.serve_service p _ _ _ _ hs hp (by decide) (State.commitGate_eq_none hr ho))

theorem exec_commit_group (h : s.asks p (.commit p (g.val + 1) override) linkRoles) (ho : override = 1 → s.role p = .officer)
    (hle : override ≤ 1) : exec (.commit p (g.val + 1) override) s = .next (s.commitOn p g (decide (override = 1))).settle := by
  rw [exec_commit h ho, groupIdx_val_add_one]
  exact next_congr (if_pos hle)

theorem State.commitOn_absent (ov : Bool) (h : s.link g = none ∨ ∃ l, s.link g = some l ∧ l.owner ≠ p) :
    s.commitOn p g ov = s.answer p .linkAbsent [.u64 s.kept.generation] := by
  unfold State.commitOn
  rcases h with h | ⟨l, h, ho⟩
  · rw [h]; rfl
  · rw [h]; exact if_pos ho

section Own
variable (ov : Bool) (hl : s.link g = some l) (ho : l.owner = p)
include hl ho

theorem State.commitOn_empty (h : l.staged = none) :
    s.commitOn p g ov = (s.setLink g none).answer p .linkAbsent [.u64 s.kept.generation] := by
  simp only [State.commitOn, hl, ho, ne_eq, not_true_eq_false, if_false, h]
  rfl

theorem State.commitOn_staged (h : l.staged = some am) :
    s.commitOn p g ov =
      match s.checkAmendment am with
      | some r => s.refuseCommit p g r
      | none => if am.isLive then s.commitLive p g l am ov else s.commitPlan p g am := by
  simp only [State.commitOn, hl, ho, ne_eq, not_true_eq_false, if_false, h] <;> rfl

end Own

/-- The reply ACCEPTED to a plan-only amendment. -/
theorem State.commitPlan_eq :
    s.commitPlan p g am =
      ((s.applyAmendment am p (s.role p) false).answer p .accepted
        (.u64 (s.kept.generation + 1) :: (if am.handle = none then [.u16 (s.amendTarget am)] else []))).count
        (s.amendmentEvent 0 p g) := by
  have handle : (match am.handle with
      | none => [Val.u16 (s.amendTarget am)]
      | some _ => []) = if am.handle = none then [Val.u16 (s.amendTarget am)] else [] := by
    cases am.handle with
    | none => exact (if_pos rfl).symm
    | some h => exact (if_neg (by simp)).symm
  rw [State.commitPlan, ← handle, ← State.applyAmendment_generation] <;> rfl

end Commit

/-- Settles O49: COMMIT by its link, its constraint check and its kind, and the rows of that check. -/
theorem commitChecksAppliesOrTries : Obligations.CommitChecksAppliesOrTries := by
  unfold Obligations.CommitChecksAppliesOrTries
  refine ⟨fun s p n override hask => ?_, fun s p n override hover hask => ?_, fun s am hl => State.checksTo_amendment hl am⟩
  · obtain ⟨asks, officer, flag⟩ : s.asks p (.commit p n override) linkRoles ∧ (override = 1 → s.role p = .officer) ∧ override ≤ 1 := by
      rcases hask with ⟨⟨hp, hs, hr⟩, hle⟩ | ⟨⟨hp, hs, hr⟩, rfl⟩
      · have isOfficer := List.mem_singleton.1 hr
        exact ⟨⟨hp, hs, by rw [isOfficer]; decide⟩, fun _ => isOfficer, hle⟩
      · exact ⟨⟨hp, hs, List.mem_cons_of_mem _ hr⟩, fun h => absurd h (by decide), Nat.zero_le 1⟩
    intro event gen
    refine ⟨fun hn => ?_, fun g hg => ?_⟩
    · rw [exec_commit asks officer, groupIdx_eq_none hn]; rfl
    · subst hg
      rw [exec_commit_group asks officer flag]
      refine ⟨fun hfree => ?_, fun l hl ho => ⟨fun hempty => ?_, fun am ham => ?_⟩⟩
      · rw [State.commitOn_absent _ hfree]
      · rw [State.commitOn_empty _ hl ho hempty]
      · rw [State.commitOn_staged _ hl ho ham]
        refine ⟨fun st v hc => ?_, fun hc hplan => ⟨s.applyAmendment am p (s.role p) false, State.applyAmendment_amends false,
          fun hlots => State.applyAmendment_amendedTo hc hlots false, ?_⟩, fun hc hlive => ?_⟩
        · rw [hc]; rfl
        · rw [hc, hplan]
          exact next_congr (congrArg State.settle State.commitPlan_eq)
        · rw [hc, hlive]; rfl
  · have asked := hask
    obtain ⟨-, -, hr⟩ := asked
    rw [exec_commit hask fun h => by omega]
    cases groupIdx n with
    | none => rfl
    | some g => exact next_congr (if_neg (by omega))

/-! ### The completion of a link's TRIAL (R120, R133, R178) -/

section Trial
variable {s : State} {p : Port} {role : Role} {g : Group} {am : Amendment} {l : Link} {f : Figures}

theorem exec_commitTrialComplete {snap : Snapshot} (hr : s.vol.running = some { kind := .trial p, snap := snap })
    (ht : s.trial p = some { role := role, change := .link g am }) :
    exec .commitTrialComplete s = .next ((((s.endTrial p).decideCommit p g am (evaluate s.book snap)).count
      (s.trialEvent { role := role, change := .link g am })).settle) := by
  have arm : exec .commitTrialComplete s = execCommitTrialComplete s := rfl
  rw [arm, execCommitTrialComplete, hr]
  dsimp only
  rw [ht]

theorem State.committed_eq_some (hl : s.link g = some l) (ho : l.owner = p) (hc : l.committing = true) : s.committed p g = some l := by
  rw [State.committed, hl]
  exact if_pos ⟨ho, hc⟩

theorem State.committed_eq_none (h : ¬ ∃ l, s.link g = some l ∧ l.owner = p ∧ l.committing = true) : s.committed p g = none := by
  rw [State.committed]
  cases hl : s.link g with
  | none => rfl
  | some l => exact if_neg fun hc => h ⟨l, hl, hc⟩

theorem State.decideCommit_lost (h : s.committed p g = none) :
    s.decideCommit p g am f = (s.replyLink p .linkLost).count (s.amendmentEvent 3 p g) := by
  rw [State.decideCommit, h]

theorem State.decideCommit_refused (h : s.committed p g = some l) {r : Refused} (hc : s.checkAmendment am = some r) :
    s.decideCommit p g am f = s.refuseCommit p g r := by
  rw [State.decideCommit, h]
  dsimp only
  rw [hc]

section Checked
variable (h : s.committed p g = some l) (hc : s.checkAmendment am = none)
include h hc

theorem State.decideCommit_accepted (hf : f.failing = false) : s.decideCommit p g am f = s.acceptLive p g am f false := by
  rw [State.decideCommit, h]
  dsimp only
  rw [hc]
  exact if_pos hf

theorem State.decideCommit_overridden (hf : f.failing = true) (ho : l.override = true) :
    s.decideCommit p g am f = s.acceptLive p g am f true := by
  rw [State.decideCommit, h]
  dsimp only
  rw [hc]
  exact (if_neg (by simp [hf])).trans (if_pos ho)

theorem State.decideCommit_rejected (hf : f.failing = true) (ho : l.override = false) :
    s.decideCommit p g am f =
      ((s.setLink g none).answer p .rejectedLimits (.u64 s.kept.generation :: trialSummary f)).count (s.amendmentEvent 2 p g) := by
  rw [State.decideCommit, h]
  dsimp only
  rw [hc]
  exact (if_neg (by simp [hf])).trans (if_neg (by simp [ho]))

end Checked

/-- The reply and the events of an applied live amendment. -/
theorem State.acceptLive_eq (ov : Bool) :
    s.acceptLive p g am f ov =
      ((s.applyAmendment am p (s.role p) ov).answer p (if ov then .acceptedOverridden else .accepted)
        (.u64 (s.kept.generation + 1) :: trialSummary f)).countAll
        (s.amendEvents am (s.role p) ++ [s.amendmentEvent (if ov then 1 else 0) p g]) := by
  rw [State.acceptLive, ← State.applyAmendment_generation ov]

/-- The moves and the weight of an amendment that stows or removes its lot (R178). -/
theorem State.amendEvents_eq (role : Role) :
    s.amendEvents am role =
      match am.handle.bind s.kept.lot with
      | none => []
      | some l =>
        let move := fun (cls : EventClass) (sub amount : Nat) =>
          ({ cls := cls, sub := sub, role := some role, group := some (s.groupOf l.space), amount := amount } : TallyEvent)
        match am with
        | .directStow _ => [move .lotMoves 4 1, move .tonnage 0 (l.verified.getD l.declared).toNat]
        | .directRemove _ => [move .lotMoves 5 1, move .tonnage 1 (l.verified.getD l.declared).toNat]
        | _ => [] := by
  unfold State.amendEvents State.amendLot
  cases am <;> cases Option.bind _ s.kept.lot <;> rfl

end Trial

/-- Settles O50: the decision takes the first case of R133 that applies. -/
theorem commitTrialTakesTheFirstCase : Obligations.CommitTrialTakesTheFirstCase := by
  unfold Obligations.CommitTrialTakesTheFirstCase
  intro s p snap role g am hr ht f u event trial gen moves stands
  have complete : exec .commitTrialComplete s = .next (((u.decideCommit p g am f).count trial).settle) := exec_commitTrialComplete hr ht
  have events : u.amendEvents am (u.role p) = moves := State.amendEvents_eq (u.role p)
  have accepted (ov : Bool) : u.acceptLive p g am f ov =
      ((u.applyAmendment am p (u.role p) ov).answer p (if ov then .acceptedOverridden else .accepted)
        (.u64 (s.kept.generation + 1) :: trialSummary f)).countAll (moves ++ [event (if ov then 1 else 0)]) := by
    rw [State.acceptLive_eq, events]
    rfl
  refine ⟨fun hlost => ?lost, fun ⟨l, hl, ho, hcom⟩ st v hc => ?refused, fun ⟨l, hl, ho, hcom⟩ hc hf => ?accepted,
    fun l hl ho hcom hc hf => ⟨fun hover => ?overridden, fun hover => ?rejected⟩⟩
  case lost =>
    rw [complete, State.decideCommit_lost (s := u) (State.committed_eq_none hlost)]; rfl
  case refused =>
    rw [complete, State.decideCommit_refused (s := u) (State.committed_eq_some hl ho hcom) hc]; rfl
  case accepted =>
    refine ⟨u.applyAmendment am p (u.role p) false, State.applyAmendment_amends false,
      fun hlots => State.applyAmendment_amendedTo (s := u) hc hlots false, ?_⟩
    rw [complete, State.decideCommit_accepted (s := u) (State.committed_eq_some hl ho hcom) hc hf, accepted]; rfl
  case overridden =>
    refine ⟨u.applyAmendment am p (u.role p) true, State.applyAmendment_amends true,
      fun hlots => State.applyAmendment_amendedTo (s := u) hc hlots true, ?_⟩
    rw [complete, State.decideCommit_overridden (s := u) (State.committed_eq_some hl ho hcom) hc hf hover, accepted]; rfl
  case rejected =>
    rw [complete, State.decideCommit_rejected (s := u) (State.committed_eq_some hl ho hcom) hc hf hover]; rfl

end Sys2Proof.Machine
end

section
/-!
PROOF. The completion of a LIVE or a PLAN pass, and the figures of a pass (R81 to R105, R116 to R118).
-/
namespace Sys2Proof.Machine

/-! ### The notice of a verdict (R118) -/

section Due
variable {old : Option Verdict} {v : Verdict}

theorem noticeDue_true
    (h : old = none ∨ ∃ o, old = some o ∧ (o.fig.fails ≠ v.fig.fails ∨ o.fig.flags ≠ v.fig.flags)) : noticeDue old v = true := by
  rcases h with rfl | ⟨o, rfl, h⟩
  · rfl
  · simpa [noticeDue] using h

theorem noticeDue_false {o : Verdict} (h : old = some o) (hfails : o.fig.fails = v.fig.fails) (hflags : o.fig.flags = v.fig.flags) :
    noticeDue old v = false := by
  subst h
  simp [noticeDue, hfails, hflags]

end Due

/-! ### The completions (R117) -/

section Complete
variable {s : State} {snap : Snapshot}

theorem exec_planPassComplete (h : s.vol.running = some { kind := .plan, snap := snap }) :
    exec .planPassComplete s = .next (s.completePlan snap).settle := by
  have arm : exec .planPassComplete s = execPlanPassComplete s := rfl
  rw [arm, execPlanPassComplete, h]

theorem exec_livePassComplete_none (h : ∀ snap, s.vol.running ≠ some { kind := .live, snap := snap }) :
    exec .livePassComplete s = .next s := by
  have arm : exec .livePassComplete s = execLivePassComplete s := rfl
  rw [arm, execLivePassComplete]
  split
  · rename_i snap hr
    exact absurd hr (h snap)
  all_goals rfl

theorem exec_planPassComplete_none (h : ∀ snap, s.vol.running ≠ some { kind := .plan, snap := snap }) :
    exec .planPassComplete s = .next s := by
  have arm : exec .planPassComplete s = execPlanPassComplete s := rfl
  rw [arm, execPlanPassComplete]
  split
  · rename_i snap hr
    exact absurd hr (h snap)
  all_goals rfl

end Complete

/-! ### The figures (R81) -/

/-- The figures of a pass are those of its stages. -/
theorem evaluate_arePassOf {b : Book} {snap : Snapshot} (hw : 0 < snap.sums.w) (hb : b.sound) :
    (evaluate b snap).arePassOf b snap := by
  obtain ⟨bend, strength⟩ := evaluate_strength b snap hb
  exact ⟨⟨workingOf b snap bend, evaluate_centres b snap bend hw, evaluate_tables b snap bend hb, evaluate_attitude b snap bend hb,
    evaluate_levers b snap bend, strength⟩, evaluate_criteria b snap hb, evaluate_observation b snap⟩

/-- Settles O43: what a completion replaces, announces and counts, and the figures of the pass stage by stage. -/
theorem passCompletionReplacesTheVerdict : Obligations.PassCompletionReplacesTheVerdict := by
  unfold Obligations.PassCompletionReplacesTheVerdict
  refine ⟨fun s => ?_, fun b snap hw hb => evaluate_arePassOf hw hb⟩
  intro event
  refine ⟨fun snap hr => ?live, fun snap hr => ?plan, exec_livePassComplete_none, exec_planPassComplete_none⟩
  case live =>
    intro v u es
    have events : evaluationEvent 0 :: (if v.fig.failing then [evaluationEvent 1] else []) = es := by
      change _ = if v.fig.failing then [event 0, event 1] else [event 0]
      cases v.fig.failing <;> rfl
    have complete : exec .livePassComplete s =
        .next (((if noticeDue s.vol.liveVerdict v then u.issue .verdict 0 (verdictNotice v) else u).countAll es).settle) := by
      rw [exec_livePassComplete s snap hr, ← events]
      rfl
    rw [complete]
    refine ⟨fun hdue => ?_, fun old hold hfails hflags => ?_⟩
    · rw [noticeDue_true hdue, if_pos rfl]
    · rw [noticeDue_false hold hfails hflags, if_neg Bool.false_ne_true]
  case plan =>
    intro v u
    have complete : exec .planPassComplete s =
        .next (((if noticeDue s.vol.planVerdict v then u.issue .planVerdict 0 (verdictNotice v) else u).count (event 3)).settle) :=
      exec_planPassComplete hr
    rw [complete]
    refine ⟨fun hdue => ?_, fun old hold hfails hflags => ?_⟩
    · rw [noticeDue_true hdue, if_pos rfl]
    · rw [noticeDue_false hold hfails hflags, if_neg Bool.false_ne_true]

end Sys2Proof.Machine
end
